-- ==== Sys2Proof/Word.lean ====
section
/-! DEFINITION. The words the JX8640's registers, bank words and TLP headers are made of. -/

namespace Sys2Proof

/-- A register word (R4: registers are 32 bits wide). -/
abbrev Word := BitVec 32

/-- A byte of bank, Granary or host memory. -/
abbrev Byte := BitVec 8

/-- The ports, A = 0 and B = 1. -/
abbrev Port := Fin 2

end Sys2Proof
end

