-- ==== Sys2Proof/Syntax.lean ====
section
/-! DEFINITION. The commands of the block: one constructor of Instr per row of the opcode table, in the table's order,
with the operands each row needs. Acc carries the requester of a register access and its TLP header. -/

namespace Sys2Proof

/-- The requester of a register access: a function, or Filpor (FUNC code 0xF, R49). -/
inductive Req where
  | pf0 | pf1 | pf2 | filpor
  deriving DecidableEq, Repr

/-- A register access: who makes it, the header DW of its TLP as received (R77; empty: no TLP), and whether it arrives in the
clock cycle of the command before it (R58, R98). -/
structure Acc where
  who : Req
  hdr : List Word
  same : Bool
  deriving DecidableEq, Repr

/-- What the bank cells answer on a read (R110), as the environment has it: the DA of words with a single-bit error,
each with whether it persists after the write-back (a hard fault), and the DA of words that read uncorrectable. -/
structure Ecc where
  single : List (Nat × Bool)
  ue : List Nat
  deriving DecidableEq, Repr, Inhabited

/-- The configuration registers of a function that the spec names or leaves to PCIe (R63, R64, R69, R74, R75, R78, R384). -/
inductive CfgReg where
  | id | classCode | headerType | interruptPin | memSpace | busMaster | status | bar (i : Fin 6)
  | maxPayload | maxReadReq | relaxedOrdering | noSnoop | reportCor | reportNonFatal | reportFatal | devStatus | cplTimeout | cplTimeoutOff | ltrEnable
  | aspmL1 | l11 | l12 | ptmEnable | msixEnable | msixFMask | tenBitTags
  | aerStatus | aerMask | aerSeverity | corStatus | corMask | firstError | headerLog (i : Fin 4) | ecrcGen | ecrcCheck
  deriving DecidableEq, Repr

/-- Status of a completion to a device-issued read (R78). -/
inductive CplStatus where
  | sc | ur | ca | crs
  deriving DecidableEq, Repr

/-- An access to a function's MSI-X table or control (R64, R384): writes of a table entry, writes of the control, which lies in
configuration space, and a read of len bytes of BAR4 at off. -/
inductive MsixWrite where
  | addr (v : Fin 256) (x : BitVec 64)
  | data (v : Fin 256) (x : Word)
  | mask (v : Fin 256) (b : Bool)
  | enable (b : Bool)
  | fmask (b : Bool)
  | read (off len : Nat)
  deriving DecidableEq, Repr

/-- The PLLs of R89: core, management, port A, port B, and the PCIe PHY PLL. -/
inductive Pll where
  | core | mgmt | portA | portB | phy
  deriving DecidableEq, Repr

/-- What a power-on reset meets: the trip comparator reads Tj below 95 °C (R45), TESTMODE is high (R27), VBAT is present (R25). -/
structure PorIn where
  cool : Bool
  test : Bool
  vbat : Bool
  deriving DecidableEq, Repr

/-- One millisecond's means from the Sense unit (R103): temperature in 1/256 °C, supplies in mV, input power in mW. -/
structure Readings where
  temp : Int
  vin : Nat
  vhold : Nat
  vao : Nat
  vio : Nat
  vbat : Nat
  mw : Nat
  deriving DecidableEq, Repr

/-- How an SMBus transfer ended (R104, R106). -/
inductive SmbEnd where
  | ok (data : Nat) | nack | pecErr | timeout | arbLost
  deriving DecidableEq, Repr

/-- A supply that can be removed (R25). -/
inductive Supply where
  | vao | vio | vbat
  deriving DecidableEq, Repr

/-- Header mismatches of a sampled lane in one line window (R323): how many, and the most among 64 consecutive blocks. -/
structure HdrErr where
  port : Port
  lane : Fin 24
  errs : Nat
  worst : Nat
  deriving DecidableEq, Repr

/-- What a compose met (R139, R141, R160): its core clocks, the bytes it read from the host and from banks, ACC and STALL per
bank, the sampled granules per region code, and the layers whose bank source read an uncorrectable word, each with the first
output line that needs it. -/
structure Met where
  cycles : Nat
  host : Nat
  bank : Nat
  conf : List (Fin 64 × Nat × Nat)
  samples : List (Nat × List Nat)
  errs : List (Fin 12 × Nat)
  deriving DecidableEq, Repr

/-- The same, with the cells' answers (R110). -/
structure Composed where
  met : Met
  ecc : Ecc
  deriving DecidableEq, Repr

/-- What a training found (R317, R321, R322): the lanes that failed a phase three times, DATA1 of each group's IDENT (none where none
came), the EYE that each lane reported under each preset of a sweep, the duration in µs, and the phase that a failure stopped in. -/
structure TrainIn where
  failed : Nat
  ident : List (Option Nat)
  eyes : List (List Nat)
  us : Nat
  phase : Nat
  deriving DecidableEq, Repr

/-- The blocks of one window of a lane, of 132 bits each (R328): as they were fed to the serialiser, and as the pad's sampler read them. -/
structure Sampled where
  fed : List Nat
  got : List Nat
  deriving DecidableEq, Repr

/-- What arrives in a response slot (R316-R319, R327): the group asked; a valid RSP with its group, opcode echo, code and
data; a header or CRC error; a wrong group or opcode; a burst outside its slot; nothing. -/
inductive RspIn where
  | ok (code : Nat) (data0 data1 : Nat)
  | corrupt | wrong | outside | silent
  deriving DecidableEq, Repr

/-- The commands. -/
inductive Instr where
  | registerWrite (a : Acc) (addr len : Nat) (data : List (Option Byte))
  | setAliasWrite (a : Acc) (pg : Fin 64) (off : Nat) (x : Word)
  | clearAliasWrite (a : Acc) (pg : Fin 64) (off : Nat) (x : Word)
  | rcRead (a : Acc) (addr : Nat) (len : Nat)
  | devtimeRead (a : Acc)
  | interruptNsRead (a : Acc) (operate : Bool)
  | softReset (a : Acc) (pg : Fin 64)
  | errClear (a : Acc) (pg : Fin 64)
  | evPendClear (a : Acc) (pg : Fin 64) (x : Word)
  | evForce (a : Acc) (pg : Fin 64) (x : Word)
  | commitReq (a : Acc) (pg : Fin 64)
  | commitCheckDone (g : Fin 4)
  | commitApplyNoRaster (g : Fin 4)
  | configRequest (f : Fin 3) (r : CfgReg) (w : Option Nat) (usReset usPerst : Nat)
  | bar2BankRead (f : Fin 3) (hdr : List Word) (da len : Nat) (ecc : Ecc)
  | bar2BankWrite (f : Fin 3) (hdr : List Word) (da : Nat) (data : List (Option Byte)) (ecc : Ecc)
  | bar2SetAliasWrite (f : Fin 3) (hdr : List Word) (da : Nat) (data : List (Option Byte)) (ecc : Ecc)
  | bar2ClearAliasWrite (f : Fin 3) (hdr : List Word) (da : Nat) (data : List (Option Byte)) (ecc : Ecc)
  | granaryWindowRead (f : Fin 3) (ga len : Nat) (ecc : Ecc)
  | granaryWindowWrite (f : Fin 3) (hdr : List Word) (ga : Nat)
  | reservedBarAccess (f : Fin 3) (hdr : List Word) (write : Bool) (len : Nat)
  | malformedTlp (a : Acc)
  | ecrcError (a : Acc)
  | poisonedWrite (a : Acc)
  | unexpectedCompletion (a : Acc)
  | unsupportedRequest (a : Acc) (posted : Bool)
  | readCompletion (f : Fin 3) (tag : Nat) (st : CplStatus) (poisoned : Bool) (data : List Byte) (hdr : List Word) (line : Nat)
  | cplTimeout (f : Fin 3) (tag : Nat) (line : Nat)
  | perstAssert
  | perstRelease
  | hotReset
  | linkUp (speed width : Nat) (flit : Bool)
  | functionLevelReset (f : Fin 3) (line : Nat)
  | powerStateChange (f : Fin 3) (st : Fin 3)
  | aspmL1Entry
  | l1ExitLead
  | ptmRequest
  | ptmDialogueDone (host : Nat)
  | ptmValidLost
  | msixTableWrite (f : Fin 3) (w : MsixWrite)
  | msixSend (f : Fin 3) (v : Fin 256)
  | routeWrite (a : Acc) (e : Fin 256) (x : Word)
  | powerOnReset (cool : PorIn)
  | porNReset (ns : Nat) (cool : PorIn)
  | brownout
  | railOffDelayExpire
  | holdupShort
  | thermalTrip
  | tapReset
  | voteWrite (a : Acc) (n : Fin 3) (x : Word)
  | dropDelayExpire (d : Fin 16)
  | domainDropDone (d : Fin 16)
  | fircReady
  | fircFail
  | fircRestart (a : Acc)
  | regulatorEnable (d : Fin 16)
  | powerGood (d : Fin 16)
  | pgTimeoutExpire (d : Fin 16)
  | retryBackoffExpire (d : Fin 16)
  | domainRetry (a : Acc) (x : Word)
  | wakeSourceFire (src : Fin 6) (rising : Bool)
  | wakeHoldClear (a : Acc) (x : Word)
  | alarmFire
  | xtalStable
  | xt32Fail
  | pllLock (p : Pll)
  | pllUnlock (p : Pll)
  | domSrcWrite (a : Acc) (x : Word)
  | autoPllSwitch (d : Fin 16)
  | senseSample (r : Readings)
  | panelTempPoll (p : Port) (e : SmbEnd)
  | ptHostStale (p : Port)
  | smbXferGo (a : Acc) (x : Word)
  | smbXferDone (e : SmbEnd)
  | scrubLine (b : Fin 64) (line : Nat) (ecc : Ecc)
  | ownerWrite (a : Acc) (b : Fin 64) (owner : Fin 16)
  | handoverDone (b : Fin 64)
  | handoverZeroFillDone (b : Fin 64)
  | bankSignDone (b : Fin 64) (ecc : Ecc)
  | bankVerifyDone (b : Fin 64) (ecc : Ecc)
  | bankZeroingDone (b : Fin 64)
  | spareStart (a : Acc) (x : Word)
  | spareAbort (a : Acc)
  | spareCommit
  | replacementCopyDone (b : Fin 64)
  | mtestBorrow (b : Fin 64) (chunk : Fin 4096)
  | mtestRestoreDone (b : Fin 64) (fails : Nat)
  | mtestPassDone (b : Fin 64) (fails : Nat)
  | claim (a : Acc) (x : Word)
  | release (a : Acc) (x : Word)
  | claimDone
  | migrationCommit
  | migrationAbort (a : Acc)
  | migrationRollbackDone
  | frameFle (t : Nat) (isA isB : List (List Rat))
  | slotFle (s : Fin 4) (t : Nat) (isA isB : List (List Rat))
  | ladderTick
  | lineStart (who : Option Port) (t : Nat) (hdr : List HdrErr)
  | restartPassEnd (p : Port)
  | lineFetchDone (restart : Option Port) (ecc : Ecc)
  | layerWaitPoll
  | layerWaitExpire
  | imageComplete (c : Composed)
  | toneDeriveDone
  | toneLate
  | tithePlanDone
  | rectPost (a : Acc)
  | rectAbort (a : Acc) (tag : Fin 65536)
  | rectAbortAll (a : Acc)
  | rectComposeStart
  | rectStaged (c : Met) (ecc : Ecc)
  | rectCommit
  | rectDone
  | srReqWrite (a : Acc) (x : Word)
  | sr1Exit
  | sr2ExitTrigger
  | genlockEdge (rising : Bool) (t : Nat) (pos : Int)
  | ptmReferenceEdge (t : Nat)
  | referenceMissing
  | windowOpen (s : Fin 4)
  | windowClose (s : Fin 4)
  | syncOutTrigger (n : Fin 2)
  | calLoadGo (a : Acc) (p : Port) (x : Word)
  | calLoadAbort (a : Acc) (p : Port)
  | calLoadFetchDone (p : Port)
  | calLoadDone (p : Port)
  | tableReadDone (p : Port) (ecc : Ecc)
  | demuraFillDone (p : Port)
  | stressLoad (a : Acc) (x : Word)
  | stressReconcile (a : Acc) (x : Word)
  | stressSnap (a : Acc) (x : Word)
  | markValid (a : Acc) (x : Word)
  | stressOpAbort (a : Acc)
  | snapPeriodExpire (p : Port)
  | stressLoadFetchDone
  | stressOpDone (ecc : Ecc)
  | tdlTrainDone (p : Port) (failed : Nat) (ident : List (Option Nat)) (eyes : List (List Nat)) (us phase : Nat)
  | tdlRetrain (a : Acc) (p : Port)
  | tdlRestore (a : Acc) (p : Port)
  | tdlCmdIdent (a : Acc) (p : Port)
  | tdlCmdStatus (a : Acc) (p : Port)
  | tdlCmdWriteReg (a : Acc) (p : Port)
  | tdlCmdReadReg (a : Acc) (p : Port)
  | rspReceived (p : Port) (line : Nat) (r : RspIn)
  | rspTimeout (p : Port)
  | backChannelLost (p : Port)
  | wmCompare (p : Port) (g : Fin 12) (line : Nat) (slot : Fin 4) (lo hi : Option Sampled)
  | failoverSwitch (p : Port) (g : Fin 12) (first : Nat)
  | holdTimeout
  | panelOn (a : Acc) (p : Port) (x : Word)
  | panelOff (a : Acc) (p : Port)
  | crkClear (a : Acc) (p : Port)
  | railPgRise (n : Fin 4)
  | seqDelayExpire (p : Port)
  | seqWaitTimeout (p : Port)
  | analogReady (p : Port)
  | prstDelayExpire (p : Port)
  | preadyRise (p : Port)
  | gclkStop (p : Port)
  | railPgLoss (n : Fin 4)
  | preadyLoss (p : Port)
  | crackMeasure (p : Port) (code : List Rat)
  | vnegRegChange (reg : Bool) (mv : Nat)
  | vnegOvercurrent (oc : Bool)
  | trimSamplerGo (a : Acc) (x : Word)
  | trimVrefGo (a : Acc) (x : Word)
  | trimCurmodelGo (a : Acc) (x : Word)
  | trimSyncdlyGo (a : Acc) (x : Word)
  | trimAbort (a : Acc)
  | trimResultReady (sweep : List (Nat × Nat × Nat)) (idle : Bool)
  | trimAutoStart (inst : Fin 7)
  | granaryWrite (a : Acc) (x : Word)
  | granaryTwinWrite (a : Acc) (x : Word)
  | granaryTwinRead (a : Acc) (x : Word)
  | granaryCtrAdd (a : Acc) (x : Word)
  | granaryCtrSet (a : Acc) (x : Word)
  | granaryCtrRead (a : Acc) (x : Word)
  | granaryLogAppend (a : Acc) (x : Word)
  | granaryAbort (a : Acc)
  | granaryFetchDone
  | pageProgramDone (ecc : Ecc)
  | fwWrite (a : Acc) (x : Word)
  | fwVerify (a : Acc) (x : Word)
  | fwSwitch (a : Acc) (x : Word)
  | fwConfirm (a : Acc) (x : Word)
  | ownerEnroll (a : Acc) (x : Word)
  | ownerReplace (a : Acc) (x : Word)
  | identity (a : Acc) (x : Word)
  | attest (a : Acc) (x : Word)
  | mbAbort (a : Acc)
  | fwRestartDone
  | watchdogExpire
  | tileRepairStart
  | tileRepairCommit
  | tileRepairDone
  | mouldResidueFail (m : Fin 12) (line : Nat)
  | mouldStall (m : Fin 12) (line : Nat)
  | mouldReturn (a : Acc) (x : Word)
  | mouldSelftestDone (m : Fin 12) (pass : Bool)
  | logRdWrite (a : Acc) (viol : Bool) (x : Word)
  | faultLogAppend
  | lifeCounterUpdate
  | supplyRemoved (x : Supply)
  | syncOutPulseEnd (n : Fin 2)
  | syncdlyEdgeTimeout
  | stressMapFillDone (p : Port)
  | granaryReadDone (ecc : Ecc)
  | mboxCmdDone (ecc : Ecc)
  deriving DecidableEq, Repr
end Sys2Proof
end

