-- ==== Sys2Proof/Config.lean ====
section
/-! DEFINITION. What an implementation fixes and the spec leaves open: the free values (no body, so that nothing can
be proved of them but what holds for every value), each applied to a plain counter of State, and what each device is made
with: its keys. -/

namespace Sys2Proof.Config

/-- A free choice between two behaviours, for the n-th choice taken (log entry 3). -/
opaque freeBool : Nat → Bool

/-- A free number, for the n-th choice taken (log entry 3). -/
opaque freeNat : Nat → Nat

/-- What the cells answer on the n-th stretch of a sparing copy, which no command reports (R123; log entry 62). -/
opaque freeEcc : Nat → Ecc

/-- ML-DSA-87 signature with the device's identity key, which no command reaches (R409, R414; log entry 4). -/
opaque mlDsaSign : List Byte → List Byte

/-- Where the VENDOR area holds the vendor public key, the serial, the identity public key and the vendor certificate
(R408, R412: the spec gives the area and no offsets; log entry 4), as Granary addresses. -/
opaque vendorKeyGa : Nat
opaque serialGa : Nat
opaque identityKeyGa : Nat
opaque certificateGa : Nat

/-- The digest of the vendor key in the one-time fuses (R408; log entry 4). -/
opaque vendorFuse : List Byte

end Sys2Proof.Config
end

