-- ==== Sys2Proof/Machine/RegTable.lean ====
section
/-! DEFINITION. The register map: every field of every register page, as the spec's register tables give it
(offset, bits, type, reset), in the manual's own names (PAGE.REGISTER_FIELD), and the page map of R62. -/

namespace Sys2Proof.Machine

/-- The field types of R4. -/
inductive FTy where
  | rw | ro | wo | w1c | rc | rws
  deriving DecidableEq, Repr

/-- One field of a register page, or an array of like fields: register index i (stride str), register index k
(stride str2) and bit index j (stride bstr). The reset value is each element's own. -/
structure Fld where
  off : Nat
  lo : Nat
  w : Nat
  ty : FTy
  rst : Nat
  cnt : Nat
  str : Nat
  cnt2 : Nat
  str2 : Nat
  bcnt : Nat
  bstr : Nat
  deriving DecidableEq, Repr

def fld (off lo w : Nat) (ty : FTy) (rst : Nat) : Fld := ⟨off, lo, w, ty, rst, 1, 4, 1, 4, 1, 4⟩
def Fld.arr (f : Fld) (n s : Nat) : Fld := { f with cnt := n, str := s }
def Fld.arr2 (f : Fld) (n s : Nat) : Fld := { f with cnt2 := n, str2 := s }
def Fld.bits (f : Fld) (n s : Nat) : Fld := { f with bcnt := n, bstr := s }

/-- Does some element of the array f lie in the register at page-relative offset o? -/
def Fld.at (f : Fld) (o : Nat) : Bool :=
  (List.range f.cnt2).any fun k =>
    let b := f.off + k * f.str2
    b ≤ o && (o - b) % f.str == 0 && (o - b) / f.str < f.cnt

/-- The bits of a field's elements within its register. -/
def Fld.mask (f : Fld) : BitVec 32 :=
  (List.range f.bcnt).foldl (fun m j => m ||| BitVec.ofNat 32 ((2 ^ f.w - 1) <<< (f.lo + j * f.bstr))) 0

/-- The reset bits of a field's elements within its register. -/
def Fld.rstBits (f : Fld) : BitVec 32 :=
  (List.range f.bcnt).foldl (fun m j => m ||| BitVec.ofNat 32 (f.rst <<< (f.lo + j * f.bstr))) 0

/-! The tables. -/

namespace HDR -- R49
def PG_ID_PAGE := fld 0x000 0 8 .ro 0
def PG_ID_BLOCK := fld 0x000 8 8 .ro 0
def PG_ID_PRESENT := fld 0x000 16 1 .ro 1
def PG_CTL_ENABLE := fld 0x004 0 1 .rw 0
def PG_CTL_SOFT_RESET := fld 0x004 1 1 .wo 0
def PG_CTL_FREEZE := fld 0x004 2 1 .rw 0
def PG_STAT_BUSY := fld 0x008 0 1 .ro 0
def PG_STAT_ERR := fld 0x008 1 1 .ro 0
def PG_STAT_STATE := fld 0x008 4 4 .ro 0
def EV_RAW_RAW := fld 0x00C 0 32 .ro 0
def EV_EN_EN := fld 0x010 0 32 .rw 0
def EV_PEND_PEND := fld 0x014 0 32 .w1c 0
def EV_FORCE_FORCE := fld 0x018 0 32 .wo 0
def COMMIT_REQ := fld 0x01C 0 1 .wo 0
def COMMIT_STAT_TARGET_FRAME := fld 0x020 0 24 .ro 0
def COMMIT_STAT_RESULT := fld 0x020 24 4 .ro 0
def COMMIT_STAT_REPLACED := fld 0x020 28 1 .ro 0
def ERR_CODE_CODE := fld 0x024 0 8 .ro 0
def ERR_CODE_OVERRUN := fld 0x024 8 1 .ro 0
def ERR_CODE_CLR := fld 0x024 31 1 .wo 0
def ERR_INFO_PAGE := fld 0x028 0 8 .ro 0
def ERR_INFO_OFFSET := fld 0x028 8 12 .ro 0
def ERR_INFO_FUNC := fld 0x028 20 4 .ro 0
def ERR_INFO_DETAIL := fld 0x028 24 8 .ro 0
def fields : List Fld :=
  [ PG_ID_PAGE, PG_ID_BLOCK, PG_ID_PRESENT, PG_CTL_ENABLE, PG_CTL_SOFT_RESET, PG_CTL_FREEZE, PG_STAT_BUSY, PG_STAT_ERR, PG_STAT_STATE, EV_RAW_RAW ] ++
  [ EV_EN_EN, EV_PEND_PEND, EV_FORCE_FORCE, COMMIT_REQ, COMMIT_STAT_TARGET_FRAME, COMMIT_STAT_RESULT, COMMIT_STAT_REPLACED, ERR_CODE_CODE, ERR_CODE_OVERRUN, ERR_CODE_CLR ] ++
  [ ERR_INFO_PAGE, ERR_INFO_OFFSET, ERR_INFO_FUNC, ERR_INFO_DETAIL ]
end HDR

namespace IDENT -- R61
def DEVICE_ID_DEVICE := fld 0x040 0 16 .ro 0x8640
def DEVICE_ID_VENDOR := fld 0x040 16 16 .ro 0x1F5C
def REVISION_MINOR := fld 0x044 8 8 .ro 0
def REVISION_MAJOR := fld 0x044 16 16 .ro 2
def fields : List Fld :=
  [ DEVICE_ID_DEVICE, DEVICE_ID_VENDOR, REVISION_MINOR, REVISION_MAJOR ]
end IDENT

namespace MOOT -- R83
def VOTE_DOMS := (fld 0x040 0 16 .rw 0).arr 3 0x4
def VOTE3_DOMS := fld 0x04C 0 16 .ro 6
def VOTE_HW_DOMS := (fld 0x050 0 16 .ro 0).arr 8 0x4
def VOTE_RSV_DOMS := (fld 0x070 0 16 .ro 0).arr 4 0x4
def HOLD_VOTED := fld 0x080 0 16 .ro 6
def HOLD_DEP := fld 0x080 16 16 .ro 0
def WAKE_HOLD_DOMS := fld 0x084 0 16 .w1c 0
def WAKE_EN_HOST := fld 0x088 0 1 .rw 1
def WAKE_EN_GENLOCK := fld 0x088 1 1 .rw 0
def WAKE_EN_GPIO0 := fld 0x088 2 1 .rw 0
def WAKE_EN_GPIO1 := fld 0x088 3 1 .rw 0
def WAKE_EN_ALARM := fld 0x088 4 1 .rw 0
def WAKE_EN_EVENT := fld 0x088 5 1 .rw 0
def WAKE_EN_WAKE_EDGE := fld 0x088 6 2 .rw 0
def WAKE_MAP0_DOMS := fld 0x08C 0 16 .rw 4
def WAKE_MAP_DOMS := (fld 0x090 0 16 .rw 0).arr 5 0x4
def WAKE_LAST_SRC := fld 0x0A4 0 6 .w1c 0
def DOM_CFG_DROP_DELAY := (fld 0x0C4 0 16 .rw 0x3E8).arr 15 0x4
def DOM_CFG_PG_TIMEOUT := (fld 0x0C4 16 8 .rw 20).arr 15 0x4
def DOM_STAT_STATE := ((fld 0x100 0 4 .ro 0).arr 2 0x4).bits 8 4
def RETRY_DOMS := fld 0x108 1 15 .wo 0
def fields : List Fld :=
  [ VOTE_DOMS, VOTE3_DOMS, VOTE_HW_DOMS, VOTE_RSV_DOMS, HOLD_VOTED, HOLD_DEP, WAKE_HOLD_DOMS, WAKE_EN_HOST, WAKE_EN_GENLOCK, WAKE_EN_GPIO0 ] ++
  [ WAKE_EN_GPIO1, WAKE_EN_ALARM, WAKE_EN_EVENT, WAKE_EN_WAKE_EDGE, WAKE_MAP0_DOMS, WAKE_MAP_DOMS, WAKE_LAST_SRC, DOM_CFG_DROP_DELAY, DOM_CFG_PG_TIMEOUT, DOM_STAT_STATE ] ++
  [ RETRY_DOMS ]
end MOOT

namespace CLOCK -- R91
def OSC_STAT_XT32_OK := fld 0x040 0 1 .ro 1
def OSC_STAT_FIRC_READY := fld 0x040 1 1 .ro 0
def OSC_STAT_XTAL_OK := fld 0x040 2 1 .ro 0
def OSC_STAT_CORE_LOCK := fld 0x040 3 1 .ro 0
def OSC_STAT_MGMT_LOCK := fld 0x040 4 1 .ro 0
def OSC_STAT_PORTA_LOCK := fld 0x040 5 1 .ro 0
def OSC_STAT_PORTB_LOCK := fld 0x040 6 1 .ro 0
def OSC_STAT_FIRC_FAILED := fld 0x040 7 1 .ro 0
def PLL_EN_CORE := fld 0x044 0 1 .rw 0
def PLL_EN_MGMT := fld 0x044 1 1 .rw 1
def PLL_EN_PORTA := fld 0x044 2 1 .rw 0
def PLL_EN_PORTB := fld 0x044 3 1 .rw 0
def DOM_SRC_SRC0 := fld 0x048 0 2 .ro 2
def DOM_SRC_SRC := (fld 0x048 2 2 .rw 0).bits 15 2
def RESTORE_DOMS := fld 0x04C 1 15 .rw 1
def FIRC_CTL_RESTART := fld 0x050 0 1 .wo 0
def fields : List Fld :=
  [ OSC_STAT_XT32_OK, OSC_STAT_FIRC_READY, OSC_STAT_XTAL_OK, OSC_STAT_CORE_LOCK, OSC_STAT_MGMT_LOCK, OSC_STAT_PORTA_LOCK, OSC_STAT_PORTB_LOCK, OSC_STAT_FIRC_FAILED, PLL_EN_CORE, PLL_EN_MGMT ] ++
  [ PLL_EN_PORTA, PLL_EN_PORTB, DOM_SRC_SRC0, DOM_SRC_SRC, RESTORE_DOMS, FIRC_CTL_RESTART ]
end CLOCK

namespace AOBB -- R378, R99
def DEVTIME_LO_NS_LO := fld 0x040 0 32 .ro 0
def DEVTIME_HI_NS_HI := fld 0x044 0 32 .ro 0
def ALARM_LO_NS_LO := fld 0x048 0 32 .rw 0
def ALARM_HI_NS_HI := fld 0x04C 0 32 .rw 0
def ALARM_CTL_ARM := fld 0x050 0 1 .rw 0
def ALARM_CTL_FIRED := fld 0x050 1 1 .w1c 0
def BB_HOST := (fld 0x100 0 32 .rw 0).arr 48 0x4
def BB_FILPOR := (fld 0x1C0 0 32 .ro 0).arr 12 0x4
def NV_INTR_PAGE := fld 0x1F0 0 17 .ro 0
def NV_INTR_OP := fld 0x1F0 17 3 .ro 0
def NV_INTR_VALID := fld 0x1F0 31 1 .w1c 0
def NV_LEFT_PAGES_LEFT := fld 0x1F4 0 17 .ro 0
def BB_STAT_VALID := fld 0x1F8 0 1 .rw 0
def BB_STAT_REINIT := fld 0x1F8 1 1 .w1c 0
def AO_LOG_CAUSE := fld 0x1FC 0 4 .ro 0
def AO_LOG_HOLDUP_SHORT := fld 0x1FC 4 1 .w1c 0
def AO_LOG_THERMTRIP := fld 0x1FC 5 1 .w1c 0
def AO_LOG_BROWNOUT := fld 0x1FC 6 1 .w1c 0
def AO_LOG_XT32_FAIL := fld 0x1FC 7 1 .w1c 0
def AO_LOG_FIRC_FAIL := fld 0x1FC 8 1 .w1c 0
def AO_LOG_FAILED_DOMS := fld 0x1FC 16 16 .w1c 0
def fields : List Fld :=
  [ DEVTIME_LO_NS_LO, DEVTIME_HI_NS_HI, ALARM_LO_NS_LO, ALARM_HI_NS_HI, ALARM_CTL_ARM, ALARM_CTL_FIRED, BB_HOST, BB_FILPOR, NV_INTR_PAGE, NV_INTR_OP ] ++
  [ NV_INTR_VALID, NV_LEFT_PAGES_LEFT, BB_STAT_VALID, BB_STAT_REINIT, AO_LOG_CAUSE, AO_LOG_HOLDUP_SHORT, AO_LOG_THERMTRIP, AO_LOG_BROWNOUT, AO_LOG_XT32_FAIL, AO_LOG_FIRC_FAIL ] ++
  [ AO_LOG_FAILED_DOMS ]
end AOBB

namespace CRIER -- R389
def CTL_ALERT_EN := fld 0x040 0 1 .rw 1
def ALERT_STAT_LOW := fld 0x044 0 1 .ro 0
def ALERT_STAT_BY_EVENT := fld 0x044 1 1 .ro 0
def ALERT_STAT_BY_DOMAIN := fld 0x044 2 1 .ro 0
def ALERT_STAT_FIRST := fld 0x044 8 8 .ro 0
def ALERT_STAT_FIRST_VALID := fld 0x044 16 1 .ro 0
def MSG_CNT_COUNT := fld 0x048 0 32 .ro 0
def HELD_CNT_COUNT := fld 0x04C 0 32 .ro 0
def PEND := (fld 0x080 0 32 .ro 0).arr 8 0x4
def DELIV := (fld 0x0A0 0 32 .ro 0).arr 8 0x4
def ROUTE_VECTOR := (fld 0x400 0 8 .rw 0).arr 256 0x4
def ROUTE_FUNC := (fld 0x400 8 2 .rw 0).arr 256 0x4
def ROUTE_ALERT := (fld 0x400 10 1 .rw 0).arr 256 0x4
def ROUTE_WAKE := (fld 0x400 11 1 .rw 0).arr 256 0x4
def fields : List Fld :=
  [ CTL_ALERT_EN, ALERT_STAT_LOW, ALERT_STAT_BY_EVENT, ALERT_STAT_BY_DOMAIN, ALERT_STAT_FIRST, ALERT_STAT_FIRST_VALID, MSG_CNT_COUNT, HELD_CNT_COUNT, PEND, DELIV ] ++
  [ ROUTE_VECTOR, ROUTE_FUNC, ROUTE_ALERT, ROUTE_WAKE ]
end CRIER

namespace HOSTIF -- R68
def LINK_STAT_SPEED := fld 0x040 0 4 .ro 0
def LINK_STAT_WIDTH := fld 0x040 4 6 .ro 0
def LINK_STAT_FLIT := fld 0x040 10 1 .ro 0
def LINK_STAT_DL_UP := fld 0x040 11 1 .ro 0
def FETCH_BUDGET_MBPS := fld 0x044 0 16 .ro 0
def WRIGHT1_LO_A := fld 0x048 0 5 .rw 0
def WRIGHT1_LO_B := fld 0x048 6 26 .rw 0x3FFF8
def WRIGHT1_HI := fld 0x04C 0 8 .rw 0
def WRIGHT2_LO_A := fld 0x050 0 5 .rw 0
def WRIGHT2_LO_B := fld 0x050 6 26 .rw 0
def WRIGHT2_HI := fld 0x054 0 8 .rw 152
def LTR_ACTIVE_VALUE := fld 0x058 0 10 .rw 20
def LTR_ACTIVE_SCALE := fld 0x058 10 3 .rw 2
def LTR_IDLE_VALUE := fld 0x05C 0 10 .rw 31
def LTR_IDLE_SCALE := fld 0x05C 10 3 .rw 3
def LINKPM_CTL_L0P_EN := fld 0x060 0 1 .rw 1
def LINKPM_CTL_L1_LEAD := fld 0x060 8 8 .rw 10
def PTM_CTL_PERIOD_MS := fld 0x064 0 16 .rw 10
def PTM_STAT_VALID := fld 0x068 0 1 .ro 0
def PTM_STAT_AGE_MS := fld 0x068 16 16 .ro 0xFFFF
def VIOL_CNT_COUNT := fld 0x06C 0 32 .ro 0
def CPL_TO_CNT_COUNT := fld 0x070 0 32 .ro 0
def fields : List Fld :=
  [ LINK_STAT_SPEED, LINK_STAT_WIDTH, LINK_STAT_FLIT, LINK_STAT_DL_UP, FETCH_BUDGET_MBPS, WRIGHT1_LO_A, WRIGHT1_LO_B, WRIGHT1_HI, WRIGHT2_LO_A, WRIGHT2_LO_B ] ++
  [ WRIGHT2_HI, LTR_ACTIVE_VALUE, LTR_ACTIVE_SCALE, LTR_IDLE_VALUE, LTR_IDLE_SCALE, LINKPM_CTL_L0P_EN, LINKPM_CTL_L1_LEAD, PTM_CTL_PERIOD_MS, PTM_STAT_VALID, PTM_STAT_AGE_MS ] ++
  [ VIOL_CNT_COUNT, CPL_TO_CNT_COUNT ]
end HOSTIF

namespace REEVE -- R143
def CTL_CACHE_EN := fld 0x040 0 1 .rw 1
def CTL_RESEED_EN := fld 0x040 1 1 .rw 1
def CLAIM_BANK := fld 0x044 0 6 .rw 0
def CLAIM_FOR := fld 0x044 8 4 .rw 1
def CLAIM_DO_CLAIM := fld 0x044 12 1 .wo 0
def CLAIM_DO_RELEASE := fld 0x044 13 1 .wo 0
def CLAIM_STAT_BUSY := fld 0x048 0 1 .ro 0
def REGIONS0_FRAME := fld 0x04C 0 8 .ro 0
def REGIONS0_MAPS := fld 0x04C 8 8 .ro 0
def REGIONS0_AUX := fld 0x04C 16 8 .ro 0
def REGIONS0_STAGE := fld 0x04C 24 8 .ro 0
def REGIONS1_LAYER := fld 0x050 0 8 .ro 0
def REGIONS1_FREE := fld 0x050 8 8 .ro 64
def REGIONS1_CLAIMED := fld 0x050 16 8 .ro 0
def REGIONS1_DEAD := fld 0x050 24 8 .ro 0
def NEED_NEEDED := fld 0x054 0 8 .ro 0
def NEED_AVAIL := fld 0x054 8 8 .ro 64
def BIND_MOULD := (fld 0x058 0 4 .ro 15).bits 8 4
def BIND_HI_MOULD := (fld 0x05C 0 4 .ro 15).bits 4 4
def SPLIT_RIGHT := fld 0x060 0 4 .ro 0
def OUT_OF_SERVICE_MOULDS := fld 0x064 0 12 .ro 0
def CACHE_NEVER_LAYERS := fld 0x068 0 12 .rw 0
def CACHED_LAYERS := fld 0x06C 0 12 .ro 0
def CACHE_TUNE_AFTER := fld 0x070 0 3 .rw 2
def IMBAL_THRESH := fld 0x074 0 8 .rw 32
def IMBAL_COMPOSES := fld 0x074 8 4 .rw 2
def SEED := (fld 0x078 0 32 .ro 0).arr 3 0x4
def MIG_CTL_ABORT := fld 0x084 0 1 .wo 0
def MIG_STAT_OUTCOME := fld 0x088 0 2 .ro 0
def MIG_STAT_ACTIVE := fld 0x088 2 1 .ro 0
def MIG_STAT_REGION := fld 0x088 4 3 .ro 0
def MIG_STAT_ROWS_DONE := fld 0x088 16 16 .ro 0
def COMPOSE_RATIO_RATIO := fld 0x08C 0 16 .ro 0
def RESEED_CNT_DONE := fld 0x090 0 16 .ro 0
def RESEED_CNT_FUTILE := fld 0x090 16 16 .ro 0
def CONF_ACC_K := (fld 0x100 0 16 .ro 0).arr 64 0x4
def CONF_STALL_K := (fld 0x100 16 16 .ro 0).arr 64 0x4
def fields : List Fld :=
  [ CTL_CACHE_EN, CTL_RESEED_EN, CLAIM_BANK, CLAIM_FOR, CLAIM_DO_CLAIM, CLAIM_DO_RELEASE, CLAIM_STAT_BUSY, REGIONS0_FRAME, REGIONS0_MAPS, REGIONS0_AUX ] ++
  [ REGIONS0_STAGE, REGIONS1_LAYER, REGIONS1_FREE, REGIONS1_CLAIMED, REGIONS1_DEAD, NEED_NEEDED, NEED_AVAIL, BIND_MOULD, BIND_HI_MOULD, SPLIT_RIGHT ] ++
  [ OUT_OF_SERVICE_MOULDS, CACHE_NEVER_LAYERS, CACHED_LAYERS, CACHE_TUNE_AFTER, IMBAL_THRESH, IMBAL_COMPOSES, SEED, MIG_CTL_ABORT, MIG_STAT_OUTCOME, MIG_STAT_ACTIVE ] ++
  [ MIG_STAT_REGION, MIG_STAT_ROWS_DONE, COMPOSE_RATIO_RATIO, RESEED_CNT_DONE, RESEED_CNT_FUTILE, CONF_ACC_K, CONF_STALL_K ]
end REEVE

namespace BANKS -- R113
def ECC_CTL_SCRUB_EN := fld 0x040 0 1 .rw 1
def ECC_CTL_AUTO_SPARE := fld 0x040 1 1 .rw 1
def ECC_CTL_SPARE_THRESH := fld 0x040 8 8 .rw 8
def SPARE_CTL_BANK := fld 0x044 0 6 .rw 0
def SPARE_CTL_START := fld 0x044 8 1 .wo 0
def SPARE_CTL_ABORT := fld 0x044 9 1 .wo 0
def SPARE_STAT_OUTCOME := fld 0x048 0 2 .ro 0
def SPARE_STAT_ACTIVE := fld 0x048 2 1 .ro 0
def SPARE_STAT_BANK := fld 0x048 8 6 .ro 0
def SPARE_STAT_PROGRESS_KIB := fld 0x048 16 16 .ro 0
def SPARE_MAP_S0_LBANK := fld 0x04C 0 6 .ro 0
def SPARE_MAP_S0_VALID := fld 0x04C 6 1 .ro 0
def SPARE_MAP_S0_BAD := fld 0x04C 7 1 .ro 0
def SPARE_MAP_S1_LBANK := fld 0x04C 8 6 .ro 0
def SPARE_MAP_S1_VALID := fld 0x04C 14 1 .ro 0
def SPARE_MAP_S1_BAD := fld 0x04C 15 1 .ro 0
def UE_LOG_DA_DA := fld 0x050 0 30 .ro 0
def UE_LOG_DA_VALID := fld 0x050 31 1 .w1c 0
def UE_LOG_SRC_REQ := fld 0x054 0 5 .ro 0
def UE_LOG_SRC_WRITE := fld 0x054 5 1 .ro 0
def NO_LOG_DA_DA := fld 0x058 0 30 .ro 0
def NO_LOG_DA_VALID := fld 0x058 31 1 .w1c 0
def NO_LOG_SRC_REQ := fld 0x05C 0 5 .ro 0
def NO_LOG_SRC_WRITE := fld 0x05C 5 1 .ro 0
def UE_CNT_COUNT := fld 0x060 0 32 .ro 0
def BANK_CFG_OWNER := (fld 0x100 0 4 .rw 0).arr 64 0x4
def BANK_CFG_DROP_OFF := (fld 0x100 4 1 .rw 0).arr 64 0x4
def BANK_CFG_LEND := (fld 0x100 5 1 .rw 0).arr 64 0x4
def BANK_CFG_HOST_RD := (fld 0x100 8 3 .rw 0).arr 64 0x4
def BANK_CFG_REGION := (fld 0x100 12 3 .ro 0).arr 64 0x4
def BANK_STAT_STATE := (fld 0x200 0 4 .ro 0).arr 64 0x4
def BANK_STAT_HANDOVER := (fld 0x200 4 1 .ro 0).arr 64 0x4
def BANK_STAT_HARD_CNT := (fld 0x200 8 8 .ro 0).arr 64 0x4
def BANK_STAT_CORR_CNT := (fld 0x200 16 16 .ro 0).arr 64 0x4
def fields : List Fld :=
  [ ECC_CTL_SCRUB_EN, ECC_CTL_AUTO_SPARE, ECC_CTL_SPARE_THRESH, SPARE_CTL_BANK, SPARE_CTL_START, SPARE_CTL_ABORT, SPARE_STAT_OUTCOME, SPARE_STAT_ACTIVE, SPARE_STAT_BANK, SPARE_STAT_PROGRESS_KIB ] ++
  [ SPARE_MAP_S0_LBANK, SPARE_MAP_S0_VALID, SPARE_MAP_S0_BAD, SPARE_MAP_S1_LBANK, SPARE_MAP_S1_VALID, SPARE_MAP_S1_BAD, UE_LOG_DA_DA, UE_LOG_DA_VALID, UE_LOG_SRC_REQ, UE_LOG_SRC_WRITE ] ++
  [ NO_LOG_DA_DA, NO_LOG_DA_VALID, NO_LOG_SRC_REQ, NO_LOG_SRC_WRITE, UE_CNT_COUNT, BANK_CFG_OWNER, BANK_CFG_DROP_OFF, BANK_CFG_LEND, BANK_CFG_HOST_RD, BANK_CFG_REGION ] ++
  [ BANK_STAT_STATE, BANK_STAT_HANDOVER, BANK_STAT_HARD_CNT, BANK_STAT_CORR_CNT ]
end BANKS

namespace MTEST -- R125
def MT_CTL_FREE_EN := fld 0x040 0 1 .rw 1
def MT_CTL_LENT_EN := fld 0x040 1 1 .rw 0
def MT_CTL_CHUNK_US := fld 0x040 16 16 .rw 100
def MT_POS_BANK := fld 0x044 0 6 .ro 0
def MT_POS_CHUNK := fld 0x044 8 12 .ro 0
def MT_PASSES_COUNT := fld 0x048 0 32 .ro 0
def MT_FAILS_COUNT := fld 0x04C 0 32 .ro 0
def fields : List Fld :=
  [ MT_CTL_FREE_EN, MT_CTL_LENT_EN, MT_CTL_CHUNK_US, MT_POS_BANK, MT_POS_CHUNK, MT_PASSES_COUNT, MT_FAILS_COUNT ]
end MTEST

namespace COUCH -- R181
def CTL_FLIP_MODE := fld 0x040 0 1 .rws 0
def CTL_PACE := fld 0x040 1 1 .rws 0
def FLIP_SEL_BUF := fld 0x044 0 4 .rws 0
def BG_R_VALUE := fld 0x048 0 24 .rws 0
def BG_G_VALUE := fld 0x04C 0 24 .rws 0
def BG_B_VALUE := fld 0x050 0 24 .rws 0
def LAYER_SLOTS_LO := (fld 0x054 0 4 .rws 15).bits 8 4
def LAYER_SLOTS_HI := (fld 0x058 0 4 .rws 15).bits 4 4
def COMPOSE_STAT_IMG := fld 0x05C 0 4 .ro 15
def COMPOSE_STAT_SLOT := fld 0x05C 4 2 .ro 0
def COMPOSE_STAT_LINE := fld 0x05C 16 13 .ro 0
def FLIP_DEFERRED_COUNT := fld 0x060 0 32 .ro 0
def COMPOSE_SKIPPED_COUNT := fld 0x064 0 32 .ro 0
def COMPOSE_LATE_COUNT := fld 0x068 0 32 .ro 0
def COMPOSE_TIME_US := fld 0x06C 0 24 .ro 0
def STATS_BANK_BANK := fld 0x070 0 6 .ro 0
def SHOWN_IMG := (fld 0x074 0 4 .ro 15).bits 4 4
def IMG_STAT_STATE := (fld 0x080 0 3 .ro 0).arr 8 0x4
def IMG_STAT_ELIGIBLE := (fld 0x080 3 1 .ro 0).arr 8 0x4
def IMG_STAT_SLOT := (fld 0x080 4 2 .ro 0).arr 8 0x4
def IMG_STAT_BUF := (fld 0x080 6 1 .ro 0).arr 8 0x4
def IMG_STAT_FRAME := (fld 0x080 16 16 .ro 0).arr 8 0x4
def IMG_CRC := (fld 0x0A0 0 32 .ro 0).arr 8 0x4
def fields : List Fld :=
  [ CTL_FLIP_MODE, CTL_PACE, FLIP_SEL_BUF, BG_R_VALUE, BG_G_VALUE, BG_B_VALUE, LAYER_SLOTS_LO, LAYER_SLOTS_HI, COMPOSE_STAT_IMG, COMPOSE_STAT_SLOT ] ++
  [ COMPOSE_STAT_LINE, FLIP_DEFERRED_COUNT, COMPOSE_SKIPPED_COUNT, COMPOSE_LATE_COUNT, COMPOSE_TIME_US, STATS_BANK_BANK, SHOWN_IMG, IMG_STAT_STATE, IMG_STAT_ELIGIBLE, IMG_STAT_SLOT ] ++
  [ IMG_STAT_BUF, IMG_STAT_FRAME, IMG_CRC ]
end COUCH

namespace MOULD -- R149
def LAYER_CTL_EN := fld 0x040 0 1 .rws 0
def LAYER_CTL_SRC_LOC := fld 0x040 1 1 .rws 0
def LAYER_CTL_FUNC := fld 0x040 2 2 .rws 1
def LAYER_CTL_POLICY := fld 0x040 4 2 .rws 0
def LAYER_CTL_ROT := fld 0x040 6 2 .rws 0
def LAYER_CTL_MIRROR := fld 0x040 8 1 .rws 0
def LAYER_CTL_PREMULT := fld 0x040 9 1 .rws 0
def LAYER_CTL_FENCE_MODE := fld 0x040 10 2 .rws 0
def LAYER_CTL_Z := fld 0x040 12 4 .rws 0
def LAYER_CTL_ALPHA := fld 0x040 16 8 .rws 255
def SRC_ADDR_LO_ADDR := fld 0x044 0 32 .rws 0
def SRC_ADDR_HI_ADDR := fld 0x048 0 32 .rws 0
def SRC_FMT_FORMAT := fld 0x04C 0 4 .rws 4
def SRC_FMT_TILED := fld 0x04C 4 1 .rws 0
def SRC_FMT_TF := fld 0x04C 5 3 .rws 0
def SRC_FMT_PRIM := fld 0x04C 8 2 .rws 0
def SRC_PITCH_PITCH := fld 0x050 0 24 .rws 0
def SRC_XY_X := fld 0x054 0 14 .rws 0
def SRC_XY_Y := fld 0x054 16 14 .rws 0
def SRC_WH_W := fld 0x058 0 15 .rws 1
def SRC_WH_H := fld 0x058 16 15 .rws 1
def DST_XY_X := fld 0x05C 0 16 .rws 0
def DST_XY_Y := fld 0x05C 16 16 .rws 0
def DST_WH_W := fld 0x060 0 15 .rws 1
def DST_WH_H := fld 0x060 16 15 .rws 1
def SRC_GEN_GEN := fld 0x064 0 16 .rws 0
def LEVELS_WHITE_NITS := fld 0x068 0 14 .rws 203
def LEVELS_HLG_PEAK := fld 0x068 16 14 .rws 0x3E8
def FENCE_LO_ADDR := fld 0x06C 0 32 .rws 0
def FENCE_HI_ADDR := fld 0x070 0 32 .rws 0
def FENCE_VAL_VAL := fld 0x074 0 32 .rws 0
def WAIT_LINES_LINES := fld 0x078 0 16 .rws 0x200
def SCALE_CTL_DECIM_H := fld 0x07C 0 2 .rws 0
def SCALE_CTL_DECIM_V := fld 0x07C 2 2 .rws 0
def SCALE_CTL_COEF_PROG := fld 0x07C 4 1 .rws 0
def READY_GEN_GEN := fld 0x080 0 16 .rw 0
def USE_STAT_GEN := fld 0x084 0 16 .ro 0
def USE_STAT_USE := fld 0x084 16 2 .ro 3
def USE_STAT_WAITED := fld 0x084 18 1 .ro 0
def USE_STAT_FETCH_ERR := fld 0x084 19 1 .ro 0
def RELEASE_GEN := fld 0x088 0 16 .ro 0
def RELEASE_VALID := fld 0x088 16 1 .ro 0
def COUNTS_WAITS := fld 0x08C 0 16 .ro 0
def COUNTS_FALLBACKS := fld 0x08C 16 16 .ro 0
def HCOEF_TAP_EVEN := (fld 0x400 0 12 .rws 0).arr 256 0x4
def HCOEF_TAP_ODD := (fld 0x400 16 12 .rws 0).arr 256 0x4
def VCOEF_TAP_EVEN := (fld 0x800 0 12 .rws 0).arr 192 0x4
def VCOEF_TAP_ODD := (fld 0x800 16 12 .rws 0).arr 192 0x4
def fields : List Fld :=
  [ LAYER_CTL_EN, LAYER_CTL_SRC_LOC, LAYER_CTL_FUNC, LAYER_CTL_POLICY, LAYER_CTL_ROT, LAYER_CTL_MIRROR, LAYER_CTL_PREMULT, LAYER_CTL_FENCE_MODE, LAYER_CTL_Z, LAYER_CTL_ALPHA ] ++
  [ SRC_ADDR_LO_ADDR, SRC_ADDR_HI_ADDR, SRC_FMT_FORMAT, SRC_FMT_TILED, SRC_FMT_TF, SRC_FMT_PRIM, SRC_PITCH_PITCH, SRC_XY_X, SRC_XY_Y, SRC_WH_W ] ++
  [ SRC_WH_H, DST_XY_X, DST_XY_Y, DST_WH_W, DST_WH_H, SRC_GEN_GEN, LEVELS_WHITE_NITS, LEVELS_HLG_PEAK, FENCE_LO_ADDR, FENCE_HI_ADDR ] ++
  [ FENCE_VAL_VAL, WAIT_LINES_LINES, SCALE_CTL_DECIM_H, SCALE_CTL_DECIM_V, SCALE_CTL_COEF_PROG, READY_GEN_GEN, USE_STAT_GEN, USE_STAT_USE, USE_STAT_WAITED, USE_STAT_FETCH_ERR ] ++
  [ RELEASE_GEN, RELEASE_VALID, COUNTS_WAITS, COUNTS_FALLBACKS, HCOEF_TAP_EVEN, HCOEF_TAP_ODD, VCOEF_TAP_EVEN, VCOEF_TAP_ODD ]
end MOULD

namespace TONE -- R190
def CTL_MODE := fld 0x040 0 2 .rws 1
def CTL_PEAK_SEL := fld 0x040 2 2 .rws 0
def PEAKS_TARGET_PEAK := fld 0x044 0 14 .rws 0x3E8
def PEAKS_SRC_PEAK := fld 0x044 16 14 .rws 0x3E8
def KNEE_K := fld 0x048 0 8 .rws 32
def KNEE_SDR_FLOOR := fld 0x048 16 10 .rws 203
def ADAPT_TOP_PPM := fld 0x04C 0 16 .rws 100
def ADAPT_MAX_STEP := fld 0x04C 16 10 .rws 0
def MD_LUM_MD_MAXLUM := fld 0x050 0 16 .rws 0
def MD_LUM_MD_MINLUM := fld 0x050 16 16 .rws 0
def MD_CLL_MAXCLL := fld 0x054 0 16 .rws 0
def MD_CLL_MAXFALL := fld 0x054 16 16 .rws 0
def MD_X := (fld 0x058 0 16 .rws 0).arr 4 0x4
def MD_Y := (fld 0x058 16 16 .rws 0).arr 4 0x4
def CURVE_STAT_KNEE_PQ := (fld 0x080 0 16 .ro 0).arr 8 0x4
def CURVE_STAT_PEAK_CODE := (fld 0x080 16 12 .ro 0).arr 8 0x4
def CURVE_STAT_USED := (fld 0x080 28 2 .ro 0).arr 8 0x4
def CURVE_STAT_IDENT := (fld 0x080 30 1 .ro 0).arr 8 0x4
def CURVE_STAT_VALID := (fld 0x080 31 1 .ro 0).arr 8 0x4
def LATE_CNT_COUNT := fld 0x0A0 0 32 .ro 0
def ECON_FORCED_STATIC := fld 0x0A4 0 1 .ro 0
def fields : List Fld :=
  [ CTL_MODE, CTL_PEAK_SEL, PEAKS_TARGET_PEAK, PEAKS_SRC_PEAK, KNEE_K, KNEE_SDR_FLOOR, ADAPT_TOP_PPM, ADAPT_MAX_STEP, MD_LUM_MD_MAXLUM, MD_LUM_MD_MINLUM ] ++
  [ MD_CLL_MAXCLL, MD_CLL_MAXFALL, MD_X, MD_Y, CURVE_STAT_KNEE_PQ, CURVE_STAT_PEAK_CODE, CURVE_STAT_USED, CURVE_STAT_IDENT, CURVE_STAT_VALID, LATE_CNT_COUNT ] ++
  [ ECON_FORCED_STATIC ]
end TONE

namespace RECTQ -- R210
def CTL_ROW_SKIP_A := fld 0x040 0 1 .rw 0
def CTL_ROW_SKIP_B := fld 0x040 1 1 .rw 0
def CTL_FULL_REFRESH := fld 0x040 8 8 .rw 60
def RECT_XY_X := fld 0x044 0 14 .rw 0
def RECT_XY_Y := fld 0x044 16 14 .rw 0
def RECT_WH_W := fld 0x048 0 14 .rw 0
def RECT_WH_H := fld 0x048 16 14 .rw 0
def RECT_CTL_SLOT := fld 0x04C 0 2 .rw 0
def RECT_CTL_REPLACE := fld 0x04C 2 1 .rw 0
def RECT_CTL_TAG := fld 0x04C 16 16 .rw 0
def POST_GO := fld 0x050 0 1 .wo 0
def ABORT_TAG := fld 0x054 0 16 .wo 0
def ABORT_GO := fld 0x054 16 1 .wo 0
def ABORT_ALL := fld 0x054 17 1 .wo 0
def QSTAT_IN_FLIGHT := fld 0x058 0 9 .ro 0
def QSTAT_HELD := fld 0x058 16 9 .ro 0
def DONE_CNT_COUNT := fld 0x05C 0 32 .ro 0
def DONE_TAG := (fld 0x800 0 16 .ro 0).arr 256 0x8
def DONE_OUTCOME := (fld 0x800 16 2 .ro 0).arr 256 0x8
def DONE_CAUSE := (fld 0x800 18 2 .ro 0).arr 256 0x8
def DONE_CODE := (fld 0x800 24 8 .ro 0).arr 256 0x8
def DONE_FRAME := (fld 0x804 0 32 .ro 0).arr 256 0x8
def fields : List Fld :=
  [ CTL_ROW_SKIP_A, CTL_ROW_SKIP_B, CTL_FULL_REFRESH, RECT_XY_X, RECT_XY_Y, RECT_WH_W, RECT_WH_H, RECT_CTL_SLOT, RECT_CTL_REPLACE, RECT_CTL_TAG ] ++
  [ POST_GO, ABORT_TAG, ABORT_GO, ABORT_ALL, QSTAT_IN_FLIGHT, QSTAT_HELD, DONE_CNT_COUNT, DONE_TAG, DONE_OUTCOME, DONE_CAUSE ] ++
  [ DONE_CODE, DONE_FRAME ]
end RECTQ

namespace SCAN -- R233
def MODE_SEL_RATE := fld 0x040 0 5 .rws 10
def MODE_SEL_RES := fld 0x040 8 4 .rws 1
def MODE_SEL_SLOTS := fld 0x040 12 2 .rws 0
def MODE_SEL_PARTIAL := fld 0x040 15 1 .rws 0
def CTL_RUN := fld 0x044 0 1 .rws 0
def CTL_PORT_A := fld 0x044 1 1 .rws 0
def CTL_PORT_B := fld 0x044 2 1 .rws 0
def SR_CTL_REQ := fld 0x048 0 2 .rw 0
def SR_CTL_IDLE_FRAMES := fld 0x048 8 8 .rw 8
def SR_STAT_STATE := fld 0x04C 0 2 .ro 0
def SR_STAT_ENTRY_PENDING := fld 0x04C 2 1 .ro 0
def SR_STAT_IDLE := fld 0x04C 3 1 .ro 0
def SR_STAT_EXIT_US := fld 0x04C 16 16 .ro 0
def FRAME_NO_COUNT := fld 0x050 0 32 .ro 0
def POS_LINE := fld 0x054 0 13 .ro 0
def POS_SLOT_NO := fld 0x054 13 2 .ro 0
def POS_BLANK := fld 0x054 15 1 .ro 0
def LINE_TIME_PS := fld 0x058 0 32 .ro 0
def PIXRATE_MPX := fld 0x05C 0 16 .ro 0
def PORT_STAT_STATE := (fld 0x060 0 3 .ro 0).arr 2 0x4
def PORT_STAT_LINE := (fld 0x060 16 13 .ro 0).arr 2 0x4
def UNDERRUN_COUNT := (fld 0x068 0 32 .ro 0).arr 2 0x4
def ABORTED_COUNT := (fld 0x070 0 32 .ro 0).arr 2 0x4
def LAST_UNDERRUN_LINE := fld 0x078 0 13 .ro 0
def LAST_UNDERRUN_SLOT := fld 0x078 13 2 .ro 0
def LAST_UNDERRUN_PORT := fld 0x078 15 1 .ro 0
def LAST_UNDERRUN_FRAME := fld 0x078 16 16 .ro 0
def LINE_MATCH_LINE := fld 0x07C 0 13 .rw 0
def LINE_MATCH_SLOT := fld 0x07C 13 2 .rw 0
def LINE_MATCH_EN := fld 0x07C 15 1 .rw 0
def fields : List Fld :=
  [ MODE_SEL_RATE, MODE_SEL_RES, MODE_SEL_SLOTS, MODE_SEL_PARTIAL, CTL_RUN, CTL_PORT_A, CTL_PORT_B, SR_CTL_REQ, SR_CTL_IDLE_FRAMES, SR_STAT_STATE ] ++
  [ SR_STAT_ENTRY_PENDING, SR_STAT_IDLE, SR_STAT_EXIT_US, FRAME_NO_COUNT, POS_LINE, POS_SLOT_NO, POS_BLANK, LINE_TIME_PS, PIXRATE_MPX, PORT_STAT_STATE ] ++
  [ PORT_STAT_LINE, UNDERRUN_COUNT, ABORTED_COUNT, LAST_UNDERRUN_LINE, LAST_UNDERRUN_SLOT, LAST_UNDERRUN_PORT, LAST_UNDERRUN_FRAME, LINE_MATCH_LINE, LINE_MATCH_SLOT, LINE_MATCH_EN ]
end SCAN

namespace SYNC -- R247
def SRC_CTL_SRC := fld 0x040 0 2 .rws 0
def SRC_CTL_EDGE := fld 0x040 2 1 .rws 0
def SRC_CTL_DIV := fld 0x040 4 3 .rws 0
def SRC_CTL_EMISSION := fld 0x040 8 1 .rws 0
def SRC_CTL_LATCH_A := fld 0x040 9 1 .rws 0
def SRC_CTL_LATCH_B := fld 0x040 10 1 .rws 0
def PHASE_OFFSET := fld 0x044 0 24 .rws 0
def IN_DLY_TAPS := fld 0x048 0 6 .rw 32
def WIN_START := (fld 0x04C 0 24 .rws 0).arr 4 0x8
def WIN_LEN := (fld 0x050 0 24 .rws 0).arr 4 0x8
def SO_CTL_FUNC := (fld 0x06C 0 3 .rws 0).arr 2 0x8
def SO_CTL_INVERT := (fld 0x06C 3 1 .rws 0).arr 2 0x8
def SO_CTL_MASK := (fld 0x06C 4 4 .rws 1).arr 2 0x8
def SO_CTL_WIDTH := (fld 0x06C 16 16 .rws 200).arr 2 0x8
def SO_TIME_OFFSET := (fld 0x070 0 24 .rws 0).arr 2 0x8
def LOCK_STAT_STATE := fld 0x07C 0 2 .ro 0
def LOCK_STAT_REF_VALID := fld 0x07C 2 1 .ro 0
def LOCK_STAT_FRAMES := fld 0x07C 16 16 .ro 0
def PHASE_ERR_NS := fld 0x080 0 32 .ro 0
def PERIOD_ERR_PPM := fld 0x084 0 16 .ro 0
def EDGE_CNT_COUNT := fld 0x088 0 32 .ro 0
def DITH_IDX_IDX := fld 0x08C 0 16 .ro 0
def DISC_CTL_DISCIPLINE := fld 0x090 0 1 .rw 0
def PTM_EPOCH_LO_NS := fld 0x094 0 32 .rws 0
def PTM_EPOCH_HI_NS := fld 0x098 0 32 .rws 0
def DEVTIME_OFS_NS := fld 0x09C 0 32 .ro 0
def fields : List Fld :=
  [ SRC_CTL_SRC, SRC_CTL_EDGE, SRC_CTL_DIV, SRC_CTL_EMISSION, SRC_CTL_LATCH_A, SRC_CTL_LATCH_B, PHASE_OFFSET, IN_DLY_TAPS, WIN_START, WIN_LEN ] ++
  [ SO_CTL_FUNC, SO_CTL_INVERT, SO_CTL_MASK, SO_CTL_WIDTH, SO_TIME_OFFSET, LOCK_STAT_STATE, LOCK_STAT_REF_VALID, LOCK_STAT_FRAMES, PHASE_ERR_NS, PERIOD_ERR_PPM ] ++
  [ EDGE_CNT_COUNT, DITH_IDX_IDX, DISC_CTL_DISCIPLINE, PTM_EPOCH_LO_NS, PTM_EPOCH_HI_NS, DEVTIME_OFS_NS ]
end SYNC

namespace CAL -- R193, R269
def CTL_DEMURA_EN := fld 0x040 0 1 .rws 0
def CTL_AGE_EN := fld 0x040 1 1 .rws 0
def CTL_OFFSET_EN := fld 0x040 2 1 .rws 0
def CTL_IR_EN := fld 0x040 3 1 .rws 0
def CTL_OD_EN := fld 0x040 4 1 .rws 0
def CTL_DEFECT_EN := fld 0x040 5 1 .rws 0
def CTL_DITHER := fld 0x040 6 2 .rws 1
def CTL_TEMPORAL := fld 0x040 8 1 .rws 1
def CTL_DEPTH12 := fld 0x040 9 1 .rws 1
def CTL_BB_MODE := fld 0x040 10 2 .rws 0
def CTL_LOST_POLICY := fld 0x040 12 1 .rws 0
def DRIVE_FULL_NITS := fld 0x044 0 14 .rws 0x3E8
def REDIST_GAIN := fld 0x048 0 8 .rws 128
def OD_IDLE_CODE := fld 0x04C 0 16 .rws 0
def TBL_STAT_SEL := fld 0x050 0 5 .ro 0
def TBL_STAT_LOST := fld 0x050 8 6 .ro 62
def TBL_STAT_DEFECTS := fld 0x050 16 13 .ro 0
def LOAD_SRC_LO_HA := fld 0x054 0 32 .rw 0
def LOAD_SRC_HI_HA := fld 0x058 0 32 .rw 0
def LOAD_CTL_TARGET := fld 0x05C 0 3 .rw 0
def LOAD_CTL_FUNC := fld 0x05C 3 2 .rw 0
def LOAD_CTL_GO := fld 0x05C 8 1 .wo 0
def LOAD_CTL_ABORT := fld 0x05C 9 1 .wo 0
def LOAD_LINES_LINE0 := fld 0x060 0 13 .rw 0
def LOAD_LINES_LINES := fld 0x060 16 13 .rw 1
def LOAD_STAT_OUTCOME := fld 0x064 0 2 .ro 0
def LOAD_STAT_ACTIVE := fld 0x064 2 1 .ro 0
def LOAD_STAT_TARGET := fld 0x064 4 3 .ro 0
def LOAD_STAT_CODE := fld 0x064 8 8 .ro 0
def LOAD_STAT_FRAME := fld 0x064 16 16 .ro 0
def LOAD_CRC_CRC := fld 0x068 0 32 .ro 0
def SAT_CNT_COUNT := fld 0x06C 0 32 .ro 0
def UE_CNT_COUNT := fld 0x070 0 32 .ro 0
def C3_CTL_C3_EN := fld 0x100 0 1 .rws 0
def C3_CTL_COMP_EN := fld 0x100 1 1 .rws 0
def M_DIAG := (fld 0x104 0 20 .rws 0x20000).arr 3 0x10
def M_OFF := ((fld 0x108 0 20 .rws 0).arr 3 0x4).arr2 2 0x10
def COMP_THRESH_T := fld 0x128 0 16 .rws 0xCCCD
def COMP_LIMIT := (fld 0x12C 0 16 .rws 0x1800).arr 3 0x4
def fields : List Fld :=
  [ CTL_DEMURA_EN, CTL_AGE_EN, CTL_OFFSET_EN, CTL_IR_EN, CTL_OD_EN, CTL_DEFECT_EN, CTL_DITHER, CTL_TEMPORAL, CTL_DEPTH12, CTL_BB_MODE ] ++
  [ CTL_LOST_POLICY, DRIVE_FULL_NITS, REDIST_GAIN, OD_IDLE_CODE, TBL_STAT_SEL, TBL_STAT_LOST, TBL_STAT_DEFECTS, LOAD_SRC_LO_HA, LOAD_SRC_HI_HA, LOAD_CTL_TARGET ] ++
  [ LOAD_CTL_FUNC, LOAD_CTL_GO, LOAD_CTL_ABORT, LOAD_LINES_LINE0, LOAD_LINES_LINES, LOAD_STAT_OUTCOME, LOAD_STAT_ACTIVE, LOAD_STAT_TARGET, LOAD_STAT_CODE, LOAD_STAT_FRAME ] ++
  [ LOAD_CRC_CRC, SAT_CNT_COUNT, UE_CNT_COUNT, C3_CTL_C3_EN, C3_CTL_COMP_EN, M_DIAG, M_OFF, COMP_THRESH_T, COMP_LIMIT ]
end CAL

namespace AGING -- R293
def CTL_TRACK_A := fld 0x040 0 1 .rw 0
def CTL_TRACK_B := fld 0x040 1 1 .rw 0
def CTL_SNAP_EN := fld 0x040 2 1 .rw 1
def CTL_SNAP_ON_OFF := fld 0x040 3 1 .rw 1
def CTL_ECON_N := fld 0x040 4 4 .rw 4
def SNAP_PERIOD_SEC := fld 0x044 0 16 .rw 0x258
def SR2_DUTY_DUTY := fld 0x048 0 16 .rw 0x8000
def TEMP_DEFAULT := fld 0x04C 0 8 .rw 25
def PANEL_TAG := (fld 0x050 0 32 .rw 0).arr 2 0x4
def OP_CTL_OP := fld 0x058 0 2 .rw 0
def OP_CTL_PORT := fld 0x058 2 1 .rw 0
def OP_CTL_FUNC := fld 0x058 3 2 .rw 0
def OP_CTL_GO := fld 0x058 8 1 .wo 0
def OP_CTL_ABORT := fld 0x058 9 1 .wo 0
def OP_CTL_MARK_VALID := fld 0x058 10 1 .wo 0
def OP_SRC_LO := fld 0x05C 0 32 .rw 0
def OP_SRC_HI := fld 0x060 0 32 .rw 0
def OP_LINES_LINE0 := fld 0x064 0 13 .rw 0
def OP_LINES_LINES := fld 0x064 16 13 .rw 1
def OP_STAT_OUTCOME := fld 0x068 0 2 .ro 0
def OP_STAT_ACTIVE := fld 0x068 2 1 .ro 0
def OP_STAT_OP := fld 0x068 3 2 .ro 0
def OP_STAT_PORT := fld 0x068 5 1 .ro 0
def OP_STAT_CODE := fld 0x068 8 8 .ro 0
def OP_STAT_CELLS := fld 0x068 16 16 .ro 0
def OP_CRC_CRC := fld 0x06C 0 32 .ro 0
def STAT_VALID := (fld 0x080 0 1 .ro 0).arr 2 0x20
def STAT_SNAP_DUE := (fld 0x080 1 1 .ro 0).arr 2 0x20
def STAT_TEMP_USED := (fld 0x080 8 8 .ro 0).arr 2 0x20
def STAT_KT_USED := (fld 0x080 16 16 .ro 0).arr 2 0x20
def UPD_COUNT := (fld 0x084 0 32 .ro 0).arr 2 0x20
def SAT_COUNT := (fld 0x088 0 32 .ro 0).arr 2 0x20
def UE_COUNT := (fld 0x08C 0 32 .ro 0).arr 2 0x20
def SNAP_SEQ_SEQ := (fld 0x090 0 32 .ro 0).arr 2 0x20
def SNAP_FRAME_FRAME := (fld 0x094 0 32 .ro 0).arr 2 0x20
def CATCHUP_MS := (fld 0x098 0 32 .ro 0).arr 2 0x20
def IR_G_GX := (fld 0x100 0 16 .rw 0x1400).arr 2 0x20
def IR_G_GY := (fld 0x100 16 16 .rw 0x1400).arr 2 0x20
def IR_FEED_GF := (fld 0x104 0 16 .rw 0x1400).arr 2 0x20
def IR_FEED_EDGES := (fld 0x104 16 4 .rw 3).arr 2 0x20
def IR_SENS_SENS := (fld 0x108 0 16 .rw 0).arr 2 0x20
def IR_SENS_MAXF := (fld 0x108 16 16 .rw 0x5000).arr 2 0x20
def IR_STAT_MAX_IRF := (fld 0x10C 0 16 .ro 0).arr 2 0x20
def IR_STAT_MAX_DROP_MV := (fld 0x10C 16 16 .ro 0).arr 2 0x20
def RATE_EVEN_A := ((fld 0x400 0 16 .rw 0x1000).arr 65 0x4).arr2 3 0x110
def RATE_ODD_A := ((fld 0x400 16 16 .rw 0x1000).arr 64 0x4).arr2 3 0x110
def RATE_EVEN_B := ((fld 0x800 0 16 .rw 0x1000).arr 65 0x4).arr2 3 0x110
def RATE_ODD_B := ((fld 0x800 16 16 .rw 0x1000).arr 64 0x4).arr2 3 0x110
def KT_EVEN := ((fld 0xC00 0 16 .rw 0x1000).arr 16 0x4).arr2 2 0x40
def KT_ODD := ((fld 0xC00 16 16 .rw 0x1000).arr 16 0x4).arr2 2 0x40
def fields : List Fld :=
  [ CTL_TRACK_A, CTL_TRACK_B, CTL_SNAP_EN, CTL_SNAP_ON_OFF, CTL_ECON_N, SNAP_PERIOD_SEC, SR2_DUTY_DUTY, TEMP_DEFAULT, PANEL_TAG, OP_CTL_OP ] ++
  [ OP_CTL_PORT, OP_CTL_FUNC, OP_CTL_GO, OP_CTL_ABORT, OP_CTL_MARK_VALID, OP_SRC_LO, OP_SRC_HI, OP_LINES_LINE0, OP_LINES_LINES, OP_STAT_OUTCOME ] ++
  [ OP_STAT_ACTIVE, OP_STAT_OP, OP_STAT_PORT, OP_STAT_CODE, OP_STAT_CELLS, OP_CRC_CRC, STAT_VALID, STAT_SNAP_DUE, STAT_TEMP_USED, STAT_KT_USED ] ++
  [ UPD_COUNT, SAT_COUNT, UE_COUNT, SNAP_SEQ_SEQ, SNAP_FRAME_FRAME, CATCHUP_MS, IR_G_GX, IR_G_GY, IR_FEED_GF, IR_FEED_EDGES ] ++
  [ IR_SENS_SENS, IR_SENS_MAXF, IR_STAT_MAX_IRF, IR_STAT_MAX_DROP_MV, RATE_EVEN_A, RATE_ODD_A, RATE_EVEN_B, RATE_ODD_B, KT_EVEN, KT_ODD ]
end AGING

namespace TITHE -- R306
def CTL_LOOP_A := fld 0x040 0 1 .rw 1
def CTL_LOOP_B := fld 0x040 1 1 .rw 1
def CTL_LOOP_SHIFT := fld 0x040 2 4 .rw 4
def CTL_ECON_MIN := fld 0x040 8 3 .rw 0
def CTL_ECON_MAX := fld 0x040 12 3 .rw 3
def DEV_BUDGET_MW := fld 0x060 0 16 .rw 0
def DEV_BUDGET_DOWN_MARGIN := fld 0x060 16 16 .rw 0x7D0
def ECON_TIME_UP_EVALS := fld 0x064 0 8 .rw 16
def ECON_TIME_DOWN_EVALS := fld 0x064 8 8 .rw 64
def ECON_STAT_LEVEL := fld 0x068 0 3 .ro 0
def ECON_STAT_DEV_UNMET := fld 0x068 3 1 .ro 0
def ECON_STAT_LANE_LOW_A := fld 0x068 4 1 .ro 0
def ECON_STAT_LANE_LOW_B := fld 0x068 5 1 .ro 0
def ECON_STAT_DEV_MW := fld 0x068 16 16 .ro 0
def BUDGET_MW := (fld 0x080 0 24 .rw 0).arr 2 0x40
def VPANEL_MV := (fld 0x084 0 16 .rw 0x2EE0).arr 2 0x40
def VPANEL_MARGIN := (fld 0x084 16 10 .rw 0).arr 2 0x40
def MODEL_GAIN := (fld 0x088 0 16 .rw 0x4000).arr 2 0x40
def MODEL_OFFSET := (fld 0x088 16 16 .rw 0).arr 2 0x40
def K := ((fld 0x08C 0 24 .rw 0).arr 3 0x4).arr2 2 0x40
def FLOOR_G_MIN := (fld 0x098 0 16 .rw 0x800).arr 2 0x40
def FLOOR_RISE := (fld 0x098 16 16 .rw 0).arr 2 0x40
def ISNS_FS_MA := (fld 0x09C 0 16 .rw 0).arr 2 0x40
def ISNS_SETTLE_US := (fld 0x09C 16 16 .rw 20).arr 2 0x40
def CORR_CORR := (fld 0x0A0 0 16 .rw 0x4000).arr 2 0x40
def PLAN_G := (fld 0x0A4 0 16 .ro 0x8000).arr 2 0x40
def PLAN_FLAGS := (fld 0x0A4 16 5 .ro 0).arr 2 0x40
def PLAN_SLOT := (fld 0x0A4 21 2 .ro 0).arr 2 0x40
def PRED_MA := (fld 0x0A8 0 24 .ro 0).arr 2 0x40
def RAW_MA := (fld 0x0AC 0 24 .ro 0).arr 2 0x40
def MEAS_MA := (fld 0x0B0 0 24 .ro 0).arr 2 0x40
def UNMET_CNT_COUNT := (fld 0x0B4 0 32 .ro 0).arr 2 0x40
def BAND_LIM := (((fld 0x100 0 16 .rw 0).arr 8 0x4).arr2 2 0x20).bits 2 16
def fields : List Fld :=
  [ CTL_LOOP_A, CTL_LOOP_B, CTL_LOOP_SHIFT, CTL_ECON_MIN, CTL_ECON_MAX, DEV_BUDGET_MW, DEV_BUDGET_DOWN_MARGIN, ECON_TIME_UP_EVALS, ECON_TIME_DOWN_EVALS, ECON_STAT_LEVEL ] ++
  [ ECON_STAT_DEV_UNMET, ECON_STAT_LANE_LOW_A, ECON_STAT_LANE_LOW_B, ECON_STAT_DEV_MW, BUDGET_MW, VPANEL_MV, VPANEL_MARGIN, MODEL_GAIN, MODEL_OFFSET, K ] ++
  [ FLOOR_G_MIN, FLOOR_RISE, ISNS_FS_MA, ISNS_SETTLE_US, CORR_CORR, PLAN_G, PLAN_FLAGS, PLAN_SLOT, PRED_MA, RAW_MA ] ++
  [ MEAS_MA, UNMET_CNT_COUNT, BAND_LIM ]
end TITHE

namespace TDL -- R332
def CTL_RATE := fld 0x040 0 2 .rws 2
def CTL_SWING := fld 0x040 2 4 .rws 8
def CTL_FFE_PRESET := fld 0x040 6 3 .rws 0
def CTL_FFE_FIXED := fld 0x040 9 1 .rws 0
def CTL_GROUP_LOSS := fld 0x040 10 1 .rws 1
def CTL_SPAN_AUTO := fld 0x040 11 1 .rws 1
def GROUPS_EN := fld 0x044 0 12 .rws 0xFFF
def LANE_STAT_FAILED := fld 0x048 0 24 .ro 0
def TRAIN_CTL_RETRAIN := fld 0x04C 0 1 .wo 0
def TRAIN_CTL_RESTORE := fld 0x04C 1 1 .wo 0
def TRAIN_STAT_OUTCOME := fld 0x050 0 2 .ro 0
def TRAIN_STAT_ACTIVE := fld 0x050 2 1 .ro 0
def TRAIN_STAT_PHASE := fld 0x050 3 2 .ro 0
def TRAIN_STAT_CODE := fld 0x050 8 8 .ro 0
def TRAIN_STAT_US := fld 0x050 16 16 .ro 0
def CMD_OP_OPCODE := fld 0x054 0 8 .rw 0
def CMD_OP_GROUP := fld 0x054 8 4 .rw 0
def CMD_OP_RSP_REQ := fld 0x054 12 1 .rw 1
def CMD_ARG0_ARG := fld 0x058 0 32 .rw 0
def CMD_ARG1_ARG := fld 0x05C 0 32 .rw 0
def CMD_GO_GO := fld 0x060 0 1 .wo 0
def RSP_STAT_BUSY := fld 0x064 0 1 .ro 0
def RSP_STAT_RESULT := fld 0x064 1 2 .ro 0
def RSP_STAT_CODE := fld 0x064 4 4 .ro 0
def RSP_STAT_OPCODE := fld 0x064 8 8 .ro 0
def RSP_DATA0_DATA := fld 0x068 0 32 .ro 0
def RSP_DATA1_DATA := fld 0x06C 0 32 .ro 0
def FAILOVER_CNT_COUNT := fld 0x070 0 32 .ro 0
def BC_VIOL_COUNT := fld 0x074 0 32 .ro 0
def FFE_USED := ((fld 0x078 0 3 .ro 0).arr 3 0x4).bits 8 3
def LANE_ERR_DRV_CRC := (fld 0x100 0 16 .ro 0).arr 24 0x4
def LANE_ERR_HDR_ERR := (fld 0x100 16 16 .ro 0).arr 24 0x4
def GROUP_SPAN_COL0 := (fld 0x200 0 13 .rws 0).arr 12 0x4
def GROUP_SPAN_NCOL := (fld 0x200 16 13 .rws 0x140).arr 12 0x4
def fields : List Fld :=
  [ CTL_RATE, CTL_SWING, CTL_FFE_PRESET, CTL_FFE_FIXED, CTL_GROUP_LOSS, CTL_SPAN_AUTO, GROUPS_EN, LANE_STAT_FAILED, TRAIN_CTL_RETRAIN, TRAIN_CTL_RESTORE ] ++
  [ TRAIN_STAT_OUTCOME, TRAIN_STAT_ACTIVE, TRAIN_STAT_PHASE, TRAIN_STAT_CODE, TRAIN_STAT_US, CMD_OP_OPCODE, CMD_OP_GROUP, CMD_OP_RSP_REQ, CMD_ARG0_ARG, CMD_ARG1_ARG ] ++
  [ CMD_GO_GO, RSP_STAT_BUSY, RSP_STAT_RESULT, RSP_STAT_CODE, RSP_STAT_OPCODE, RSP_DATA0_DATA, RSP_DATA1_DATA, FAILOVER_CNT_COUNT, BC_VIOL_COUNT, FFE_USED ] ++
  [ LANE_ERR_DRV_CRC, LANE_ERR_HDR_ERR, GROUP_SPAN_COL0, GROUP_SPAN_NCOL ]
end TDL

namespace WMARK -- R333
def CTL_EN_A := fld 0x040 0 1 .rw 1
def CTL_EN_B := fld 0x040 1 1 .rw 1
def CTL_POLICY := fld 0x040 2 2 .rw 2
def CTL_FAIL_LINES := fld 0x040 4 6 .rw 2
def MISMATCH_COUNT := (fld 0x044 0 32 .ro 0).arr 2 0x4
def RESENT_COUNT := (fld 0x04C 0 32 .ro 0).arr 2 0x4
def LAST_LANE := fld 0x054 0 5 .ro 0
def LAST_PORT := fld 0x054 5 1 .ro 0
def LAST_LINE := fld 0x054 6 13 .ro 0
def LAST_SLOT := fld 0x054 19 2 .ro 0
def UNCHECKED_LANES := (fld 0x058 0 24 .ro 0).arr 2 0x4
def FWM_CRC := (fld 0x060 0 32 .ro 0).arr 2 0x8
def FWM_INFO_FRAME := (fld 0x064 0 16 .ro 0).arr 2 0x8
def FWM_INFO_SLOT := (fld 0x064 16 2 .ro 0).arr 2 0x8
def FWM_INFO_MATCHED := (fld 0x064 18 1 .ro 0).arr 2 0x8
def FWM_INFO_COMPLETE := (fld 0x064 19 1 .ro 0).arr 2 0x8
def fields : List Fld :=
  [ CTL_EN_A, CTL_EN_B, CTL_POLICY, CTL_FAIL_LINES, MISMATCH_COUNT, RESENT_COUNT, LAST_LANE, LAST_PORT, LAST_LINE, LAST_SLOT ] ++
  [ UNCHECKED_LANES, FWM_CRC, FWM_INFO_FRAME, FWM_INFO_SLOT, FWM_INFO_MATCHED, FWM_INFO_COMPLETE ]
end WMARK

namespace PANEL -- R349
def PWR_CTL_ON := fld 0x040 0 1 .wo 0
def PWR_CTL_OFF := fld 0x040 1 1 .wo 0
def PWR_CTL_CRK_CLEAR := fld 0x040 2 1 .wo 0
def PWR_STAT_STEP := fld 0x044 0 3 .ro 0
def PWR_STAT_RESULT := fld 0x044 4 2 .ro 0
def PWR_STAT_CODE := fld 0x044 8 8 .ro 0
def PWR_STAT_ON_10US := fld 0x044 16 16 .ro 0
def PANEL_CFG_TYPE := fld 0x048 0 2 .rws 0
def PANEL_CFG_LATCH_CAP := fld 0x048 2 1 .rws 0
def PANEL_CFG_PREADY_USE := fld 0x048 3 1 .rws 1
def PANEL_CFG_OFF_CLEAR := fld 0x048 4 1 .rws 1
def PANEL_CFG_BB_EN := fld 0x048 5 1 .rws 0
def PANEL_CFG_PREADY_TIMEOUT := fld 0x048 8 8 .rws 50
def PANEL_CFG_CLEAR_TIMEOUT := fld 0x048 16 8 .rws 20
def MAX_SCAN_MPX := fld 0x04C 0 16 .rws 0x2EE0
def CTRL_TIMING_GCLK_MHZ := fld 0x050 0 8 .rws 100
def CTRL_TIMING_PRST_DELAY := fld 0x050 8 16 .rws 100
def VNEG_SET_N := fld 0x054 0 8 .rws 100
def VNEG_STAT_REG := fld 0x058 0 1 .ro 0
def VNEG_STAT_OC := fld 0x058 1 1 .ro 0
def VNEG_STAT_PUMP_ON := fld 0x058 2 1 .ro 0
def VNEG_STAT_MV := fld 0x058 16 16 .ro 0
def VREF_LADDER := (fld 0x060 0 12 .rws 0).arr 5 0x4
def VREF_TRIM := (fld 0x060 16 8 .rws 128).arr 5 0x4
def VREF_EN := (fld 0x060 24 1 .rws 0).arr 5 0x4
def SEQ_RAIL := (fld 0x080 0 3 .rws 0).arr 6 0x4
def SEQ_USE := (fld 0x080 3 1 .rws 0).arr 6 0x4
def SEQ_PG := (fld 0x080 4 2 .rws 0).arr 6 0x4
def SEQ_PG_WAIT := (fld 0x080 6 1 .rws 0).arr 6 0x4
def SEQ_PG_TIMEOUT := (fld 0x080 8 8 .rws 10).arr 6 0x4
def SEQ_DLY_ON := (fld 0x0A0 0 16 .rws 100).arr 6 0x4
def SEQ_DLY_OFF := (fld 0x0A0 16 16 .rws 100).arr 6 0x4
def CRK_CTL_EN := fld 0x0C0 0 1 .rws 0
def CRK_CTL_POLICY := fld 0x0C0 1 2 .rws 0
def CRK_CTL_COUNT := fld 0x0C0 4 4 .rws 2
def CRK_LIM_LO := fld 0x0C4 0 12 .rws 0
def CRK_LIM_HI := fld 0x0C4 16 12 .rws 0x800
def CRK_STAT_CODE := fld 0x0C8 0 12 .ro 0
def CRK_STAT_OUT := fld 0x0C8 12 1 .ro 0
def CRK_STAT_LATCHED := fld 0x0C8 13 1 .ro 0
def CRK_STAT_FAULTS := fld 0x0C8 16 16 .ro 0
def RAIL_STAT_EN := fld 0x0CC 0 6 .ro 0
def RAIL_STAT_PG := fld 0x0CC 6 4 .ro 0
def INIT_GROUP := (fld 0x100 0 4 .rws 15).arr 16 0xc
def INIT_VALID := (fld 0x100 4 1 .rws 0).arr 16 0xc
def INIT_ADDR := (fld 0x104 0 32 .rws 0).arr 16 0xc
def INIT_DATA := (fld 0x108 0 32 .rws 0).arr 16 0xc
def fields : List Fld :=
  [ PWR_CTL_ON, PWR_CTL_OFF, PWR_CTL_CRK_CLEAR, PWR_STAT_STEP, PWR_STAT_RESULT, PWR_STAT_CODE, PWR_STAT_ON_10US, PANEL_CFG_TYPE, PANEL_CFG_LATCH_CAP, PANEL_CFG_PREADY_USE ] ++
  [ PANEL_CFG_OFF_CLEAR, PANEL_CFG_BB_EN, PANEL_CFG_PREADY_TIMEOUT, PANEL_CFG_CLEAR_TIMEOUT, MAX_SCAN_MPX, CTRL_TIMING_GCLK_MHZ, CTRL_TIMING_PRST_DELAY, VNEG_SET_N, VNEG_STAT_REG, VNEG_STAT_OC ] ++
  [ VNEG_STAT_PUMP_ON, VNEG_STAT_MV, VREF_LADDER, VREF_TRIM, VREF_EN, SEQ_RAIL, SEQ_USE, SEQ_PG, SEQ_PG_WAIT, SEQ_PG_TIMEOUT ] ++
  [ SEQ_DLY_ON, SEQ_DLY_OFF, CRK_CTL_EN, CRK_CTL_POLICY, CRK_CTL_COUNT, CRK_LIM_LO, CRK_LIM_HI, CRK_STAT_CODE, CRK_STAT_OUT, CRK_STAT_LATCHED ] ++
  [ CRK_STAT_FAULTS, RAIL_STAT_EN, RAIL_STAT_PG, INIT_GROUP, INIT_VALID, INIT_ADDR, INIT_DATA ]
end PANEL

namespace TRIM -- R363
def RUN_CTL_CAL := fld 0x040 0 3 .rw 0
def RUN_CTL_PORT := fld 0x040 3 1 .rw 0
def RUN_CTL_FORCE := fld 0x040 4 1 .rw 0
def RUN_CTL_VREF_SEL := fld 0x040 5 3 .rw 0
def RUN_CTL_GO := fld 0x040 8 1 .wo 0
def RUN_CTL_ABORT := fld 0x040 9 1 .wo 0
def RUN_STAT_OUTCOME := fld 0x044 0 2 .ro 0
def RUN_STAT_ACTIVE := fld 0x044 2 1 .ro 0
def RUN_STAT_CAL := fld 0x044 3 3 .ro 0
def RUN_STAT_PORT := fld 0x044 6 1 .ro 0
def RUN_STAT_AUTO_RUN := fld 0x044 7 1 .ro 0
def RUN_STAT_CODE := fld 0x044 8 8 .ro 0
def RUN_STAT_FRAME := fld 0x044 16 16 .ro 0
def AUTO_EN := fld 0x048 0 7 .rw 7
def AUTO_AFTER_TRAIN := fld 0x048 7 1 .rw 1
def AUTO_TRIM_DT := fld 0x048 8 8 .rw 6
def DUE_DUE := fld 0x04C 0 7 .ro 0
def SAMP_LIM_MIN_W := fld 0x050 0 7 .rw 16
def SAMP_LIM_MIN_H := fld 0x050 8 7 .rw 8
def REGRESS_MIN_PASSES := fld 0x054 0 16 .rw 0x100
def REGRESS_MIN_SPREAD := fld 0x054 16 8 .rw 5
def REGRESS_RES_MAX := fld 0x054 24 8 .rw 50
def VREF_CFG_VSENS := (fld 0x058 0 16 .rw 0).arr 2 0x4
def VREF_CFG_A_NOM := (fld 0x058 16 16 .rw 0x4000).arr 2 0x4
def SYNC_CFG_EDGES := fld 0x060 0 16 .rw 0x100
def SYNC_CFG_JIT_MAX := fld 0x060 16 8 .rw 20
def ACC_N := (fld 0x064 0 16 .ro 0).bits 2 16
def SAMP_PHASE := ((fld 0x100 0 6 .rw 32).arr 24 0x4).arr2 2 0x60
def SAMP_THRESH := ((fld 0x100 8 6 .rw 32).arr 24 0x4).arr2 2 0x60
def SAMP_VALID := ((fld 0x100 16 1 .rw 0).arr 24 0x4).arr2 2 0x60
def SAMP_Q_MIN_W := (fld 0x1C0 0 7 .rw 0).arr 2 0x4
def SAMP_Q_MIN_H := (fld 0x1C0 8 7 .rw 0).arr 2 0x4
def SAMP_Q_LANE := (fld 0x1C0 16 5 .rw 0).arr 2 0x4
def SAMP_Q_TEMP := (fld 0x1C0 24 8 .rw 128).arr 2 0x4
def VREF_Q_RES := (fld 0x1C8 0 16 .rw 0).arr 2 0x4
def VREF_Q_TEMP := (fld 0x1C8 24 8 .rw 128).arr 2 0x4
def CURM_Q_RES := (fld 0x1D0 0 16 .rw 0).arr 2 0x4
def CURM_Q_TEMP := (fld 0x1D0 24 8 .rw 128).arr 2 0x4
def SYNC_Q_JITTER := fld 0x1D8 0 16 .rw 0
def SYNC_Q_TAP := fld 0x1D8 16 6 .rw 0
def SYNC_Q_TEMP := fld 0x1D8 24 8 .rw 128
def fields : List Fld :=
  [ RUN_CTL_CAL, RUN_CTL_PORT, RUN_CTL_FORCE, RUN_CTL_VREF_SEL, RUN_CTL_GO, RUN_CTL_ABORT, RUN_STAT_OUTCOME, RUN_STAT_ACTIVE, RUN_STAT_CAL, RUN_STAT_PORT ] ++
  [ RUN_STAT_AUTO_RUN, RUN_STAT_CODE, RUN_STAT_FRAME, AUTO_EN, AUTO_AFTER_TRAIN, AUTO_TRIM_DT, DUE_DUE, SAMP_LIM_MIN_W, SAMP_LIM_MIN_H, REGRESS_MIN_PASSES ] ++
  [ REGRESS_MIN_SPREAD, REGRESS_RES_MAX, VREF_CFG_VSENS, VREF_CFG_A_NOM, SYNC_CFG_EDGES, SYNC_CFG_JIT_MAX, ACC_N, SAMP_PHASE, SAMP_THRESH, SAMP_VALID ] ++
  [ SAMP_Q_MIN_W, SAMP_Q_MIN_H, SAMP_Q_LANE, SAMP_Q_TEMP, VREF_Q_RES, VREF_Q_TEMP, CURM_Q_RES, CURM_Q_TEMP, SYNC_Q_JITTER, SYNC_Q_TAP ] ++
  [ SYNC_Q_TEMP ]
end TRIM

namespace GRANARY -- R377
def CMD_OP := fld 0x040 0 3 .rw 0
def CMD_FUNC := fld 0x040 3 2 .rw 2
def CMD_GO := fld 0x040 8 1 .wo 0
def CMD_ABORT := fld 0x040 9 1 .wo 0
def DST_GA := fld 0x044 0 25 .rw 0x1400000
def LEN_BYTES := fld 0x048 0 17 .rw 1
def SRC_LO_HA := fld 0x04C 0 32 .rw 0
def SRC_HI_HA := fld 0x050 0 32 .rw 0
def GEOM_PAGES := fld 0x054 0 9 .rw 1
def ARG_LO_ARG := fld 0x058 0 32 .rw 0
def ARG_HI_ARG := fld 0x05C 0 32 .rw 0
def STAT_OUTCOME := fld 0x060 0 2 .ro 0
def STAT_ACTIVE := fld 0x060 2 1 .ro 0
def STAT_OP := fld 0x060 3 3 .ro 0
def STAT_CODE := fld 0x060 8 8 .ro 0
def STAT_PAGES_DONE := fld 0x060 16 16 .ro 0
def REC_STAT_COPY := fld 0x064 0 1 .ro 0
def REC_STAT_A_VALID := fld 0x064 1 1 .ro 0
def REC_STAT_B_VALID := fld 0x064 2 1 .ro 0
def REC_STAT_TIE := fld 0x064 3 1 .ro 0
def REC_STAT_LEN := fld 0x064 16 16 .ro 0
def REC_SEQ_SEQ := fld 0x068 0 32 .ro 0
def VAL_LO_VALUE := fld 0x06C 0 32 .ro 0
def VAL_HI_VALUE := fld 0x070 0 32 .ro 0
def CORR_CNT_COUNT := fld 0x074 0 32 .ro 0
def UE_CNT_COUNT := fld 0x078 0 32 .ro 0
def UE_ADDR_GA := fld 0x07C 0 25 .ro 0
def UE_ADDR_VALID := fld 0x07C 31 1 .w1c 0
def fields : List Fld :=
  [ CMD_OP, CMD_FUNC, CMD_GO, CMD_ABORT, DST_GA, LEN_BYTES, SRC_LO_HA, SRC_HI_HA, GEOM_PAGES, ARG_LO_ARG ] ++
  [ ARG_HI_ARG, STAT_OUTCOME, STAT_ACTIVE, STAT_OP, STAT_CODE, STAT_PAGES_DONE, REC_STAT_COPY, REC_STAT_A_VALID, REC_STAT_B_VALID, REC_STAT_TIE ] ++
  [ REC_STAT_LEN, REC_SEQ_SEQ, VAL_LO_VALUE, VAL_HI_VALUE, CORR_CNT_COUNT, UE_CNT_COUNT, UE_ADDR_GA, UE_ADDR_VALID ]
end GRANARY

namespace MGMT -- R415
def MB_CMD_OP := fld 0x040 0 8 .rw 0
def MB_CMD_FUNC := fld 0x040 8 2 .rw 0
def MB_CMD_GO := fld 0x040 16 1 .wo 0
def MB_CMD_ABORT := fld 0x040 17 1 .wo 0
def MB_ARG := (fld 0x044 0 32 .rw 0).arr 2 0x4
def MB_SRC_LO := fld 0x04C 0 32 .rw 0
def MB_SRC_HI := fld 0x050 0 32 .rw 0
def MB_DST_LO := fld 0x054 0 32 .rw 0
def MB_DST_HI := fld 0x058 0 32 .rw 0
def MB_LEN_BYTES := fld 0x05C 0 17 .rw 1
def MB_STAT_OUTCOME := fld 0x060 0 2 .ro 0
def MB_STAT_ACTIVE := fld 0x060 2 1 .ro 0
def MB_STAT_CODE := fld 0x060 8 8 .ro 0
def MB_STAT_OP := fld 0x060 16 8 .ro 0
def MB_RSP := (fld 0x064 0 32 .ro 0).arr 2 0x4
def FW_STAT_RUNNING := fld 0x06C 0 1 .ro 0
def FW_STAT_ACTIVE := fld 0x06C 1 1 .ro 0
def FW_STAT_TRIAL := fld 0x06C 2 1 .ro 0
def FW_STAT_A_VALID := fld 0x06C 3 1 .ro 0
def FW_STAT_B_VALID := fld 0x06C 4 1 .ro 0
def FW_STAT_OWNER := fld 0x06C 5 1 .ro 0
def FW_STAT_BOOT_FALLBACK := fld 0x06C 6 1 .ro 0
def FW_STAT_RB_REBUILT := fld 0x06C 7 1 .ro 0
def FW_VER := (fld 0x070 0 32 .ro 0).arr 2 0x4
def ROLLBACK_COUNT := fld 0x078 0 32 .ro 0
def SERIAL := (fld 0x080 0 32 .ro 0).arr 4 0x4
def fields : List Fld :=
  [ MB_CMD_OP, MB_CMD_FUNC, MB_CMD_GO, MB_CMD_ABORT, MB_ARG, MB_SRC_LO, MB_SRC_HI, MB_DST_LO, MB_DST_HI, MB_LEN_BYTES ] ++
  [ MB_STAT_OUTCOME, MB_STAT_ACTIVE, MB_STAT_CODE, MB_STAT_OP, MB_RSP, FW_STAT_RUNNING, FW_STAT_ACTIVE, FW_STAT_TRIAL, FW_STAT_A_VALID, FW_STAT_B_VALID ] ++
  [ FW_STAT_OWNER, FW_STAT_BOOT_FALLBACK, FW_STAT_RB_REBUILT, FW_VER, ROLLBACK_COUNT, SERIAL ]
end MGMT

namespace FAULT -- R404
def INTERRUPT_NS_LO_NS_LO := fld 0x040 0 32 .ro 0
def INTERRUPT_NS_HI_NS_HI := fld 0x044 0 32 .ro 0
def OPERATE_NS_LO_NS_LO := fld 0x048 0 32 .ro 0
def OPERATE_NS_HI_NS_HI := fld 0x04C 0 32 .ro 0
def INT_US_US := (fld 0x050 0 32 .ro 0).arr 2 0x4
def FAULT_WR_COUNT := fld 0x058 0 32 .ro 0
def FAULT_RD_INDEX := fld 0x05C 0 32 .rw 0
def VIOL_WR_COUNT := fld 0x060 0 32 .ro 0
def VIOL_RD_INDEX := fld 0x064 0 32 .rw 0
def MOULD_RETURN_RETURN := fld 0x068 0 12 .wo 0
def WDOG_RESTARTS := fld 0x06C 0 16 .ro 0
def WDOG_LAST_MS := fld 0x06C 16 16 .ro 0
def REPAIR_DONE := fld 0x070 0 16 .ro 0
def REPAIR_UNREPAIRED := fld 0x070 16 16 .ro 0
def LIFE_INT_MS_MS := fld 0x074 0 32 .ro 0
def LIFE_OP_S_S := fld 0x078 0 32 .ro 0
def FAULT_REC := (fld 0x400 0 32 .ro 0).arr 256 0x4
def VIOL_REC := (fld 0x800 0 32 .ro 0).arr 512 0x4
def fields : List Fld :=
  [ INTERRUPT_NS_LO_NS_LO, INTERRUPT_NS_HI_NS_HI, OPERATE_NS_LO_NS_LO, OPERATE_NS_HI_NS_HI, INT_US_US, FAULT_WR_COUNT, FAULT_RD_INDEX, VIOL_WR_COUNT, VIOL_RD_INDEX, MOULD_RETURN_RETURN ] ++
  [ WDOG_RESTARTS, WDOG_LAST_MS, REPAIR_DONE, REPAIR_UNREPAIRED, LIFE_INT_MS_MS, LIFE_OP_S_S, FAULT_REC, VIOL_REC ]
end FAULT

namespace SENSE -- R107
def DIE_TEMP_TEMP := fld 0x040 0 16 .ro 0
def VIN_MW_MW := fld 0x044 0 16 .ro 0
def SUP0_VIN_MV := fld 0x048 0 16 .ro 0
def SUP0_VHOLD_MV := fld 0x048 16 16 .ro 0
def SUP1_VAO_MV := fld 0x04C 0 16 .ro 0
def SUP1_VIO_MV := fld 0x04C 16 16 .ro 0
def SUP2_VBAT_MV := fld 0x050 0 16 .ro 0
def SUP_EN_EN := fld 0x054 0 5 .rw 31
def SUPPLY_STAT_OUT := fld 0x058 0 5 .ro 0
def PT_CFG_SRC := (fld 0x060 0 2 .rw 0).arr 2 0x10
def PT_CFG_FMT := (fld 0x060 2 1 .rw 0).arr 2 0x10
def PT_CFG_PEC := (fld 0x060 3 1 .rw 0).arr 2 0x10
def PT_CFG_ADDR := (fld 0x060 4 7 .rw 72).arr 2 0x10
def PT_CFG_CODE := (fld 0x060 16 8 .rw 0).arr 2 0x10
def PT_CFG_PERIOD_MS := (fld 0x060 24 8 .rw 100).arr 2 0x10
def PT_TEMP := (fld 0x064 0 16 .ro 0).arr 2 0x10
def PT_VALID := (fld 0x064 16 1 .ro 0).arr 2 0x10
def PT_HOST_TEMP := (fld 0x068 0 16 .rw 0).arr 2 0x10
def PT_LIM_LO := (fld 0x06C 0 16 .rw 0xEC00).arr 2 0x10
def PT_LIM_HI := (fld 0x06C 16 16 .rw 0x4600).arr 2 0x10
def SMB_CTL_EN := fld 0x080 0 1 .rw 0
def SMB_CTL_SPEED := fld 0x080 1 1 .rw 0
def SMB_XFER_ADDR := fld 0x084 0 7 .rw 0
def SMB_XFER_CODE := fld 0x084 8 8 .rw 0
def SMB_XFER_OP := fld 0x084 16 2 .rw 0
def SMB_XFER_PEC := fld 0x084 18 1 .rw 0
def SMB_XFER_GO := fld 0x084 19 1 .wo 0
def SMB_DATA_DATA := fld 0x088 0 16 .rw 0
def SMB_STAT_BUSY := fld 0x08C 0 1 .ro 0
def SMB_STAT_RESULT := fld 0x08C 1 3 .ro 0
def fields : List Fld :=
  [ DIE_TEMP_TEMP, VIN_MW_MW, SUP0_VIN_MV, SUP0_VHOLD_MV, SUP1_VAO_MV, SUP1_VIO_MV, SUP2_VBAT_MV, SUP_EN_EN, SUPPLY_STAT_OUT, PT_CFG_SRC ] ++
  [ PT_CFG_FMT, PT_CFG_PEC, PT_CFG_ADDR, PT_CFG_CODE, PT_CFG_PERIOD_MS, PT_TEMP, PT_VALID, PT_HOST_TEMP, PT_LIM_LO, PT_LIM_HI ] ++
  [ SMB_CTL_EN, SMB_CTL_SPEED, SMB_XFER_ADDR, SMB_XFER_CODE, SMB_XFER_OP, SMB_XFER_PEC, SMB_XFER_GO, SMB_DATA_DATA, SMB_STAT_BUSY, SMB_STAT_RESULT ]
end SENSE

/-! The page map (R62). -/
abbrev IDENT.pg : Nat := 0x00
abbrev MOOT.pg : Nat := 0x01
abbrev CLOCK.pg : Nat := 0x02
abbrev AOBB.pg : Nat := 0x03
abbrev CRIER.pg : Nat := 0x04
abbrev HOSTIF.pg : Nat := 0x05
abbrev REEVE.pg : Nat := 0x06
abbrev BANKS.pg : Nat := 0x07
abbrev MTEST.pg : Nat := 0x08
abbrev COUCH.pg : Nat := 0x09
abbrev TONE.pg : Nat := 0x16
abbrev RECTQ.pg : Nat := 0x17
abbrev SCAN.pg : Nat := 0x18
abbrev SYNC.pg : Nat := 0x19
abbrev AGING.pg : Nat := 0x1C
abbrev TITHE.pg : Nat := 0x1D
abbrev WMARK.pg : Nat := 0x20
abbrev TRIM.pg : Nat := 0x23
abbrev GRANARY.pg : Nat := 0x24
abbrev MGMT.pg : Nat := 0x25
abbrev FAULT.pg : Nat := 0x26
abbrev SENSE.pg : Nat := 0x27
/-- Page of mould m, m = 0–3 for MOULD_V0–V3 and 4–11 for MOULD_G0–G7 (the layer index of R135). -/
abbrev MOULD.pg (m : Nat) : Nat := 0x0A + m
/-- Pages of the two ports (p = 0 port A, 1 port B). -/
abbrev CAL.pg (p : Nat) : Nat := 0x1A + p
abbrev TDL.pg (p : Nat) : Nat := 0x1E + p
abbrev PANEL.pg (p : Nat) : Nat := 0x21 + p

/-- A MOULD_G page lacks the fields marked V (R149). -/
def MOULD.gFields : List Fld := MOULD.fields.filter fun f => f.off != 0x060 && f.off != 0x07C && f.off < 0x400

/-- The block fields of page n (R62); a reserved page has none (R9). -/
def blockFields (n : Nat) : List Fld :=
  match n with
  | 0x00 => IDENT.fields
  | 0x01 => MOOT.fields
  | 0x02 => CLOCK.fields
  | 0x03 => AOBB.fields
  | 0x04 => CRIER.fields
  | 0x05 => HOSTIF.fields
  | 0x06 => REEVE.fields
  | 0x07 => BANKS.fields
  | 0x08 => MTEST.fields
  | 0x09 => COUCH.fields
  | 0x16 => TONE.fields
  | 0x17 => RECTQ.fields
  | 0x18 => SCAN.fields
  | 0x19 => SYNC.fields
  | 0x1A => CAL.fields
  | 0x1B => CAL.fields
  | 0x1C => AGING.fields
  | 0x1D => TITHE.fields
  | 0x1E => TDL.fields
  | 0x1F => TDL.fields
  | 0x20 => WMARK.fields
  | 0x21 => PANEL.fields
  | 0x22 => PANEL.fields
  | 0x23 => TRIM.fields
  | 0x24 => GRANARY.fields
  | 0x25 => MGMT.fields
  | 0x26 => FAULT.fields
  | 0x27 => SENSE.fields
  | 0x0A => MOULD.fields
  | 0x0B => MOULD.fields
  | 0x0C => MOULD.fields
  | 0x0D => MOULD.fields
  | 0x0E => MOULD.gFields
  | 0x0F => MOULD.gFields
  | 0x10 => MOULD.gFields
  | 0x11 => MOULD.gFields
  | 0x12 => MOULD.gFields
  | 0x13 => MOULD.gFields
  | 0x14 => MOULD.gFields
  | 0x15 => MOULD.gFields
  | _ => []

/-- The defined pages (R62). -/
def pageDefined (n : Nat) : Bool := n < 0x28

/-- A system page: PG_CTL.ENABLE is fixed at 1 (R62). -/
def isSystem (n : Nat) : Bool := n < 0x08 || (0x24 ≤ n && n < 0x28)

/-- PG_ID.BLOCK of page n (R49). -/
def blockCode (n : Nat) : Nat :=
  if 0x0A ≤ n && n ≤ 0x0D then 0x0A else if 0x0E ≤ n && n ≤ 0x15 then 0x0E
  else if n == 0x1B then 0x1A else if n == 0x1F then 0x1E else if n == 0x22 then 0x21 else n

/-- The commit groups of R52. -/
inductive Group where
  | compose | scan | portA | portB
  deriving DecidableEq, Repr

def pageGroup (n : Nat) : Option Group :=
  if 0x09 ≤ n && n ≤ 0x16 then some .compose
  else if n == 0x18 || n == 0x19 then some .scan
  else if n == 0x1A || n == 0x1E || n == 0x21 then some .portA
  else if n == 0x1B || n == 0x1F || n == 0x22 then some .portB
  else none

/-- The fields of the register at offset o of page n, header (R49) or block. -/
def fieldsAt (n o : Nat) : List Fld :=
  if !pageDefined n then []
  else if o < 0x02C then HDR.fields.filter (·.at o)
  else (blockFields n).filter (·.at o)

/-- The bits of that register whose fields have one of the given types. -/
def typeMask (tys : List FTy) (n o : Nat) : BitVec 32 :=
  ((fieldsAt n o).filter fun f => tys.contains f.ty).foldl (fun m f => m ||| f.mask) 0

/-- Register key: one number per (page, offset). -/
abbrev rkey (n o : Nat) : Nat := n * 0x1000 + o

/-- The reset word of a register (R7): its fields' reset values; PG_ID names its page and block (R49), a system
page's ENABLE is 1 (R62), and CRIER.ROUTEe's VECTOR is e (R389). -/
def resetWord (key : Nat) : BitVec 32 :=
  let n := key / 0x1000
  let o := key % 0x1000
  let base := (fieldsAt n o).foldl (fun m f => m ||| f.rstBits) 0
  if !pageDefined n then 0
  else if o == 0x000 then base ||| BitVec.ofNat 32 (n ||| (blockCode n <<< 8))
  else if o == 0x004 && isSystem n then 1
  else if n == 0x04 && 0x400 ≤ o && o < 0x800 then base ||| BitVec.ofNat 32 ((o - 0x400) / 4)
  else base

end Sys2Proof.Machine
end

