-- ==== Sys2Proof/Machine/Numerics.lean ====
section
/-! DEFINITION. Sparse tables in canonical form, bit fields of a word, and the integer arithmetic (saturation, two's
complement, rounding, CRCs) that the spec's formulas use. -/

namespace Sys2Proof.Machine

/-! ### Sparse tables -/

/-- The value at k of a sparse table whose unlisted keys read as `dflt`. -/
def mget {α : Type} (dflt : Nat → α) : List (Nat × α) → Nat → α
  | [], k => dflt k
  | (a, v) :: l, k => if a = k then v else mget dflt l k

/-- The table without key k. -/
def merase {α : Type} : List (Nat × α) → Nat → List (Nat × α)
  | [], _ => []
  | (a, v) :: l, k => if a = k then merase l k else (a, v) :: merase l k

/-- Put (k, v) before the first greater key. -/
def minsert {α : Type} : List (Nat × α) → Nat → α → List (Nat × α)
  | [], k, v => [(k, v)]
  | (a, w) :: l, k, v => if k < a then (k, v) :: (a, w) :: l else (a, w) :: minsert l k v

/-- Write v at k, keeping the canonical form: keys rising, no entry equal to what an unlisted key reads as. -/
def mset {α : Type} [DecidableEq α] (dflt : Nat → α) (l : List (Nat × α)) (k : Nat) (v : α) : List (Nat × α) :=
  if v = dflt k then merase l k else minsert (merase l k) k v

/-- The canonical form of a sparse table: keys rising above lo. -/
def keysRise {α : Type} : List (Nat × α) → Bool
  | [] => true
  | [_] => true
  | (a, _) :: (b, w) :: l => decide (a < b) && keysRise ((b, w) :: l)

/-- Keys rise and no entry equals what an unlisted key reads as. -/
def canon {α : Type} [DecidableEq α] (dflt : Nat → α) (l : List (Nat × α)) : Bool :=
  keysRise l && l.all fun e => decide (e.2 ≠ dflt e.1)

/-! ### Bit fields -/

/-- Bits lo to lo + w − 1 of a word. -/
def getBits (x : Word) (lo w : Nat) : Nat := (x.toNat >>> lo) % 2 ^ w

/-- The word with bits lo to lo + w − 1 replaced by v mod 2^w. -/
def setBits (x : Word) (lo w v : Nat) : Word :=
  let m := BitVec.ofNat 32 ((2 ^ w - 1) <<< lo)
  (x &&& ~~~m) ||| (BitVec.ofNat 32 ((v % 2 ^ w) <<< lo) &&& m)

/-- a where the mask is 1, b elsewhere. -/
def mux (m a b : Word) : Word := (b &&& ~~~m) ||| (a &&& m)

/-- Bit i of a natural number. -/
def bit (x i : Nat) : Bool := x.testBit i

def clearBit (n i : Nat) : Nat := if bit n i then n - 2 ^ i else n

def b2n (b : Bool) : Nat := if b then 1 else 0

/-- A w-bit two's complement value (R3's Sm.n formats). -/
def sext (w x : Nat) : Int := if x % 2 ^ w < 2 ^ (w - 1) then ((x % 2 ^ w : Nat) : Int) else ((x % 2 ^ w : Nat) : Int) - 2 ^ w

/-- The w-bit two's complement code of an integer, modulo 2^w. -/
def toTwos (w : Nat) (x : Int) : Nat := (x % (2 ^ w : Int)).toNat

/-- Unsigned w-bit saturation. -/
def satU (w x : Nat) : Nat := min x (2 ^ w - 1)

/-- Signed w-bit saturation. -/
def satS (w : Nat) (x : Int) : Int := max (-(2 ^ (w - 1) : Int)) (min x (2 ^ (w - 1) - 1))

/-- S32.0 saturated, as a 32-bit code. -/
def satS32 (x : Int) : Nat := toTwos 32 (satS 32 x)

def maxR (a b : Rat) : Rat := if a < b then b else a

def clampI (x lo hi : Int) : Int := if x < lo then lo else if hi < x then hi else x
def clampR (x lo hi : Rat) : Rat := if x < lo then lo else if hi < x then hi else x

/-- Nearest integer, an exact half going to the even integer (00_scope, Pseudocode). -/
def rne (x : Rat) : Int :=
  let f := x.floor
  let r := x - f
  if r < 1 / 2 then f else if 1 / 2 < r then f + 1 else if f % 2 = 0 then f else f + 1

/-- Nearest integer, an exact half going away from zero. -/
def rna (x : Rat) : Int := if 0 ≤ x then (x + 1 / 2).floor else (x - 1 / 2).ceil

def ceilDiv (a b : Nat) : Nat := (a + b - 1) / b

/-- Bytes of a number, least significant first. -/
def leBytes : Nat → Nat → List Byte
  | 0, _ => []
  | n + 1, x => BitVec.ofNat 8 x :: leBytes n (x / 256)

def ofLeBytes : List Byte → Nat
  | [] => 0
  | b :: l => b.toNat + 256 * ofLeBytes l

/-- One bit of a reflected CRC with (reversed) polynomial p. -/
def crcBit (p r : Nat) : Nat := if r % 2 = 1 then (r / 2) ^^^ p else r / 2

def crcByte (p : Nat) (r : Nat) (b : Byte) : Nat :=
  crcBit p (crcBit p (crcBit p (crcBit p (crcBit p (crcBit p (crcBit p (crcBit p (r ^^^ b.toNat))))))))

/-- CRC-32C (R138): reflected polynomial 0x1EDC_6F41, initial value and final XOR all ones. -/
def crc32c (l : List Byte) : Nat := (l.foldl (crcByte 0x82F63B78) 0xFFFFFFFF) ^^^ 0xFFFFFFFF

/-- CRC-64 of R120: polynomial 0x42F0_E1EB_A9EA_3693 reflected, initial value and final XOR all ones. -/
def crc64 (l : List Byte) : Nat :=
  (l.foldl (crcByte 0xC96C5795D7870F42) 0xFFFFFFFFFFFFFFFF) ^^^ 0xFFFFFFFFFFFFFFFF

end Sys2Proof.Machine
end

