-- ==== Sys2Proof/Machine/State.lean ====
section
/-! DEFINITION. The state of the JX8640: its register pages (active and shadow values, Regs) and, chapter by chapter,
the state the spec gives each block beside its registers. Plain data throughout. -/

namespace Sys2Proof.Machine

/-- A register file: register key (RegTable.rkey) to word, in the canonical form of a sparse table over resetWord. -/
abbrev Regs := List (Nat × Word)

/-- The word of register k. -/
def Regs.word (r : Regs) (k : Nat) : Word := mget resetWord r k

/-! ### Commit groups (R52-R58) -/

/-- A commit check in progress: page and requester (FUNC code) of the REQ write, and the copy of the group's shadow
values taken with it (R53). -/
structure Check where
  pg : Nat
  who : Nat
  copy : Regs
  deriving DecidableEq, Repr

/-- An accepted capture that has not moved to active (R53, R54); byRaster: its target is an FLE. -/
structure Capture where
  copy : Regs
  target : Nat
  byRaster : Bool
  /-- The map settings its check counted (R132). -/
  maps : Nat
  deriving DecidableEq, Repr

/-- One commit group: check, pending capture and the COMMIT_STAT fields its pages share (R52, R57). -/
structure GroupSt where
  check : Option Check
  pend : Option Capture
  result : Nat
  target : Nat
  replaced : Bool
  deriving DecidableEq, Repr

def GroupSt.idle : GroupSt := ⟨none, none, 0, 0, false⟩

/-! ### Power, clocks, time (02_package, 05_power) -/

/-- A power domain beside its DOM_STAT: regulator enabled, waking on the slow clock (R93), wake attempts made (R96),
and the state a cancelled drop returns to (R85). -/
structure Dom where
  regOn : Bool
  slow : Bool
  attempt : Nat
  prev : Nat
  deriving DecidableEq, Repr

def Dom.off : Dom := ⟨false, false, 0, 0⟩

/-- The rail-off sequence of R33 in progress: whether a thermal trip started (or joined) it, the RAIL_EN outputs still to drop, in
order, and, when the supplies have come back meanwhile, what their return found (the power-on reset waits for the end). -/
structure SeqOff where
  thermal : Bool
  rails : List Nat
  again : Option PorIn
  deriving DecidableEq, Repr

structure PowerSt where
  /-- Domains D0-D15 (R80). -/
  doms : List (Nat × Dom)
  /-- FIRC started and not yet ready (R88, R93). -/
  fircStarting : Bool
  /-- PCIe PHY PLL locked (R89, R90). -/
  phyLock : Bool
  /-- VIN, VAO, VIO and VBAT present; VHOLD charged (R30, R31). -/
  vin : Bool
  vao : Bool
  vio : Bool
  vbat : Bool
  vhold : Bool
  /-- TESTMODE ball (R27). -/
  testMode : Bool
  /-- PERST_N asserted (low), and WAKE_N driven low (R87). -/
  perst : Bool
  wakeN : Bool
  /-- Waiting tripped after a thermal trip (R45). -/
  tripped : Bool
  /-- The rail-off sequence of R33. -/
  seqOff : Option SeqOff
  /-- Internal reset held until the next power-on reset (R31, R33), and the CAUSE that reset will show when it is not the
  supplies' (R99; 0: none). -/
  held : Bool
  due : Nat
  /-- Filpor's boot has still to switch D1 to the management PLL (R90, R102). -/
  d1Boot : Bool
  /-- Filpor starts when D1 is next on: none has run since the power-on reset (R102). -/
  fwBoot : Bool
  /-- Consecutive failed panel-temperature polls of port p (keys 0, 1), and whether PT_HOST_x is fresh (keys 2, 3: 1) (R104). -/
  ptFails : List (Nat × Nat)
  /-- OP of the host SMBus transfer in progress (R106). -/
  smbOp : Nat
  /-- PLLs that lost lock while Filpor restarts (R400). -/
  pllWait : Nat
  /-- JTAG TAP out of Test-Logic-Reset (R101: TRST_N). -/
  tapActive : Bool
  /-- The panel of port x is between ANALOG and step 4 of POWER_DOWN: its bias outputs are on (R80, R340). -/
  bias : List (Nat × Bool)
  /-- RAIL_EN0-5 and RAIL_PG0-3, shared by the ports (R336). -/
  rails : Nat
  railPg : Nat
  deriving DecidableEq, Repr

/-- Device time (R99, R100, R241): DEVTIME in ns, the fraction in 1/50 ns, whether it counts, and what is still to be
slewed away, in 1/50 ns. -/
structure TimeSt where
  ns : Nat
  frac : Nat
  run : Bool
  slew : Int
  /-- Offset of host time over DEVTIME by the latest PTM dialogue (R241), but for what slew still removes. -/
  ofs : Int
  deriving DecidableEq, Repr

/-! ### The host link (04_host_link, 21_events) -/

structure MsixEntry where
  addr : Nat
  data : Nat
  mask : Bool
  deriving DecidableEq, Repr

def MsixEntry.reset : MsixEntry := ⟨0, 0, true⟩

/-- The AER errors the device reports (R78), with their bit in the Uncorrectable Error registers (log entry 59). -/
inductive AerErr where
  | malformed | ecrc | poisoned | unexpected | timeout | unsupported | abort
  deriving DecidableEq, Repr

def AerErr.bit : AerErr → Nat
  | .poisoned => 12 | .timeout => 14 | .abort => 15 | .unexpected => 16 | .malformed => 18 | .ecrc => 19 | .unsupported => 20

/-- One function's configuration space, MSI-X table and power state (R63, R64, R69, R73-R76, R78, R384): Memory Space and Bus
Master Enable, the Status bits, Base Address Registers 0-5, Device Control and Device Control 2, ASPM and L1 PM Substates,
PTM, LTR, and the AER capability: Uncorrectable Error Status, Mask and Severity, Correctable Error Status and Mask, First Error
Pointer, Header Log and the ECRC controls. -/
structure Fn where
  mse : Bool
  bme : Bool
  /-- Received Target Abort (bit 12), Received Master Abort (13), Detected Parity Error (15). -/
  status : Nat
  bars : List (Nat × Nat)
  msixEn : Bool
  msixFMask : Bool
  mrrs : Nat
  mps : Nat
  relaxed : Bool
  noSnoop : Bool
  /-- Correctable, Non-Fatal and Fatal Error Reporting Enable. -/
  reportCor : Bool
  reportNonFatal : Bool
  reportFatal : Bool
  /-- Device Status: correctable, non-fatal, fatal error and unsupported request detected. -/
  devStatus : Nat
  /-- Completion Timeout Value and Disable. -/
  cplTo : Nat
  cplToOff : Bool
  ltrEn : Bool
  ecrcGen : Bool
  ecrcCheck : Bool
  aspmL1 : Bool
  l11 : Bool
  l12 : Bool
  ptmEn : Bool
  tags10 : Bool
  dstate : Nat
  aer : Nat
  aerMask : Nat
  aerSev : Nat
  corStatus : Nat
  corMask : Nat
  firstErr : Option Nat
  hdrLog : List Word
  msix : List (Nat × MsixEntry)
  /-- The PBA reads 0 since the function's reset, until MSI-X is enabled again (R73, R76, R384). -/
  pbaOff : Bool
  deriving DecidableEq, Repr

/-- PCIe defaults (R63, R73; log entry 59). -/
def Fn.reset : Fn where
  mse := false
  bme := false
  status := 0
  bars := []
  msixEn := false
  msixFMask := false
  mrrs := 512
  mps := 128
  relaxed := true
  noSnoop := true
  reportCor := false
  reportNonFatal := false
  reportFatal := false
  devStatus := 0
  cplTo := 0
  cplToOff := false
  ltrEn := false
  ecrcGen := false
  ecrcCheck := false
  aspmL1 := false
  l11 := false
  l12 := false
  ptmEn := false
  tags10 := false
  dstate := 0
  aer := 0
  aerMask := 0
  aerSev := 2 ^ 18
  corStatus := 0
  corMask := 2 ^ 13
  firstErr := none
  hdrLog := []
  msix := []
  pbaOff := false

/-- A function after PERST_N, a hot reset, DL_Down or a function-level reset (R73, R76). -/
def Fn.cleared : Fn := { Fn.reset with pbaOff := true }

/-- What a device-issued read is for (R69): a layer's source, a layer's fence, a calibration load, a stress load, a
Granary source, a mailbox buffer. -/
inductive Job where
  | layer (m : Nat) | fence (m : Nat) | calLoad (p : Nat) | stressLoad | granary | mailbox
  deriving DecidableEq, Repr

/-- An outstanding read: its function, tag, job, host address and length, and its Relaxed Ordering and No Snoop attributes. -/
structure DevRead where
  fn : Nat
  tag : Nat
  job : Job
  addr : Nat
  len : Nat
  relaxed : Bool := false
  noSnoop : Bool := false
  deriving DecidableEq, Repr

/-- A read that has ended: its function, tag, bytes still to come, and whether what still comes is discarded without logging (R76). -/
structure Dropped where
  fn : Nat
  tag : Nat
  left : Nat
  silent : Bool
  deriving DecidableEq, Repr

/-- A host range still to be read. -/
structure ReadWork where
  fn : Nat
  job : Job
  addr : Nat
  len : Nat
  deriving DecidableEq, Repr

/-- The last completion sent to the host: data bytes, status code (0 SC, 1 UR, 2 CRS, 3 none sent), poisoned. -/
structure Cpl where
  data : List Byte
  status : Nat
  poisoned : Bool
  deriving DecidableEq, Repr

/-- A standing, unsent MSI-X request of vector v of function f, and whether it is held (R384). -/
structure MsiReq where
  f : Nat
  v : Nat
  held : Bool
  deriving DecidableEq, Repr

structure Msg where
  f : Nat
  v : Nat
  addr : Nat
  data : Nat
  deriving DecidableEq, Repr

structure HostSt where
  fns : List (Nat × Fn)
  reads : List DevRead
  todo : List ReadWork
  /-- Reads whose data is taken no more and whose tags are still held (R69, R76). -/
  dropped : List Dropped
  cpl : Cpl
  reqs : List MsiReq
  lastMsg : Option Msg
  /-- The event part of ALERT_N, held while D1 is off (R388). -/
  alertHeld : Bool
  /-- L1 entry and narrowing requested (R74), CLKREQ_N released, LTR message last sent (true: LTR_ACTIVE). -/
  l1Req : Bool
  narrow : Bool
  clkreq : Bool
  ltrActive : Bool
  /-- The LTR message last sent: value and scale (R74). -/
  ltrMsg : Option (Nat × Nat)
  /-- The error message last sent (R78): function, and 0 correctable, 1 non-fatal, 2 fatal. -/
  errMsg : Option (Nat × Nat)
  /-- A fetch is scheduled: a fetching compose starts at the next FLE (R74). -/
  fetchDue : Bool
  /-- A PTM request is outstanding (R75), and DEVTIME at the last successful dialogue (R68). -/
  ptmReq : Bool
  ptmAt : Option Nat
  /-- Host requests that have arrived behind one that waits, oldest first, and whether one of them is being performed (R71; log
  entry 60). -/
  later : List Instr
  serving : Bool
  /-- DEVTIME when DL_UP fell, for the HOST_LINK_LOST record (R401). -/
  downAt : Option Nat
  deriving DecidableEq, Repr

/-! ### Banks and the Reeve (06, 07) -/

/-- A bank beside BANK_CFG and BANK_STAT: the new owner of a draining handover, zero-fill due at its end or running
(R117), the retention signature and the LOST mark (R120), which stands until the bank is READY (R266), the words an owner has rewritten since LOST (R122), an
OWNER write waiting for READY or LOST (R128), and the state DEAD replacement copy (R142). -/
structure Bank where
  next : Option Nat
  zeroFill : Bool
  sig : Nat
  markLost : Bool
  rewritten : List Nat
  deferred : Option Nat
  copying : Bool
  deriving DecidableEq, Repr

def Bank.reset : Bank := ⟨none, false, 0, false, [], none, false⟩

/-- A claim or release in progress (R134): whether it waits for an FLE, or, with its requester, for a commit check (R144). -/
structure ClaimSt where
  bank : Nat
  owner : Nat
  waitFle : Bool
  waitCheck : Option Req
  deriving DecidableEq, Repr

/-- A bank access that waits (R117, R121, R126): kind 0 read, 1 write, 2 set, 3 clear. -/
structure Access where
  kind : Nat
  fn : Nat
  hdr : List Word
  da : Nat
  len : Nat
  data : List (Option Byte)
  ecc : Ecc
  deriving DecidableEq, Repr

structure BankSt where
  /-- Bank memory, 1 GiB: (DA, byte), unlisted bytes read 0 (R121: every bank is zero-filled before it is READY). -/
  mem : List Host.Cell
  /-- Uncorrectable or poisoned words, as DA / 8 (R110, R111). -/
  bad : List Nat
  /-- Words that were uncorrectable, have been rewritten in full and not been read since (R111), as DA / 8. -/
  fresh : List Nat
  banks : List (Nat × Bank)
  /-- The spare (0 or 1) a running sparing copies to (R123). -/
  spareTo : Nat
  /-- Banks whose sparing is due and waits for the running one to end (R123). -/
  spareDue : List Nat
  /-- Words behind the running sparing's copy that have become uncorrectable on the old bank since (DA / 8), with the good bytes that the
  spare holds (R123). -/
  spareKept : List (Nat × List Byte)
  /-- Chunks MTEST has borrowed: bank and chunk (R126). -/
  borrowed : List (Nat × Nat)
  claim : Option ClaimSt
  /-- Host accesses that wait for their bank, oldest first. -/
  waiting : List Access
  deriving DecidableEq, Repr

/-- A region item of R129-R131. -/
inductive ItemKind where
  | image (slot buf : Nat) | demura (p : Nat) | stress (p : Nat) | aux | stage | layer
  deriving DecidableEq, Repr

structure Item where
  kind : ItemKind
  banks : List Nat
  deriving DecidableEq, Repr

/-- A layer cache extent (R136): layer, offset in LAYER, length, the source fields it holds, and whether filled. -/
structure CacheExt where
  layer : Nat
  off : Nat
  len : Nat
  src : List Word
  filled : Bool
  deriving DecidableEq, Repr

/-- A migration (R140): region code, new seed, rows to move, and whether an abort is rolling it back. -/
structure Migration where
  region : Nat
  seed : Word
  rows : Nat
  rollback : Bool
  deriving DecidableEq, Repr

structure ReeveSt where
  items : List Item
  caches : List CacheExt
  /-- Per layer: source fields at the last compose, and composes since they changed (R136). -/
  srcSeen : List (Nat × (List Word × Nat))
  mig : Option Migration
  /-- Consecutive composes with an imbalance, per region code (R139). -/
  imbal : List (Nat × Nat)
  /-- Slots for which no further compose starts after a bank loss (R142). -/
  noCompose : List Nat
  degraded : Bool
  /-- OUT_OF_SERVICE as the binding in force took it in (R135). -/
  oos : Nat
  /-- CAL_x ENABLE (bit p) and TRACK_x (bit 2 + p) as region sizes count them, and as the latest accepted check took them in (R132). -/
  maps : Nat
  mapsNext : Nat
  /-- Lines of LOST maps written since, per item (R122). -/
  reloaded : List (ItemKind × Nat)
  deriving DecidableEq, Repr

/-! ### Layers, the Couch, tone, rectangles (08-11) -/

/-- The held source of a layer: its source fields and generation (R162). -/
structure Held where
  src : List Word
  gen : Nat
  deriving DecidableEq, Repr

/-- How a layer takes part in the running compose. -/
inductive Use where
  | idle | fresh | held | skipped | waiting
  deriving DecidableEq, Repr

/-- One layer: its held source, its use in the running compose, the first output line composed under its fallback
(R160), line times waited (R161), whether its fence read answered (and with what), the host bytes fetched of its new and of
its held source, the first line from which a fallback's held source fails in turn (R161), and whether the Couch has stalled on it
(R149). -/
structure Layer where
  held : Option Held
  use : Use
  failLine : Option Nat
  waited : Nat
  fence : Option Nat
  bytes : List Host.Cell
  heldBytes : List Host.Cell
  failHeld : Option Nat
  stalled : Bool
  deriving DecidableEq, Repr

def Layer.reset : Layer := ⟨none, .idle, none, 0, none, [], [], none, false⟩

/-- A compose pass (R174): the G_COMPOSE values it uses, the slot being composed and whether it waits for its slot
FLE, the image, and the frame. -/
structure Pass where
  vals : Regs
  slot : Nat
  waitSlot : Bool
  img : Option Nat
  frame : Nat
  /-- Layers whose use of the pass supersedes a held source (R162), each with the new source. -/
  supersede : List (Nat × Option Held)
  /-- The buffer FREE at each slot FLE of the pass's frame seen so far (R174 step 2). -/
  bufs : List (Nat × Option Nat)
  /-- A rectangle's compose into the staging image (R200). -/
  rect : Bool
  /-- Layers whose mould page has been reset while the compose runs: what they held is released at its end in any case (R163). -/
  resets : List Nat := []
  deriving DecidableEq, Repr

/-- What a plan predicts, held exactly (R11), mA: its current with GAIN 1, OFFSET 0 and CORR 1 (R356), and PRED (R301). -/
structure PlanExact where
  lin : Rat
  pred : Rat
  deriving DecidableEq, Repr

def PlanExact.none : PlanExact := ⟨0, 0⟩

/-- An image beside IMG_STAT: order of completion, and whether its curve and its plan are made (R14). -/
structure Img where
  seq : Nat
  curve : Bool
  plan : Bool
  ratio : Nat
  /-- The exact predictions of its plan per port (R301, R356). -/
  lin : List (Nat × PlanExact)
  /-- A bank of it entered LOST since it was made (R122, R231). -/
  lost : Bool
  /-- The G_COMPOSE values it was composed with, and layers left out from a line on (R397). -/
  vals : Regs
  skips : List (Nat × Nat)
  deriving DecidableEq, Repr

def Img.reset : Img := ⟨0, false, false, 0, [], false, [], []⟩

structure CouchSt where
  layers : List (Nat × Layer)
  pass : Option Pass
  /-- A pass is requested (R175). -/
  passReq : Bool
  imgs : List (Nat × Img)
  seq : Nat
  /-- Whether any compose has started per slot since the shown image's own (R397). -/
  composedSince : List (Nat × Bool)
  /-- PG_CTL.ENABLE of the mould pages at the last frame FLE, bit by layer (R149). -/
  enables : Nat
  deriving DecidableEq, Repr

/-! ### Scan timing, genlock and slots (12, 13) -/

/-- A port raster beside PORT_STAT (R217, R223, R243): EMIT_x, lines of the running pass the Calender has completed,
whether the port followed through the running slot pass from its start, when the restart pass ended (ps),
frame FLEs since MODE_DARK began, pulses sent on GSYNC_x, SR2 resume training done, and the slot image latched. -/
structure PortR where
  emit : Bool
  ready : Nat
  follow : Bool
  since : Nat
  darkFles : Nat
  gsync : Nat
  resumed : Bool
  latched : Bool
  /-- The line of the port's own raster and the time it began, ps; a restart pass has begun; dark since a restart, up to the
  rejoining frame's first active line (R392); the underrun's record, and when it was detected, ps. -/
  line : Nat
  lineT : Nat
  started : Bool
  dark : Bool
  recNo : Option Nat
  darkAt : Nat
  /-- Emission is held off for the whole of the frame that began at the latest frame FLE (R217). -/
  held : Bool
  /-- The port stays dark up to a frame FLE, whatever has ended meanwhile (R268, R283). -/
  stay : Bool
  deriving DecidableEq, Repr

def PortR.reset : PortR := ⟨false, 0, false, 0, 0, 0, false, false, 0, 0, false, false, none, 0, false, false⟩

structure ScanSt where
  /-- The reference raster runs (R215); its first frame FLE is still to come. -/
  run : Bool
  starting : Bool
  ports : List (Nat × PortR)
  /-- Self-refresh: consecutive idle FLEs (R227), the Scan engine's votes on D3 and on the scan domains (R226). -/
  idle : Nat
  d3Vote : Bool
  portVote : Bool
  /-- SR2: final pass running, exit running, a wake trigger during entry (R230, R231, R234), time of the trigger. -/
  entering : Bool
  exiting : Bool
  exitNext : Bool
  exitAt : Nat
  /-- A table write of R267 step 3 runs for port p (R226). -/
  tblWrite : List (Nat × Bool)
  /-- A non-seamless change is in progress (R233). -/
  modeDark : Bool
  /-- Time of the latest timed raster command and of the latest slot FLE, ps (the model's clock of interruption, R393). -/
  now : Nat
  fleT : Nat
  deriving DecidableEq, Repr

/-- An emission window: its slot, with the frame's EMISSION and LATCH_A, LATCH_B (R242), and whether it is the frame before's. -/
structure Win where
  slot : Nat
  rolling : Bool
  latchA : Bool
  latchB : Bool
  old : Bool
  deriving DecidableEq, Repr

structure SyncSt where
  /-- Time of the last reference edge, ps (R235). -/
  lastEdge : Option Nat
  /-- The last spacing, and the last eight valid ones, newest first, ps (R236, R237). -/
  lastSp : Option Nat
  spacings : List Nat
  /-- Consecutive anchored FLEs within 10 ns (R237). -/
  good : Nat
  /-- Frames since the last anchored frame (R235). -/
  anchor : Nat
  /-- The tracked frame period and t_E of the running frame, in ps. -/
  period : Option Rat
  tE : Rat
  /-- Correction of the running blank: shorten (negative) or stretch, ps (R238). -/
  corr : Rat
  /-- Windows open, oldest first, and those that open when the frame before's last one closes (R243, R248). -/
  openWin : List Win
  waitOpen : List Win
  /-- The frame before's last window, still to open (R242); slots of this frame whose windows have opened; the window registers of this
  frame, and whether this frame's FLE changed them (R248). -/
  lastWin : Option Win
  opened : List Nat
  winSeen : List Word
  winNew : Bool
  /-- PHASE, SRC and mode of the last frame FLE, to see a change of them (R237, R239). -/
  seen : List Nat
  /-- SYNC_OUT0-1 pulses running (R245). -/
  pulse : List (Nat × Bool)
  /-- Frames since the last state change feed LOCK_STAT.FRAMES; edges seen while a SYNCDLY run measures (R359). -/
  edges : List Int
  deriving DecidableEq, Repr
/-! ### Tone, the Tithe, supply drop (10_tone, 15_aging, 16_energy) -/

/-- A curve derivation in progress (R185-R188): its image, the TONE values and the mode it runs with, and the image's
histogram and tile records as they stood when it started. -/
structure ToneJob where
  img : Nat
  slot : Nat
  seq : Nat
  partl : Bool
  used : Nat
  vals : Regs
  hist : List Nat
  tiles : List (List Nat)
  deriving DecidableEq, Repr

/-- ps of the last curve per slot (R185), the derivations in progress, and whether the running slot pass keeps its
table (R188). -/
structure ToneSt where
  psPrev : List (Nat × Option Rat)
  jobs : List ToneJob
  /-- PARTIAL slots whose latest derivation was late: their passes keep the table and plan that the Calender holds (R188). -/
  late : List Nat
  deriving DecidableEq, Repr

/-- A curve record (R186): T, TARGET and the CURVE_STAT word. -/
structure Curve where
  t : List Nat
  target : Nat
  stat : Word
  deriving DecidableEq, Repr

/-- No record loaded: no curve acts (BYPASS). -/
def Curve.none : Curve := ⟨[], 0, 0⟩

/-- A plan record (R300): G, B_0-B_15, flags, predicted and raw current in mA, CORR used. -/
structure PlanRec where
  g : Nat
  b : List Nat
  flags : Nat
  pred : Nat
  raw : Nat
  corr : Nat
  deriving DecidableEq, Repr

/-- All factors 1.0. -/
def PlanRec.unit : PlanRec := ⟨0x8000, List.replicate 16 0x8000, 0, 0, 0, 0x4000⟩

/-- A plan in progress (R297): its image, curve and tile records, and the register values it started with. -/
structure PlanJob where
  img : Nat
  slot : Nat
  seq : Nat
  partl : Bool
  curve : Curve
  tiles : List (List Nat)
  vals : Regs
  level : Nat
  deriving DecidableEq, Repr

/-- The Tithe: plans in progress, G of the last plan per port and slot (key 4p + s), the sums and counts of the power
samples of the last evaluation intervals, newest first and the running one, and the ladder's counts (R304). -/
structure TitheSt where
  jobs : List PlanJob
  gPrev : List (Nat × Option Nat)
  spans : List (Nat × Nat)
  cur : Nat × Nat
  up : Nat
  down : Nat
  deriving DecidableEq, Repr
/-! ### The Calenders and the Aging unit (11, 14, 15) -/

/-- A map or table load (R267): target, function, source address, first line, lines, host bytes fetched, step (1
fetching, 3 waiting for the commit point, 4 past it, 5 past it on a port that was dark), and an abort that came late. -/
structure CalLoad where
  target : Nat
  fn : Nat
  src : Nat
  line0 : Nat
  lines : Nat
  bytes : List Host.Cell
  step : Nat
  late : Bool
  deriving DecidableEq, Repr

/-- Which lines a raster pass of a hold-capable panel programmes (R208): lines copied into since they were last
programmed, passes since every line was, whether the next pass must programme every line, and whether the running one
does. -/
structure RowSkip where
  dirty : List Nat
  passes : Nat
  force : Bool
  full : Bool
  deriving DecidableEq, Repr

/-- A Calender: its curve and plan (R186, R300), its working copies of the tables by kind (R266), a load, fills of the
port's demura and stress maps in progress (R253, R281), the C8 codes of the line last programmed in the slot pass
(R262), whether the pass has counted in SAT_CNT (R258) and in EV_STRESS_SAT (R276), the image of the pass, the
output codes of the line last programmed in the pass (R396). -/
structure CalSt where
  curve : Curve
  plan : PlanRec
  /-- The exact predictions of the plan (R301, R356). -/
  lin : PlanExact
  work : List (Nat × List Byte)
  load : Option CalLoad
  fill : Bool
  stressFill : Bool
  prev : List Nat
  sat : Bool
  stressSat : Bool
  img : Nat
  sent : List Nat
  skip : RowSkip
  /-- Table kinds lost at a power-on reset and not loaded since (R392). -/
  por : Nat
  /-- Lines fetched and not yet sent: line and codes (R21). -/
  fifo : List (Nat × List Nat)
  deriving DecidableEq, Repr

def CalSt.reset : CalSt := ⟨Curve.none, PlanRec.unit, PlanExact.none, [], none, false, false, [], false, false, 15, [], ⟨[], 0, true, true⟩, 0x3E, []⟩

/-- A stress operation (R283): 0 LOAD, 1 RECONCILE, 2 SNAP; its port, LOAD's source, step (1 fetching, 2 past the commit
point or, for SNAP, running), FRAME_NO and DEVTIME when a SNAP began, the Granary slot it writes, and a late abort. -/
structure StressOp where
  op : Nat
  port : Nat
  fn : Nat
  src : Nat
  line0 : Nat
  lines : Nat
  bytes : List Host.Cell
  step : Nat
  frame : Nat
  time : Nat
  slot : Nat
  late : Bool
  deriving DecidableEq, Repr

/-- Self-refresh catch-up of a port (R279): DEVTIME and KT when it went HELD and the image held, whether a rectangle
passed its commit point during the exit; and the emission time and KT still to add to the first pass. -/
structure CatchUp where
  at_ : Nat
  kt : Nat
  img : Nat
  changed : Bool
  deriving DecidableEq, Repr

structure AgingSt where
  op : Option StressOp
  catchUp : List (Nat × Option CatchUp)
  /-- Emission time of the running slot pass per port: ns, added catch-up time in 1/65536 ns, and its KT. -/
  te : List (Nat × (Nat × Nat × Nat))
  /-- DEVTIME at the latest frame FLE (R279). -/
  fle : Nat
  deriving DecidableEq, Repr
/-! ### The driver link and the panel (17, 18) -/

/-- A command to a driver (R317, R319): opcode, group, arguments, times asked, who sends it (0 the host, n + 1 INIT entry n), whether a
response is asked for, whether it goes out in the next line window, and the line whose slot holds its response (RSP_LINE, R318). -/
structure TdlCmd where
  op : Nat
  grp : Nat
  a0 : Nat
  a1 : Nat
  asked : Nat
  src : Nat
  rsp : Bool
  ask : Bool := true
  rspAt : Option Nat := none
  deriving DecidableEq, Repr

/-- A resend in flight (R329): its pair, the lane it goes on, the blocks left to send. -/
structure Resend where
  grp : Nat
  lane : Nat
  left : Nat
  deriving DecidableEq, Repr

/-- A failover decided (R324): group, failed lane, effective line (with the slot's lines numbered as R214), and the
record of the fault. -/
structure Failover where
  grp : Nat
  lane : Nat
  line : Nat
  recNo : Nat
  deriving DecidableEq, Repr

/-- A line whose LINE packets have gone out and whose windows may still be compared (R328): its line and slot, the line windows since, and
whether its pass has ended. -/
structure WmSent where
  line : Nat
  slot : Nat
  age : Nat
  old : Bool
  deriving DecidableEq, Repr

/-- Lanes that a RESTORE has trained (R326): the line that SET_LANES names for their return, the lanes, the groups lost from then on. -/
structure Return where
  line : Nat
  lanes : Nat
  lost : Nat
  deriving DecidableEq, Repr

/-- One port's TDL: command in progress, training in progress (1 full, 2 short form, 3 RESTORE), whether the link is
trained, the group polled next, consecutive missing STATUS per group, consecutive slots without a valid RSP, consecutive
polls with LOCK 0 and with CRC failures per lane (R323), the last 64 compare results per lane (true: mismatch), lost
groups and failovers pending, groups whose last STATUS reported CLEAR_DONE and HOLDING, pairs with a resend in flight
(R329), the FWM register of the running pass with COMPLETE and MATCHED (R330), the record of the pass's mismatches and, until its last
lines are compared, that of the pass before; lines sent and not yet compared; whether the pass before has published its FWM; lanes
that wait for their return; a broadcast of self-refresh to send (R331). -/
structure TdlSt where
  cmd : Option TdlCmd
  train : Nat
  trained : Bool
  poll : Nat
  miss : List (Nat × Nat)
  silent : Nat
  bcLost : Bool
  lockLow : List (Nat × Nat)
  crcBad : List (Nat × Nat)
  marks : List (Nat × List Bool)
  lost : Nat
  fails : List Failover
  clear : Nat
  hold : Nat
  resend : List Resend
  fwm : Nat
  complete : Bool
  matched : Bool
  wmRec : Option Nat
  wmLast : Option Nat
  carried : List WmSent
  shown : Bool
  ret : Option Return
  cast : Option TdlCmd
  deriving DecidableEq, Repr

def TdlSt.reset : TdlSt := ⟨none, 0, false, 0, [], 0, false, [], [], [], 0, [], 0, 0, [], 0xFFFFFFFF, true, true, none, none, [], false, none, none⟩

/-- What a panel sequence waits for (R337, R340). -/
inductive SeqWait where
  | none | pg | onDelay | analog | prst | pready | init | status | clear | offClear | gclk | offDelay
  deriving DecidableEq, Repr

/-- A BIAS block (R316): EN, BB_MODE, POL and FRAME_NO. -/
structure BiasBlk where
  en : Bool
  mode : Nat
  pol : Nat
  frame : Nat
  deriving DecidableEq, Repr

/-- One port's panel sequencer: what it waits for, the step (SEQ) or INIT entry it stands at, whether the running
power-off is a fault's (it ends in FAULT), whether the step is to run again after training (R351), the groups whose STATUS
has been read after INIT, whether every group has reported CLEAR_DONE, DEVTIME of ON, the pins PRST, GCLK and the VREF
outputs, the consecutive crack readings out of and in the window, PREADY_x, the BIAS block last sent (R345), whether a CLEAR is to go
out in the next line window, and MEMORY of the CLEAR last sent (R337, R340). -/
structure PanelSt where
  wait : SeqWait
  idx : Nat
  fault : Bool
  redo : Bool
  seen : Nat
  cleared : Bool
  onAt : Nat
  prst : Bool
  gclk : Bool
  vref : Bool
  outs : Nat
  ins : Nat
  pready : Bool
  biasBlk : Option BiasBlk
  clearDue : Bool
  clearMem : Option Bool
  deriving DecidableEq, Repr

def PanelSt.reset : PanelSt := ⟨.none, 0, false, false, 0, false, 0, false, false, false, 0, 0, false, none, false, none⟩

/-! ### Rectangles (11) -/

/-- A rectangle in flight (R199-R205): tag, slot, area, whether the device posted it, state (0 QUEUED, 1 COMPOSING,
2 STAGED, 3 HELD, 4 COPYING), whether its copy runs BEHIND, an abort that came late, the frame that first shows it, and
whether it fills the slot's image with emission off (R197). -/
structure Rect where
  tag : Nat
  slot : Nat
  x : Nat
  y : Nat
  w : Nat
  h : Nat
  own : Bool
  st : Nat
  behind : Bool
  late : Bool
  frame : Nat
  fill : Bool
  deriving DecidableEq, Repr

/-! ### Trim (19) -/

/-- A calibration run (R353): instance data, result values written at the commit point (register key, word mask, value),
whether the result is computed, whether it was started automatically, GENLOCK_IN positions before the run, a late abort. -/
structure TrimRun where
  cal : Nat
  port : Nat
  vref : Nat
  force : Bool
  auto : Bool
  ready : Bool
  writes : List (Nat × Nat × Nat × Nat)
  lanes : List Nat
  deriving DecidableEq, Repr

/-- The regression accumulator of a port (R356). -/
structure RegAcc where
  n : Nat
  p : Rat
  m : Rat
  pp : Rat
  pm : Rat
  mm : Rat
  deriving DecidableEq, Repr

def RegAcc.zero : RegAcc := ⟨0, 0, 0, 0, 0, 0⟩

structure TrimSt where
  run : Option TrimRun
  acc : List (Nat × RegAcc)
  /-- DEVTIME at which an instance that failed may be tried again (R360). -/
  retry : List (Nat × Nat)
  deriving DecidableEq, Repr

/-! ### The Granary and the management controller (20, 23) -/

/-- A writer of Granary pages (R368): 0 the host's command, 1 SNAP, 2 the mailbox, 3 the fault log, 4 the lifetime
counters, 5 a background reprogram, 6 the boot stage, 8 or 9 pages of a SNAP or mailbox command that has ended; its OP for NV_INTR, and the pages left: page, bytes by offset. -/
structure NvWriter where
  who : Nat
  op : Nat
  pages : List (Nat × List (Nat × Byte))
  deriving DecidableEq, Repr

/-- The host's command (R370): operation, function, destination, length, source, PAGES, ARG, bytes fetched, step (1
fetching, 2 programming or reading), and a late abort. -/
structure NvCmd where
  op : Nat
  fn : Nat
  dst : Nat
  len : Nat
  src : Nat
  pages : Nat
  arg : Nat
  bytes : List Host.Cell
  step : Nat
  late : Bool
  deriving DecidableEq, Repr

/-- A BAR2 window read held while its page is programmed (R366). -/
structure NvRead where
  ga : Nat
  len : Nat
  ecc : Ecc
  deriving DecidableEq, Repr

structure NvSt where
  /-- The Granary, 32 MiB: (GA, byte), unlisted bytes read 0. -/
  mem : List Host.Cell
  /-- Uncorrectable 8-byte groups, as GA / 8. -/
  bad : List Nat
  cmd : Option NvCmd
  /-- Writers in round robin; the first one's first page is being programmed. -/
  writers : List NvWriter
  held : List NvRead
  deriving DecidableEq, Repr

/-- A mailbox command (R412): OP, function, arguments, source, destination, length, bytes fetched, step (1 fetching or
checking, 2 programming, 3 restarting), outcome so far, a late abort. -/
structure MbCmd where
  op : Nat
  fn : Nat
  arg0 : Nat
  arg1 : Nat
  src : Nat
  dst : Nat
  len : Nat
  bytes : List Host.Cell
  step : Nat
  late : Bool
  deriving DecidableEq, Repr

structure MgmtSt where
  cmd : Option MbCmd
  /-- Host bytes the device has written (the buffers of IDENTITY and ATTEST): address and byte. -/
  sent : List Host.Cell
  /-- DEVTIME when the running restart began (R400). -/
  restartAt : Nat
  /-- A restart that FW_SWITCH began. -/
  switching : Bool
  deriving DecidableEq, Repr

/-! ### Fault recovery (22) -/

/-- A tile repair (R397): image, tile column and row, its fault records each with the DA of its word, the
tile's pixels once recomposed, its phase (0 to begin, 1 recomposed or posted, 2 copying, 3 no repair runs), whether the copy runs
BEHIND, and the frame that first shows it. -/
structure Repair where
  img : Nat
  col : Nat
  row : Nat
  recs : List (Nat × Nat)
  rows : List (List Nat)
  phase : Nat
  behind : Bool
  frame : Nat
  deriving DecidableEq, Repr

/-- Repairs; whether this pass has counted in UNREPAIRED (R397); moulds in self-test and moulds that passed and return at
the next FLE (R399). -/
structure RepairSt where
  tiles : List Repair
  counted : Bool
  testing : Nat
  passed : Nat
  deriving DecidableEq, Repr


/-! ### The Fault unit (22_faults) -/

/-- Log indexes (R401, R402: they advance whatever FREEZE holds), interrupted and operating time in ns (R393), each
port's own interrupted ns, and the tile repair in progress (R397). -/
structure FaultSt where
  wr : Nat
  viol : Nat
  intNs : Nat
  opNs : Nat
  portNs : List (Nat × Nat)
  /-- Final records not yet appended to the Granary log (R403), as record numbers. -/
  toAppend : List Nat
  /-- Time not yet added to the lifetime counters: interruption and operation, in ns (R403). -/
  lifeIntNs : Nat
  lifeOpNs : Nat
  /-- Interrupted intervals already charged, ns: those of port A (0), of port B (1) and of the device (2) (R393). -/
  spans : List (Nat × List (Nat × Nat))
  deriving DecidableEq, Repr

/-- The device: everything but the queue of waiting commands. -/
structure Dev where
  /-- Register pages: active values, and the shadow values of RWS fields (R4, R6). -/
  regs : Regs
  sh : Regs
  /-- The words that a page's working counters show while PG_CTL.FREEZE holds them (R49). -/
  froze : Regs
  groups : List (Nat × GroupSt)
  pwr : PowerSt
  tm : TimeSt
  host : HostSt
  bank : BankSt
  reeve : ReeveSt
  couch : CouchSt
  flt : FaultSt
  scan : ScanSt
  sync : SyncSt
  tone : ToneSt
  tithe : TitheSt
  cal : List (Nat × CalSt)
  aging : AgingSt
  tdl : List (Nat × TdlSt)
  panel : List (Nat × PanelSt)
  rects : List Rect
  trim : TrimSt
  nv : NvSt
  mgmt : MgmtSt
  repair : RepairSt
  /-- The model's own: how many free values have been taken (log entry 3). -/
  free : Nat
  deriving DecidableEq, Repr

/-- The block: its device, and the commands that wait, first in, first out. -/
structure State where
  pending : List Instr
  dev : Dev
  deriving DecidableEq, Repr

/-- No command of this block stops the machine (log entry 2): the type has no fault. -/
inductive Fault where
  /-- Raised by nothing: kept so that the type is inhabited. Safe. -/
  | none
  deriving DecidableEq, Repr

/-- Why a command has no meaning. -/
inductive Refusal where
  /-- Raised by exec's arm of a command not modelled yet. Safe: the machine stops. -/
  | notModelled (mnemonic : String)
  deriving DecidableEq, Repr

/-- Right after reset (R101, R84): D0 ON_SLOW, D1 and D2 WAKING, every register at its reset value, nothing in any
buffer, no command waiting. Values the spec does not give are DESIGN CHOICE (log entry 5). -/
def Dev.reset : Dev where
  regs := [(rkey MOOT.pg 0x100, 0x115), (rkey AOBB.pg 0x1F8, 2), (rkey GRANARY.pg 0x00C, 0x20), (rkey GRANARY.pg 0x014, 0x20), (rkey MGMT.pg 0x06C, 8)]
  sh := []
  froze := []
  groups := []
  pwr := { doms := [(1, ⟨false, false, 1, 0⟩), (2, ⟨false, false, 1, 0⟩)], fircStarting := true, phyLock := false,
           vin := true, vao := true, vio := true, vbat := true, vhold := true, testMode := false, perst := false,
           wakeN := false, tripped := false, seqOff := none, held := false, due := 0, d1Boot := true, fwBoot := true, ptFails := [], smbOp := 0, pllWait := 0, tapActive := false, bias := [], rails := 0, railPg := 0 }
  tm := ⟨0, 0, false, 0, 0⟩
  host := { fns := [], reads := [], todo := [], dropped := [], cpl := ⟨[], 3, false⟩, reqs := [], lastMsg := none,
            alertHeld := false, l1Req := false, narrow := false, clkreq := false, ltrActive := false, ltrMsg := none, errMsg := none, fetchDue := false,
            ptmReq := false, ptmAt := none, later := [], serving := false, downAt := none }
  bank := { mem := [], bad := [], fresh := [], banks := [], spareTo := 0, spareDue := [], spareKept := [], borrowed := [], claim := none, waiting := [] }
  reeve := { items := [], caches := [], srcSeen := [], mig := none, imbal := [], noCompose := [], degraded := false, oos := 0, maps := 0, mapsNext := 0, reloaded := [] }
  couch := { layers := [], pass := none, passReq := false, imgs := [], seq := 0, composedSince := [], enables := 0 }
  flt := { wr := 0, viol := 0, intNs := 0, opNs := 0, portNs := [], toAppend := [], lifeIntNs := 0, lifeOpNs := 0, spans := [] }
  scan := { run := false, starting := false, ports := [], idle := 0, d3Vote := false, portVote := false, entering := false, exiting := false,
            exitNext := false, exitAt := 0, tblWrite := [], modeDark := false, now := 0, fleT := 0 }
  sync := { lastEdge := none, lastSp := none, spacings := [], good := 0, anchor := 0, period := none, tE := 0, corr := 0, openWin := [], waitOpen := [], lastWin := none, opened := [], winSeen := [], winNew := false,
            seen := [0, 0, 1, 0, 0x10A],
            pulse := [], edges := [] }
  tone := { psPrev := [], jobs := [], late := [] }
  tithe := { jobs := [], gPrev := [], spans := [], cur := (0, 0), up := 0, down := 0 }
  cal := []
  aging := { op := none, catchUp := [], te := [], fle := 0 }
  tdl := []
  panel := []
  rects := []
  trim := { run := none, acc := [], retry := [] }
  nv := { mem := [], bad := [], cmd := none, writers := [], held := [] }
  mgmt := { cmd := none, sent := [], restartAt := 0, switching := false }
  repair := { tiles := [], counted := false, testing := 0, passed := 0 }
  free := 0

def State.reset : State := ⟨[], Dev.reset⟩
end Sys2Proof.Machine
end

