-- ==== Sys2Proof/Machine/Ops.lean ====
section
/-! DEFINITION. The operations every block shares: reading and writing register fields, counters, error codes (R50),
free values, device time, events and their delivery (21_events), wake sources (R87), violation and fault records
(R77, R401). -/

namespace Sys2Proof

/-- FUNC code of a requester (R49). -/
def Req.code : Req → Nat
  | .pf0 => 0 | .pf1 => 1 | .pf2 => 2 | .filpor => 15

end Sys2Proof

namespace Sys2Proof.Machine

/-! ### Register fields -/

/-- The key of element i (and k) of field array f on page pg. -/
def Fld.key (f : Fld) (pg i k : Nat) : Nat := rkey pg (f.off + i * f.str + k * f.str2)

/-- Read a field element of a register file: register index i (and k), bit index j. -/
def Regs.fld (r : Regs) (pg : Nat) (f : Fld) (i : Nat := 0) (j : Nat := 0) (k : Nat := 0) : Nat :=
  getBits (r.word (f.key pg i k)) (f.lo + j * f.bstr) f.w

/-- Write a word of a register file. -/
def Regs.put (r : Regs) (key : Nat) (x : Word) : Regs := mset resetWord r key x

/-- Write a field element of a register file. -/
def Regs.putFld (r : Regs) (pg : Nat) (f : Fld) (v : Nat) (i : Nat := 0) (j : Nat := 0) (k : Nat := 0) : Regs :=
  r.put (f.key pg i k) (setBits (r.word (f.key pg i k)) (f.lo + j * f.bstr) f.w v)

/-- The active value of a field (R4). -/
def Dev.rd (d : Dev) (pg : Nat) (f : Fld) (i : Nat := 0) (j : Nat := 0) (k : Nat := 0) : Nat := d.regs.fld pg f i j k

/-- Set the active value of a field, as the hardware does. -/
def Dev.wr (d : Dev) (pg : Nat) (f : Fld) (v : Nat) (i : Nat := 0) (j : Nat := 0) (k : Nat := 0) : Dev :=
  { d with regs := d.regs.putFld pg f v i j k }

/-- A one-bit field as a truth value. -/
def Dev.on (d : Dev) (pg : Nat) (f : Fld) (i : Nat := 0) (j : Nat := 0) (k : Nat := 0) : Bool := d.rd pg f i j k == 1

/-- A whole register's active word. -/
def Dev.word (d : Dev) (pg off : Nat) : Word := d.regs.word (rkey pg off)

def Dev.putWord (d : Dev) (pg off : Nat) (x : Word) : Dev := { d with regs := d.regs.put (rkey pg off) x }

/-- Conditional change. -/
def Dev.onlyIf (d : Dev) (c : Bool) (f : Dev → Dev) : Dev := if c then f d else d

/-- PG_CTL.FREEZE: the page's counters and statistics stand still (R49). -/
def Dev.frozen (d : Dev) (pg : Nat) : Bool := d.on pg HDR.PG_CTL_FREEZE

/-- PG_CTL.ENABLE: the block of page pg operates (R49; log entry 64). -/
def Dev.operates (d : Dev) (pg : Nat) : Bool := d.on pg HDR.PG_CTL_ENABLE

/-- The reference that the lock loop follows: SYNC operates and SRC names one; else FREE, 0 (R49, R235). -/
def Dev.src (d : Dev) : Nat := if d.operates SYNC.pg then d.rd SYNC.pg SYNC.SRC_CTL_SRC else 0

/-- The reference raster is to run: SCAN operates and RUN is 1 (R49, R219). -/
def Dev.runOn (d : Dev) : Bool := d.on SCAN.pg SCAN.CTL_RUN && d.operates SCAN.pg

/-- Add n to a saturating counter field, unless its page is frozen. -/
def Dev.count (d : Dev) (pg : Nat) (f : Fld) (n : Nat := 1) (i : Nat := 0) (j : Nat := 0) (k : Nat := 0) : Dev :=
  if d.frozen pg then d else d.wr pg f (satU f.w (d.rd pg f i j k + n)) i j k

/-- Add n to a wrapping counter field, unless its page is frozen. -/
def Dev.countWrap (d : Dev) (pg : Nat) (f : Fld) (n : Nat := 1) (i : Nat := 0) (j : Nat := 0) : Dev :=
  if d.frozen pg then d else d.wr pg f (d.rd pg f i j + n) i j

/-- Publish a statistic, unless its page is frozen. -/
def Dev.stat (d : Dev) (pg : Nat) (f : Fld) (v : Nat) (i : Nat := 0) (j : Nat := 0) : Dev :=
  if d.frozen pg then d else d.wr pg f v i j

/-! ### Free values -/

/-- Take a free choice (log entry 3). -/
def Dev.takeBool (d : Dev) : Bool × Dev := (Config.freeBool d.free, { d with free := d.free + 1 })

/-- Take free answers of bank cells (R123; log entry 62). -/
def Dev.takeEcc (d : Dev) : Ecc × Dev := (Config.freeEcc d.free, { d with free := d.free + 1 })

/-- Take a free number below n (0 when n is 0). -/
def Dev.takeNat (d : Dev) (n : Nat) : Nat × Dev := (Config.freeNat d.free % n, { d with free := d.free + 1 })

/-- A number the spec stores in an integer field without naming the rounding: the integer below or above, a free
choice (log entry 3). -/
def Dev.takeRound (d : Dev) (x : Rat) : Int × Dev :=
  if x.den = 1 then (x.num, d) else let q := d.takeBool; (x.floor + (if q.1 then 1 else 0), q.2)

/-! ### Error codes (R50, R59) -/

namespace E
abbrev BUSY : Nat := 0x01
abbrev RANGE : Nat := 0x02
abbrev NOT_OWNER : Nat := 0x03
abbrev NO_PLACE : Nat := 0x04
abbrev LB_OVERFLOW : Nat := 0x05
abbrev MODE_INVALID : Nat := 0x06
abbrev CLOCK_NOT_READY : Nat := 0x07
abbrev STATE : Nat := 0x08
abbrev ABORTED : Nat := 0x09
abbrev ABORT_LATE : Nat := 0x0A
abbrev IMPLAUSIBLE : Nat := 0x0B
abbrev STATS : Nat := 0x0C
abbrev AUTH : Nat := 0x0D
abbrev NV_TORN : Nat := 0x0E
abbrev SEQ_TIE : Nat := 0x0F
abbrev RETENTION_LOST : Nat := 0x10
abbrev TIMEOUT : Nat := 0x11
abbrev BUDGET : Nat := 0x12
abbrev PRIV : Nat := 0x13
end E

/-- Record an error on page pg (R50): the first one in CODE and ERR_INFO, a further one in OVERRUN. ERR_INFO names the
page and offset of the register at fault, the requester's FUNC code and DETAIL. -/
def Dev.errAt (d : Dev) (pg code ipg ioff func detail : Nat) : Dev :=
  if d.rd pg HDR.ERR_CODE_CODE = 0 then
    (d.wr pg HDR.ERR_CODE_CODE code).putWord pg 0x028
      (BitVec.ofNat 32 (ipg % 256 + (ioff % 4096) * 256 + (func % 16) * 2 ^ 20 + (detail % 256) * 2 ^ 24))
  else d.wr pg HDR.ERR_CODE_OVERRUN 1

/-- An error of a register of the page itself. -/
def Dev.err (d : Dev) (pg code off func : Nat) : Dev := d.errAt pg code pg off func 0

/-! ### Device time (R99, R100) -/

/-- DEVTIME, 64 bits. -/
def Dev.devtime (d : Dev) : Nat := d.tm.ns % 2 ^ 64

/-- FRAME_NO (R216). -/
def Dev.frameNo (d : Dev) : Nat := d.rd SCAN.pg SCAN.FRAME_NO_COUNT

/-! ### Domains as seen by the blocks (R84, R420) -/

/-- DOM_STAT of domain n. -/
def Dev.dom (d : Dev) (n : Nat) : Nat := d.rd MOOT.pg MOOT.DOM_STAT_STATE (i := n / 8) (j := n % 8)

def Dev.setDom (d : Dev) (n st : Nat) : Dev := d.wr MOOT.pg MOOT.DOM_STAT_STATE st (i := n / 8) (j := n % 8)

/-- On, in the sense of R420: not OFF, WAKING, RETRY_WAIT, DROPPING or FAILED. -/
def Dev.domOn (d : Dev) (n : Nat) : Bool :=
  let s := d.dom n
  s == 3 || s == 4 || s == 5 || s == 6

/-- Reads ON_PLL (R84, R92). -/
def Dev.onPll (d : Dev) (n : Nat) : Bool := d.dom n == 4

/-- A rail-off sequence runs, or the device is tripped or held in reset after one (R31, R33, R45): nothing starts. -/
def Dev.halted (d : Dev) : Bool := d.pwr.held || d.pwr.tripped || d.pwr.seqOff.isSome

/-! ### Events (21_events) -/

/-- Number of the page's first event and how many it has (R390). -/
def evSource (pg : Nat) : Nat × Nat :=
  if pg == 0x01 then (0, 2) else if pg == 0x02 then (2, 3) else if pg == 0x03 then (5, 1)
  else if pg == 0x05 then (16, 5) else if pg == 0x06 then (48, 6) else if pg == 0x07 then (32, 6)
  else if pg == 0x08 then (38, 1) else if pg == 0x09 then (64, 6)
  else if 0x0A ≤ pg && pg ≤ 0x15 then (80, 3) else if pg == 0x16 then (83, 2)
  else if pg == 0x17 then (96, 3) else if pg == 0x18 then (112, 7) else if pg == 0x19 then (119, 5)
  else if pg == 0x1A || pg == 0x1B then (136, 3) else if pg == 0x1C then (139, 5) else if pg == 0x1D then (144, 5)
  else if pg == 0x1E || pg == 0x1F then (160, 6) else if pg == 0x20 then (176, 3)
  else if pg == 0x21 || pg == 0x22 then (192, 8) else if pg == 0x23 then (208, 3) else if pg == 0x24 then (220, 6)
  else if pg == 0x25 then (232, 5) else if pg == 0x26 then (244, 3) else if pg == 0x27 then (248, 3) else (0, 0)

/-- The event of bit b of page pg. -/
def evOf (pg b : Nat) : Nat := (evSource pg).1 + b

/-- The event bits a page has (R49: a page without events ignores EV_EN and EV_FORCE). -/
def evMask (pg : Nat) : Word := BitVec.ofNat 32 (2 ^ (evSource pg).2 - 1)

/-- The source pages of event e. -/
def evPages (e : Nat) : List Nat :=
  (List.range 0x28).filter fun pg => let s := evSource pg; s.1 ≤ e && e < s.1 + s.2

def Dev.evPend (d : Dev) (e : Nat) : Bool :=
  (evPages e).any fun pg => bit (d.word pg 0x014).toNat (e - (evSource pg).1)

/-- Event e is deliverable: pending and enabled on at least one source page (R382). -/
def Dev.deliverable (d : Dev) (e : Nat) : Bool :=
  (evPages e).any fun pg => bit (d.word pg 0x014 &&& d.word pg 0x010).toNat (e - (evSource pg).1)

def Dev.routeVec (d : Dev) (e : Nat) : Nat := d.rd CRIER.pg CRIER.ROUTE_VECTOR (i := e)
def Dev.routeFn (d : Dev) (e : Nat) : Nat := d.rd CRIER.pg CRIER.ROUTE_FUNC (i := e)

/-- Some event routed to vector v of function f is deliverable (R383). -/
def Dev.vecDeliverable (d : Dev) (f v : Nat) : Bool :=
  (List.range 256).any fun e => d.routeFn e == f && d.routeVec e == v && d.deliverable e

def Dev.fn (d : Dev) (f : Nat) : Fn := mget (fun _ => Fn.reset) d.host.fns f

def Dev.setFn (d : Dev) (f : Nat) (x : Fn) : Dev := { d with host := { d.host with fns := mset (fun _ => Fn.reset) d.host.fns f x } }

def Fn.entry (x : Fn) (v : Nat) : MsixEntry := mget (fun _ => MsixEntry.reset) x.msix v

/-- Link state of HOSTIF.PG_STAT (R68). -/
def Dev.link (d : Dev) : Nat := d.rd HOSTIF.pg HDR.PG_STAT_STATE

/-- A request of vector v of function f is held (R384). -/
def Dev.holding (d : Dev) (f v : Nat) : Bool :=
  let x := d.fn f
  !x.msixEn || x.msixFMask || (x.entry v).mask || !x.bme || x.dstate != 0 ||
    d.link == 0 || d.link == 1 || d.link == 7

/-- The link is in L1 or one of its substates (R68). -/
def Dev.inL1 (d : Dev) : Bool := decide (4 ≤ d.link ∧ d.link ≤ 6)

/-- The link leaves L1 (R74, R385): CLKREQ_N asserted, the link back in L0. -/
def Dev.leaveL1 (d : Dev) : Dev :=
  if d.inL1 then
    { d.wr HOSTIF.pg HDR.PG_STAT_STATE 2 with host := { d.host with l1Req := false, narrow := false, clkreq := false } }
  else d

/-- Request vector v of function f: merged into a standing request, else standing, and held or not (R383, R384); one that is not
held takes the link out of L1 at once (R385). -/
def Dev.request (d : Dev) (f v : Nat) : Dev :=
  if f ≥ 3 || d.host.reqs.any (fun r => r.f == f && r.v == v) then d
  else
    let h := d.holding f v
    let d := { d with host := { d.host with reqs := d.host.reqs ++ [MsiReq.mk f v h] } }
    if h then d.count CRIER.pg CRIER.HELD_CNT_COUNT else d.leaveL1

/-- Hold or let go the standing requests as the holding conditions now say, and withdraw the held ones no deliverable event of whose
vector stands (R384); with one that is not held the link leaves L1 (R385). -/
def Dev.refreshReqs (d : Dev) : Dev :=
  let now := (d.host.reqs.map fun r => (r.held, { r with held := d.holding r.f r.v })).filter fun e =>
    !(e.2.held && !d.vecDeliverable e.2.f e.2.v)
  let newly := (now.filter fun e => !e.1 && e.2.held).length
  let d' := ({ d with host := { d.host with reqs := now.map (·.2) } } : Dev).onlyIf (now.any fun e => !e.2.held) (·.leaveL1)
  if newly = 0 then d' else d'.count CRIER.pg CRIER.HELD_CNT_COUNT newly

/-- The Crier runs: D1 is on (R388). -/
def Dev.crierOn (d : Dev) : Bool := d.domOn 1

/-- An ALERT-routed event is deliverable (R386). -/
def Dev.alertEvent (d : Dev) : Bool :=
  d.on CRIER.pg CRIER.CTL_ALERT_EN &&
    (List.range 256).any fun e => d.on CRIER.pg CRIER.ROUTE_ALERT (i := e) && d.deliverable e

def Dev.anyFailed (d : Dev) : Bool := (List.range 16).any fun n => d.dom n == 8

/-- The level of ALERT_N: driven low (R386, R388). -/
def Dev.alertLow (d : Dev) : Bool := (if d.crierOn then d.alertEvent else d.host.alertHeld) || d.anyFailed

/-- Latch EV_PEND bit b of page pg, and request the routed vector when the event becomes deliverable (R383). -/
def Dev.latch (d : Dev) (pg b : Nat) : Dev :=
  let e := evOf pg b
  let was := d.deliverable e
  let d := d.putWord pg 0x014 (d.word pg 0x014 ||| BitVec.ofNat 32 (2 ^ b))
  if !was && d.deliverable e && d.crierOn then d.request (d.routeFn e) (d.routeVec e) else d

/-- Does the event fire the EVENT wake source when it becomes deliverable (R387)? -/
def Dev.wakeRouted (d : Dev) (e : Nat) : Bool := d.on CRIER.pg CRIER.ROUTE_WAKE (i := e)

/-- Wake source n fires, without its event (R87): WAKE_LAST and WAKE_HOLD. -/
def Dev.wakeMark (d : Dev) (n : Nat) : Dev :=
  let m := if n = 0 then d.rd MOOT.pg MOOT.WAKE_MAP0_DOMS else d.rd MOOT.pg MOOT.WAKE_MAP_DOMS (i := n - 1)
  let d := d.wr MOOT.pg MOOT.WAKE_LAST_SRC (d.rd MOOT.pg MOOT.WAKE_LAST_SRC ||| 2 ^ n)
  d.wr MOOT.pg MOOT.WAKE_HOLD_DOMS (d.rd MOOT.pg MOOT.WAKE_HOLD_DOMS ||| m)

/-- Latch event bit b of page pg; when that makes a WAKE-routed event deliverable and WAKE_EN.EVENT is 1, fire the
EVENT wake source and latch EV_WAKE, whose own route may fire it again (R383, R387). -/
def Dev.raise (d : Dev) (pg b : Nat) : Dev :=
  let e := evOf pg b
  let was := d.deliverable e
  let d := d.latch pg b
  if !was && d.deliverable e && d.wakeRouted e && d.on MOOT.pg MOOT.WAKE_EN_EVENT then
    (d.wakeMark 5).latch MOOT.pg 0
  else d

/-- The condition of event bit b of page pg becomes c: EV_RAW follows, and its rise latches the event (R381). -/
def Dev.cond (d : Dev) (pg b : Nat) (c : Bool) : Dev :=
  let raw := d.word pg 0x00C
  if bit raw.toNat b == c then d
  else if c then (d.putWord pg 0x00C (raw ||| BitVec.ofNat 32 (2 ^ b))).raise pg b
  else d.putWord pg 0x00C (raw &&& ~~~(BitVec.ofNat 32 (2 ^ b)))

/-- The events of page pg that became deliverable between d0 and d are delivered (an EV_EN write, EV_FORCE). -/
def Dev.deliverNew (d0 d : Dev) (pg : Nat) : Dev :=
  (List.range (evSource pg).2).foldl
    (fun d b =>
      let e := evOf pg b
      if !d0.deliverable e && d.deliverable e then
        let d := if d.crierOn then d.request (d.routeFn e) (d.routeVec e) else d
        if d.wakeRouted e && d.on MOOT.pg MOOT.WAKE_EN_EVENT then (d.wakeMark 5).latch MOOT.pg 0 else d
      else d) d

/-! ### Violation records (R77, R402) -/

/-- EV_LOG_WRAP and the read index when a ring of the given depth is full (R402). -/
def Dev.ringPush (d : Dev) (wrIdx depth : Nat) (rd : Fld) : Dev :=
  if (wrIdx + 2 ^ 32 - d.rd FAULT.pg rd) % 2 ^ 32 = depth then
    (d.wr FAULT.pg rd (d.rd FAULT.pg rd + 1)).raise FAULT.pg 2
  else d

/-- Words of record n of the violation ring. -/
def Dev.violWord (d : Dev) (n w : Nat) : Word := d.regs.word (FAULT.VIOL_REC.key FAULT.pg (16 * (n % 32) + w) 0)

def Dev.putViol (d : Dev) (n w : Nat) (x : Nat) : Dev :=
  { d with regs := d.regs.put (FAULT.VIOL_REC.key FAULT.pg (16 * (n % 32) + w) 0) (BitVec.ofNat 32 x) }

/-- The event of a violation kind (R77). -/
def Dev.violEvent (d : Dev) (kind : Nat) : Dev :=
  if kind = 0x14 then d.raise BANKS.pg 1
  else if kind < 0x10 then d.raise HOSTIF.pg 0 else d.raise HOSTIF.pg 1

/-- Log a violation of the given kind by function code func with the header DW of its TLP (R77). -/
def Dev.violation (d : Dev) (kind func : Nat) (hdr : List Word) : Dev :=
  let d := d.count HOSTIF.pg HOSTIF.VIOL_CNT_COUNT
  let last := (d.flt.viol + 2 ^ 32 - 1) % 2 ^ 32
  let w0 := (d.violWord last 0).toNat
  let t := (d.violWord last 1).toNat + (d.violWord last 2).toNat * 2 ^ 32
  let same := d.flt.viol != 0 && w0 % 256 == kind && w0 / 256 % 16 == func &&
    (List.range 4).all (fun i => d.violWord last (4 + i) == hdr.getD i 0) && d.devtime - t ≤ 1000000
  if same then
    (d.putViol last 0 (w0 % 2 ^ 16 + satU 16 (w0 / 2 ^ 16 + 1) * 2 ^ 16)).violEvent kind
  else
    let n := d.flt.viol
    let d := d.ringPush n 32 FAULT.VIOL_RD_INDEX
    let w0 := kind + func * 256 + b2n (hdr != []) * 2 ^ 12 + b2n (12 < hdr.length) * 2 ^ 13
    let d := ((d.putViol n 0 w0).putViol n 1 (d.devtime % 2 ^ 32)).putViol n 2 (d.devtime / 2 ^ 32)
    let d := d.putViol n 3 d.frameNo
    let d := (List.range 12).foldl (fun d i => d.putViol n (4 + i) (hdr.getD i 0).toNat) d
    let d := { d with flt := { d.flt with viol := (n + 1) % 2 ^ 32 } }
    (if d.frozen FAULT.pg then d else d.wr FAULT.pg FAULT.VIOL_WR_COUNT d.flt.viol).violEvent kind

/-! ### Fault records (R401, R402) -/

def Dev.faultWord (d : Dev) (n w : Nat) : Word := d.regs.word (FAULT.FAULT_REC.key FAULT.pg (16 * (n % 16) + w) 0)

def Dev.putFault (d : Dev) (n w : Nat) (x : Nat) : Dev :=
  { d with regs := d.regs.put (FAULT.FAULT_REC.key FAULT.pg (16 * (n % 16) + w) 0) (BitVec.ofNat 32 x) }

/-- FAULT.PG_STAT.STATE: 1 while any record reads STATE 1 (R404). -/
def Dev.faultState (d : Dev) : Dev :=
  d.wr FAULT.pg HDR.PG_STAT_STATE
    (b2n ((List.range 16).any fun n => (d.faultWord n 0).toNat / 2 ^ 12 % 16 == 1))

/-- A fault record: class, port (15: device), state, detail, where, line, slot, interruption in ns and error code. -/
structure FaultRec where
  cls : Nat
  port : Nat := 15
  state : Nat := 0
  detail : Nat := 0
  loc : Nat := 0
  line : Nat := 0
  slot : Nat := 0
  ns : Nat := 0
  code : Nat := 0
  deriving DecidableEq, Repr

/-- Write a fault record and raise EV_FAULT (R401); a record whose STATE is final waits for the Granary log (R403). -/
def Dev.fault (d : Dev) (r : FaultRec) : Dev :=
  let n := d.flt.wr
  let d := d.ringPush n 16 FAULT.FAULT_RD_INDEX
  let ws := [r.cls + r.port * 2 ^ 8 + r.state * 2 ^ 12 + satU 16 r.detail * 2 ^ 16, d.devtime % 2 ^ 32,
    d.devtime / 2 ^ 32, d.frameNo, r.loc, r.line + r.slot * 2 ^ 13, satU 32 r.ns, r.code]
  let d := (List.range 16).foldl (fun d w => d.putFault n w (ws.getD w 0)) d
  let d := { d with flt := { d.flt with
    wr := (n + 1) % 2 ^ 32, toAppend := if r.state = 1 then d.flt.toAppend else d.flt.toAppend ++ [n] } }
  let d := if d.frozen FAULT.pg then d else d.wr FAULT.pg FAULT.FAULT_WR_COUNT d.flt.wr
  d.faultState.raise FAULT.pg 0

/-- Record n, counted as FAULT_WR counts, is still in the ring. -/
def Dev.inRing (d : Dev) (n : Nat) : Bool := decide ((d.flt.wr + 2 ^ 32 - 1 - n) % 2 ^ 32 < 16)

/-- The records of a class that still recover, oldest first. -/
def Dev.openRecs (d : Dev) (cls : Nat) : List Nat :=
  ((List.range 16).map fun i => (d.flt.wr + 2 ^ 32 - 16 + i) % 2 ^ 32).filter fun n =>
    let w := (d.faultWord n 0).toNat
    w % 256 == cls && w / 2 ^ 12 % 16 == 1

/-- Of those, port p's. -/
def Dev.openOf (d : Dev) (cls p : Nat) : List Nat := (d.openRecs cls).filter fun n => (d.faultWord n 0).toNat / 256 % 16 == p

/-- Interruption charged to record n (R401), while the ring holds it. -/
def Dev.faultNs (d : Dev) (n ns : Nat) : Dev :=
  if ns = 0 || !d.inRing n then d else d.putFault n 6 (satU 32 ((d.faultWord n 6).toNat + ns))

/-- End the recovery of record n in place: its STATE, and the interruption charged (R401). A record that newer ones have driven out of
the ring is in no place any more (log entry 21). -/
def Dev.faultEnd (d : Dev) (n state ns : Nat) : Dev :=
  if !d.inRing n then d
  else
    let w0 := (d.faultWord n 0).toNat
    let d := (d.putFault n 0 (w0 % 2 ^ 12 + state * 2 ^ 12 + w0 / 2 ^ 16 * 2 ^ 16)).faultNs n ns
    ({ d with flt := { d.flt with toAppend := d.flt.toAppend ++ [n] } } : Dev).faultState

/-! ### Bank addresses (R108) -/

abbrev bankOf (da : Nat) : Nat := da / 2 ^ 24

/-- Complete a host read with data (R71). -/
def Dev.reply (d : Dev) (data : List Byte) (poisoned : Bool := false) : Dev :=
  { d with host := { d.host with cpl := ⟨data, 0, poisoned⟩ } }

/-- Complete a host request with a status only: 1 UR, 2 CRS, 3 no completion. -/
def Dev.replyStatus (d : Dev) (st : Nat) : Dev := { d with host := { d.host with cpl := ⟨[], st, false⟩ } }

end Sys2Proof.Machine
end

