-- ==== Sys2Proof/Machine/Moot.lean ====
section
/-! DEFINITION. The Moot (05_power): votes, dependencies and holds (R80-R82), the domain states they drive (R85, R88,
R97), and FIRC (R88). `moot` is the one operation that brings the domains in line with the holds. -/

namespace Sys2Proof.Machine

def Dev.domRec (d : Dev) (n : Nat) : Dom := mget (fun _ => Dom.off) d.pwr.doms n

def Dev.setDomRec (d : Dev) (n : Nat) (x : Dom) : Dev :=
  { d with pwr := { d.pwr with doms := mset (fun _ => Dom.off) d.pwr.doms n x } }

/-- The state whose clock domain n runs on: DROP_WAIT keeps the clock it came with (R85). -/
def Dev.clockState (d : Dev) (n : Nat) : Nat := if d.dom n = 6 then (d.domRec n).prev else d.dom n

/-- Client condition of R81: the regions of memory group g that are live with a powered client. At E1 and above a group
whose live banks are all LAYER or STAGE is released while the Couch has nothing to compose (R303). -/
def Dev.reeveHolds (d : Dev) (g : Nat) : Bool :=
  let live := d.reeve.items.filter fun it => it.banks.any fun b => b / 8 == g
  let cache (it : Item) : Bool := match it.kind with | .stage | .layer => true | _ => false
  let quiet := decide (1 ≤ d.rd TITHE.pg TITHE.ECON_STAT_LEVEL) && d.couch.pass.isNone && !d.couch.passReq && d.rects.isEmpty
  !(quiet && live.all cache) &&
    live.any fun it =>
      match it.kind with
      | .image _ _ | .aux => d.domOn 3 || d.domOn 4 || d.domOn 5
      | .demura p | .stress p => d.domOn (4 + p)
      | .stage | .layer => d.domOn 3

/-- Vote words of the hardware voters VOTE4-VOTE11 (i = 0-7): Scan A and B (R226), SST (13_genlock), Trim, Granary,
MTEST (R123), the Reeve (R81), the Crier. -/
def Dev.hwVote (d : Dev) (i : Nat) : Nat :=
  if i < 2 then
    let run := d.on SCAN.pg SCAN.CTL_RUN && (d.operates SCAN.pg || d.scan.run)
    let port := if i = 0 then d.on SCAN.pg SCAN.CTL_PORT_A else d.on SCAN.pg SCAN.CTL_PORT_B
    (if (run && d.scan.d3Vote) || mget (fun _ => false) d.scan.tblWrite i then 8 else 0) |||
      (if run && d.scan.portVote && port then 2 ^ (4 + i) else 0)
  else if i = 2 then if d.src = 0 then 0 else 2
  else if i = 4 then if d.nv.writers.isEmpty then 0 else 2
  else if i = 5 then
    if d.on BANKS.pg BANKS.SPARE_STAT_ACTIVE then 2 ^ (8 + d.rd BANKS.pg BANKS.SPARE_STAT_BANK / 8) else 0
  else if i = 6 then (List.range 8).foldl (fun v g => if d.reeveHolds g then v ||| 2 ^ (8 + g) else v) 0
  else d.rd MOOT.pg MOOT.VOTE_HW_DOMS (i := i)

/-- Store the hardware voters' words. -/
def Dev.putVotes (d : Dev) : Dev :=
  (List.range 8).foldl (fun d i => d.wr MOOT.pg MOOT.VOTE_HW_DOMS (d.hwVote i) (i := i)) d

/-- HOLD.VOTED: OR of all vote words, those of functions in D3hot or D3cold counting as zero (R73, R83, R98). -/
def Dev.voted (d : Dev) : Nat :=
  let fnv := (List.range 3).foldl
    (fun v f => if (d.fn f).dstate = 0 then v ||| d.rd MOOT.pg MOOT.VOTE_DOMS (i := f) else v) 0
  let hw := (List.range 8).foldl (fun v i => v ||| d.rd MOOT.pg MOOT.VOTE_HW_DOMS (i := i)) 0
  fnv ||| d.rd MOOT.pg MOOT.VOTE3_DOMS ||| hw

/-- Domain n is held by a dependency (R80). -/
def Dev.dep (d : Dev) (n : Nat) : Bool :=
  if n = 1 then (List.range 14).any (fun k => d.domOn (k + 2)) || bit (d.rd MOOT.pg MOOT.VOTE3_DOMS) 1
  else if n = 6 || n = 7 then d.domOn (n - 2) || mget (fun _ => false) d.pwr.bias (n - 6)
  else if 8 ≤ n then d.reeveHolds (n - 8)
  else false

/-- Domain n is held: a vote, a dependency or WAKE_HOLD (R82). -/
def Dev.hold (d : Dev) (n : Nat) : Bool :=
  n != 0 && (bit d.voted n || d.dep n || bit (d.rd MOOT.pg MOOT.WAKE_HOLD_DOMS) n)

/-- Start FIRC if it is stopped (R88). -/
def Dev.startFirc (d : Dev) : Dev :=
  if d.on CLOCK.pg CLOCK.OSC_STAT_FIRC_READY || d.pwr.fircStarting then d
  else { d with pwr := { d.pwr with fircStarting := true } }

/-- A domain's wake begins (R88): WAKING, attempt 1, FIRC started; D2 waking with PERST_N asserted drives WAKE_N low
(R87). -/
def Dev.startWake (d : Dev) (n : Nat) : Dev :=
  let d := ((d.setDomRec n ⟨false, false, 1, 0⟩).setDom n 1).startFirc
  if n = 2 && d.pwr.perst then { d with pwr := { d.pwr with wakeN := true } } else d

/-- One domain follows its hold (R85, R88, R97). A waking domain without a hold ends its wake first (log entry 20). D3 to D15
stay off until a verified image runs (R411). -/
def Dev.follow (d : Dev) (n : Nat) : Dev :=
  let st := d.dom n
  if d.halted then d
  else if d.hold n then
    if st = 0 then (if 3 ≤ n && d.rd MGMT.pg HDR.PG_STAT_STATE == 2 then d else d.startWake n)
    else if st = 6 then d.setDom n (d.domRec n).prev
    else d
  else
    if st = 3 || st = 4 || st = 5 then (d.setDomRec n { d.domRec n with prev := st }).setDom n 6
    else if st = 8 then d.setDom n 0
    else d

/-- A PLL that is enabled and has not locked is starting (R88, R89); in SR2 the port PLLs are off (R225). -/
def Dev.pllStarting (d : Dev) : Bool :=
  let sr2 := d.rd SCAN.pg SCAN.SR_STAT_STATE == 2 && !d.scan.exiting
  (d.on CLOCK.pg CLOCK.PLL_EN_CORE && !d.on CLOCK.pg CLOCK.OSC_STAT_CORE_LOCK) ||
  (d.on CLOCK.pg CLOCK.PLL_EN_MGMT && !d.on CLOCK.pg CLOCK.OSC_STAT_MGMT_LOCK) ||
  (!sr2 && d.on CLOCK.pg CLOCK.PLL_EN_PORTA && !d.on CLOCK.pg CLOCK.OSC_STAT_PORTA_LOCK) ||
  (!sr2 && d.on CLOCK.pg CLOCK.PLL_EN_PORTB && !d.on CLOCK.pg CLOCK.OSC_STAT_PORTB_LOCK)

/-- FIRC runs while a domain is ON_FIRC or waking, and while a PLL starts (R88). -/
def Dev.fircNeeded (d : Dev) : Bool :=
  (List.range 16).any (fun n => d.dom n == 3 || d.dom n == 1 || (d.dom n == 6 && (d.domRec n).prev == 3)) || d.pllStarting

/-- FIRC starts when it is needed and stops when it is not (R88); after a failure only a restart or a wake starts it, and a
restart runs to its end (R93). -/
def Dev.fircFollow (d : Dev) : Dev :=
  if d.fircNeeded then
    if d.on CLOCK.pg CLOCK.OSC_STAT_FIRC_FAILED then d else d.startFirc
  else if d.on CLOCK.pg CLOCK.OSC_STAT_FIRC_FAILED then d.wr CLOCK.pg CLOCK.OSC_STAT_FIRC_READY 0
  else { d.wr CLOCK.pg CLOCK.OSC_STAT_FIRC_READY 0 with pwr := { d.pwr with fircStarting := false } }

/-- One round: votes, then every domain in ascending order. -/
def Dev.mootRound (d : Dev) : Dev := (List.range 15).foldl (fun d k => d.follow (k + 1)) d.putVotes

/-- The domains come in line with their holds; a change of one may change another's dependency, so the rounds repeat
(D4 or D5 may hold D6 or D7, and any may hold D1). EV_DOMAIN_FAILED follows (R96). -/
def Dev.moot (d : Dev) : Dev :=
  let d := d.mootRound.mootRound.mootRound.fircFollow
  d.cond MOOT.pg 1 d.anyFailed

/-- What the Reeve holds has changed (R81, R303): its vote follows. -/
def Dev.reeveFollow (d : Dev) : Dev := d.onlyIf (d.rd MOOT.pg MOOT.VOTE_HW_DOMS (i := 6) != d.hwVote 6) (·.moot)

/-- Wake source n of WAKE_EN fires when it is enabled (R87). -/
def Dev.fireWake (d : Dev) (n : Nat) : Dev :=
  if bit (d.word MOOT.pg 0x088).toNat n then ((d.wakeMark n).raise MOOT.pg 0).moot else d

end Sys2Proof.Machine
end

