-- ==== Sys2Proof/Machine/Access.lean ====
section
/-! DEFINITION. Register access rules (R4-R9, R46-R50, R67): who may write a page, what a stored word changes by field
type, and `finish`, with which every command's meaning ends. -/

namespace Sys2Proof.Machine

/-- The outcome type of a meaning. -/
abbrev Out := Host.Outcome State Fault Refusal

/-- Condition events that stand on registers of D0, which a change of many kinds may move: page, bit and present condition
(R96, R93, R95, R369, R379, R390). -/
def Dev.standing (d : Dev) : List (Nat × Nat × Bool) :=
  [(MOOT.pg, 1, d.anyFailed), (CLOCK.pg, 0, d.on CLOCK.pg CLOCK.OSC_STAT_FIRC_FAILED),
   (CLOCK.pg, 2, !d.on CLOCK.pg CLOCK.OSC_STAT_XT32_OK), (GRANARY.pg, 4, d.on AOBB.pg AOBB.NV_INTR_VALID),
   (GRANARY.pg, 5, !d.on AOBB.pg AOBB.BB_STAT_VALID)]

/-- EV_RAW shows each of them (R381). -/
def Dev.settled (d : Dev) : Bool := d.standing.all fun e => bit (d.word e.1 0x00C).toNat e.2.1 == e.2.2

/-- EV_RAW follows them, in ascending order of event. -/
def Dev.showConds (d : Dev) : Dev :=
  let d := d.cond MOOT.pg 1 d.anyFailed
  let d := d.cond CLOCK.pg 0 (d.on CLOCK.pg CLOCK.OSC_STAT_FIRC_FAILED)
  let d := d.cond CLOCK.pg 2 (!d.on CLOCK.pg CLOCK.OSC_STAT_XT32_OK)
  let d := d.cond GRANARY.pg 4 (d.on AOBB.pg AOBB.NV_INTR_VALID)
  d.cond GRANARY.pg 5 (!d.on AOBB.pg AOBB.BB_STAT_VALID)

/-- The device from d0 to d, changed by one command: when WAKE_HOLD has changed (R387) or a standing condition does not show,
the conditions show and the Moot acts on the holds (R87). -/
def Dev.settle (d0 d : Dev) : Dev :=
  if d.rd MOOT.pg MOOT.WAKE_HOLD_DOMS = d0.rd MOOT.pg MOOT.WAKE_HOLD_DOMS && d.settled then d
  else ((d.showConds).moot).showConds

/-- Every command's meaning: change the device, leave the queue. -/
def finish (f : Dev → Dev) (s : State) : Out := .next { s with dev := Dev.settle s.dev (f s.dev) }

/-- May this requester write page pg (R67, R83)? -/
def Dev.mayWrite (d : Dev) (who : Req) (pg : Nat) : Bool :=
  match who with
  | .pf0 | .filpor => true
  | .pf1 => pg != HOSTIF.pg && pg != MOOT.pg &&
      bit (d.word HOSTIF.pg (if pg < 32 then 0x048 else 0x04C)).toNat (pg % 32)
  | .pf2 => pg != HOSTIF.pg && pg != MOOT.pg &&
      bit (d.word HOSTIF.pg (if pg < 32 then 0x050 else 0x054)).toNat (pg % 32)

/-- The registers of a defined page (R9): those with a field, and DOM_CFG0, which is wholly RO 0 (R83). Every other offset is
reserved: it reads zero, and a write to it is ignored and records nothing, whatever its shape and whoever makes it. -/
def regDefined (pg off : Nat) : Bool := pageDefined pg && (!(fieldsAt pg off).isEmpty || (pg == MOOT.pg && off == 0x0C0))

/-- A write without right: dropped, E_PRIV with FUNC on the page, and a PRIV violation (R50, R67, R78). -/
def Dev.privDrop (d : Dev) (a : Acc) (pg off : Nat) : Dev :=
  (d.err pg E.PRIV off a.who.code).violation 0x13 a.who.code a.hdr

/-- A write of register off of page pg by requester a: with the right it does f. -/
def Dev.guarded (d : Dev) (a : Acc) (pg off : Nat) (f : Dev → Dev) : Dev :=
  if !regDefined pg off then d else if d.mayWrite a.who pg then f d else d.privDrop a pg off

/-! ### Host requests (R71, R73) -/

/-- No earlier host request still waits to be performed (R71). -/
def Dev.hostFree (d : Dev) : Bool := d.host.later.isEmpty && d.bank.waiting.isEmpty && d.nv.held.isEmpty

/-- The BARs of function f answer: it is in D0 (R73) with Memory Space Enable set (R63; log entry 59). -/
def Dev.answers (d : Dev) (f : Nat) : Bool := (d.fn f).dstate == 0 && (d.fn f).mse

/-- AER and Device Status of a function take in an error with the header of its TLP (R78; log entry 59): its status bit, and unless
it is masked the first one's header log. adv: a non-fatal one is advisory, and shows as a correctable error too. -/
def Fn.aerTake (x : Fn) (e : AerErr) (hdr : List Word) (adv : Bool) : Fn :=
  let fatal := bit x.aerSev e.bit
  let first := x.firstErr.isNone && !bit x.aerMask e.bit
  { x with
    aer := x.aer ||| 2 ^ e.bit
    status := if e == .poisoned then x.status ||| 2 ^ 15 else x.status
    devStatus := x.devStatus ||| (if fatal then 4 else if adv then 1 else 2) ||| (if e == .unsupported then 8 else 0)
    corStatus := if adv && !fatal then x.corStatus ||| 2 ^ 13 else x.corStatus
    firstErr := if first then some e.bit else x.firstErr
    hdrLog := if first && e != .timeout then hdr.take 4 else x.hdrLog }

/-- The class of the message that an error sends, where Device Control and the masks let one go: 0 correctable, 1 non-fatal,
2 fatal. -/
def Fn.aerMsg (x : Fn) (e : AerErr) (adv : Bool) : Option Nat :=
  if bit x.aerMask e.bit then none
  else if bit x.aerSev e.bit then (if x.reportFatal then some 2 else none)
  else if adv then (if x.reportCor && !bit x.corMask 13 then some 0 else none)
  else if x.reportNonFatal then some 1 else none

/-- Function f meets an AER error (R78). -/
def Dev.aerFn (d : Dev) (f : Nat) (e : AerErr) (hdr : List Word := []) (adv : Bool := false) : Dev :=
  let x := d.fn f
  let d := d.setFn f (x.aerTake e hdr adv)
  match x.aerMsg e adv with
  | some c => { d with host := { d.host with errMsg := some (f, c) } }
  | none => d

/-- Report an AER error on the function that a request matched, on every function when none did (R78; log entry 59). -/
def Dev.aer (d : Dev) (who : Req) (e : AerErr) (hdr : List Word := []) (adv : Bool := false) : Dev :=
  if who.code < 3 then d.aerFn who.code e hdr adv else [0, 1, 2].foldl (fun d f => d.aerFn f e hdr adv) d

/-- Command c of requester who is performed now: Filpor's, or one of an answering function with no earlier request waiting. -/
def Dev.takes (d : Dev) (who : Req) : Bool :=
  who == .filpor || d.host.serving || (!d.halted && !d.inL1 && d.hostFree && d.answers who.code)

/-- A host request c with TLP header hdr (R71, R73): with D2 off (R33, R45) it does not arrive; it comes over a link that has left L1
(R68); a function that does not answer completes it as an Unsupported Request (posted: with no completion); behind a request that
waits it waits in its turn; else it does f. Filpor's accesses are no host requests; one that has waited was accepted when it arrived
(R79). -/
def Dev.hostDo (d : Dev) (c : Instr) (who : Req) (hdr : List Word) (posted : Bool) (f : Dev → Dev) : Dev :=
  if who == .filpor || d.host.serving then f d
  else if d.halted then d
  else
    let d := d.leaveL1
    if !d.answers who.code then (d.aer who .unsupported hdr (!posted)).onlyIf (!posted) (·.replyStatus 1)
    else if !d.hostFree then { d with host := { d.host with later := d.host.later ++ [c] } }
    else f d

/-- The oldest request that waits behind another may be performed: that other has ended (R71). -/
def Dev.servable (d : Dev) : Bool := d.bank.waiting.isEmpty && d.nv.held.isEmpty && !d.halted

/-- The device while a request that has waited is performed, and afterwards, with the requests cs still behind it. -/
def Dev.serveOn (d : Dev) : Dev := { d with host := { d.host with later := [], serving := true } }
def Dev.serveOff (d : Dev) (cs : List Instr) : Dev := { d with host := { d.host with later := cs, serving := false } }

/-- The meaning of a host request: its posted write, or its read. -/
def hostWrite (c : Instr) (a : Acc) (f : Dev → Dev) (s : State) : Out := finish (fun d => d.hostDo c a.who a.hdr true f) s
def hostRead (c : Instr) (a : Acc) (f : Dev → Dev) (s : State) : Out := finish (fun d => d.hostDo c a.who a.hdr false f) s

/-- The requester of a BAR access by function f. -/
def Req.ofFn (f : Fin 3) : Req := if f = 0 then .pf0 else if f = 1 then .pf1 else .pf2

/-- Bits of RW, RWS and W1C fields that a plain write of a register does not change because a command of their own
does (the table's rows): EV_PEND, ROUTEe, the vote words, WAKE_HOLD, DOM_SRC, BANK_CFG.OWNER, SR_CTL.REQ, FAULT_RD and
VIOL_RD; and read-only exceptions within RW fields: ENABLE of a system page (R62). -/
def ownRow (pg off : Nat) : Word :=
  if off == 0x014 then 0xFFFFFFFF
  else if off == 0x004 && isSystem pg then 1
  else if pg == 0x04 && 0x400 ≤ off then 0xFFFFFFFF
  else if pg == 0x01 && (off == 0x040 || off == 0x044 || off == 0x048 || off == 0x084) then 0xFFFFFFFF
  else if pg == 0x02 && off == 0x048 then 0xFFFFFFFF
  else if pg == 0x07 && 0x100 ≤ off && off < 0x200 then 0xF
  else if pg == 0x18 && off == 0x048 then 0x3
  else if pg == 0x26 && (off == 0x05C || off == 0x064) then 0xFFFFFFFF
  else 0

/-- Counters that the block itself counts on: under PG_CTL.FREEZE the register stands still and the count goes on (R49). -/
def liveCount (pg off : Nat) : Word :=
  if pg == SCAN.pg && off == 0x050 then 0xFFFFFFFF
  else if pg == SYNC.pg && off == 0x08C then typeMask [.ro] pg off
  else if pg == RECTQ.pg && off == 0x05C then 0xFFFFFFFF
  else if pg == GRANARY.pg && off == 0x060 then 0xFFFF0000
  else if pg == BANKS.pg && 0x200 ≤ off && off < 0x300 then 0xFF00
  else if pg == TRIM.pg && off == 0x064 then 0xFFFFFFFF
  else if pg == FAULT.pg && (off == 0x074 || off == 0x078) then 0xFFFFFFFF
  else 0

/-- Where the registers of `liveCount` stand in a page. -/
def liveOffs (pg : Nat) : List Nat :=
  [0x050, 0x05C, 0x060, 0x064, 0x074, 0x078, 0x08C] ++ (if pg = BANKS.pg then (List.range 64).map fun b => 0x200 + 4 * b else [])

/-- The bits of a register that a plain write stores in the active file, in the shadow, or clears. -/
def rwBits (pg off : Nat) : Word := typeMask [.rw] pg off &&& ~~~(ownRow pg off)
def rwsBits (pg off : Nat) : Word := typeMask [.rws] pg off
def w1cBits (pg off : Nat) : Word := typeMask [.w1c] pg off &&& ~~~(ownRow pg off)

/-- The pending value of a register: shadow bits of RWS fields, active bits elsewhere (R6). -/
def Dev.shWord (d : Dev) (pg off : Nat) : Word :=
  mux (rwsBits pg off) (d.sh.word (rkey pg off)) (d.word pg off)

/-- Store a written word by field type (R4): RW bits take effect at once, RWS bits go to the shadow, W1C bits written
as 1 clear, the rest is ignored (R8). -/
def Dev.store (d : Dev) (pg off : Nat) (x : Word) : Dev :=
  let k := rkey pg off
  { d with
    regs := d.regs.put k (mux (rwBits pg off) x (d.regs.word k) &&& ~~~(x &&& w1cBits pg off))
    sh := d.sh.put k (mux (rwsBits pg off) x (d.sh.word k)) }

/-- Store only the RW fields of a register that an action command carries in its word. -/
def Dev.storeRw (d : Dev) (pg off : Nat) (x : Word) : Dev :=
  d.putWord pg off (mux (rwBits pg off) x (d.word pg off))

/-- A field of a word that a command carries. -/
def Fld.of (f : Fld) (x : Word) : Nat := getBits x f.lo f.w

/-- A long operation's STAT page reads BUSY until OUTCOME is written (R60). -/
def Dev.busy (d : Dev) (pg : Nat) (b : Bool) : Dev := d.wr pg HDR.PG_STAT_BUSY (b2n b)

def Dev.grp (d : Dev) (g : Nat) : GroupSt := mget (fun _ => GroupSt.idle) d.groups g

def Dev.setGrp (d : Dev) (g : Nat) (x : GroupSt) : Dev :=
  { d with groups := mset (fun _ => GroupSt.idle) d.groups g x }

/-- The number of a commit group (R52). -/
def Group.num : Group → Nat
  | .compose => 0 | .scan => 1 | .portA => 2 | .portB => 3

/-- Pages of commit group g. -/
def groupPages (g : Nat) : List Nat :=
  (List.range 0x28).filter fun pg => (pageGroup pg).map Group.num == some g

/-- Group g's copy of its pages laid over a view: the RWS bits (R53). -/
def captureView (g : Nat) (v c : Regs) : Regs :=
  ((c.map (·.1) ++ v.map (·.1)).filter fun k => (pageGroup (k / 0x1000)).map Group.num == some g).foldl
    (fun r k => r.put k (mux (rwsBits (k / 0x1000) (k % 0x1000)) (c.word k) (r.word k))) v

/-- What the active values become with the pending captures, group g's copy taken from `copy` (R53). -/
def Dev.viewWith (d : Dev) (g : Nat) (copy : Regs) : Regs :=
  captureView g ([0, 1, 2, 3].foldl (fun v h =>
    match (d.grp h).pend with
    | some c => if h = g then v else captureView h v c.copy
    | none => v) d.regs) copy

/-- The enabled ports of the active mode (R233). -/
def Dev.portOn (d : Dev) (p : Nat) : Bool :=
  if p = 0 then d.on SCAN.pg SCAN.CTL_PORT_A else d.on SCAN.pg SCAN.CTL_PORT_B

def Dev.portR (d : Dev) (p : Nat) : PortR := mget (fun _ => PortR.reset) d.scan.ports p

def Dev.setPortR (d : Dev) (p : Nat) (x : PortR) : Dev :=
  { d with scan := { d.scan with ports := mset (fun _ => PortR.reset) d.scan.ports p x } }

/-- PORT_STAT_x.STATE (R217): 0 STOPPED, 1 FOLLOWING, 2 RESTART, 3 REJOIN, 4 MODE_DARK, 5 HELD, 6 REFUSED. -/
def Dev.portState (d : Dev) (p : Nat) : Nat := d.rd SCAN.pg SCAN.PORT_STAT_STATE (i := p)

def Dev.setPortState (d : Dev) (p st : Nat) : Dev := d.wr SCAN.pg SCAN.PORT_STAT_STATE st (i := p)

/-- Drive EMIT_x. -/
def Dev.emit (d : Dev) (p : Nat) (b : Bool) : Dev := d.setPortR p { d.portR p with emit := b }

/-- Dark (R217): every port state but FOLLOWING. -/
def Dev.dark (d : Dev) (p : Nat) : Bool := d.portState p != 1

end Sys2Proof.Machine
end

