-- ==== Sys2Proof/Machine/Mem.lean ====
section
/-! DEFINITION. Bank memory (06_memory_banks): bytes and words by DA (R108), ownership (R114-R116), poison (R110, R111),
and the granule hash that maps an item offset to a DA (R138). -/

namespace Sys2Proof.Machine

/-- What an unlisted byte of bank memory reads as: 0, since a bank is zero-filled before it is READY (R121). -/
def memDefault (_ : Nat) : Byte := 0

/-- The memory is in canonical form: addresses rising, no entry equal to what an unlisted address reads as. -/
def memWf (m : List Host.Cell) : Bool := canon memDefault m

def Dev.byte (d : Dev) (da : Nat) : Byte := mget memDefault d.bank.mem da

def Dev.putByte (d : Dev) (da : Nat) (b : Byte) : Dev :=
  { d with bank := { d.bank with mem := mset memDefault d.bank.mem da b } }

/-- A write of a byte by a client: a line already copied to a spare takes it too (R123). -/
def Dev.writeByte (d : Dev) (da : Nat) (b : Byte) : Dev :=
  let d := d.putByte da b
  { d with bank := { d.bank with spareKept := d.bank.spareKept.map fun e =>
    if e.1 = da / 8 then (e.1, e.2.zipIdx.map fun x => if x.2 = da % 8 then b else x.1) else e } }

/-- len bytes from da. -/
def Dev.bytes (d : Dev) (da len : Nat) : List Byte := (List.range len).map fun i => d.byte (da + i)

/-- Write bytes from da upward. -/
def Dev.putBytes (d : Dev) (da : Nat) : List Byte → Dev
  | [] => d
  | b :: l => (d.putByte da b).putBytes (da + 1) l

/-- Write the bytes whose byte enable is set. -/
def Dev.putSome (d : Dev) (da : Nat) : List (Option Byte) → Dev
  | [] => d
  | none :: l => d.putSome (da + 1) l
  | some b :: l => (d.writeByte da b).putSome (da + 1) l

/-- Read w little-endian bytes as a number. -/
def Dev.memNat (d : Dev) (da w : Nat) : Nat := ofLeBytes (d.bytes da w)

/-! ### Ownership -/

-- Owner and requester codes (R114).
namespace Own
abbrev FREE : Nat := 0
abbrev COUCH : Nat := 4
abbrev SCAN : Nat := 5
abbrev CAL_A : Nat := 6
abbrev AGING : Nat := 8
abbrev MTEST : Nat := 9
abbrev GRANARY : Nat := 10
abbrev MGMT : Nat := 11
abbrev TITHE : Nat := 12
abbrev SCRUB : Nat := 13
abbrev SPARE_COPY : Nat := 14
end Own

/-- The owner code of a requester of register accesses (R114). -/
def Own.of : Req → Nat
  | .filpor => Own.MGMT
  | who => who.code + 1

def Dev.owner (d : Dev) (b : Nat) : Nat := d.rd BANKS.pg BANKS.BANK_CFG_OWNER (i := b)
def Dev.region (d : Dev) (b : Nat) : Nat := d.rd BANKS.pg BANKS.BANK_CFG_REGION (i := b)
def Dev.bankState (d : Dev) (b : Nat) : Nat := d.rd BANKS.pg BANKS.BANK_STAT_STATE (i := b)
def Dev.setBankState (d : Dev) (b st : Nat) : Dev := d.wr BANKS.pg BANKS.BANK_STAT_STATE st (i := b)
def Dev.bankRec (d : Dev) (b : Nat) : Bank := mget (fun _ => Bank.reset) d.bank.banks b
def Dev.setBankRec (d : Dev) (b : Nat) (x : Bank) : Dev :=
  { d with bank := { d.bank with banks := mset (fun _ => Bank.reset) d.bank.banks b x } }
def Dev.handover (d : Dev) (b : Nat) : Bool := d.on BANKS.pg BANKS.BANK_STAT_HANDOVER (i := b)

/-- Is an access by requester code r to bank b an owner access (R115)? Host reads also with HOST_RD. During a handover
drain nobody's new access is (R117). -/
def Dev.ownerAccess (d : Dev) (r b : Nat) (write : Bool) : Bool :=
  let o := d.owner b
  let reg := d.region b
  if r = Own.SCRUB || r = Own.SPARE_COPY || r = Own.MTEST then true
  else if !write && 1 ≤ r && r ≤ 3 && bit (d.rd BANKS.pg BANKS.BANK_CFG_HOST_RD (i := b)) (r - 1) then true
  else if d.handover b then false
  else if r = o && o != 0 then true
  else if o = Own.SCAN && reg = 1 then r == Own.COUCH || (!write && (r == 6 || r == 7))
  else if o = Own.COUCH then reg == 3 && !write && (r == 6 || r == 7 || r == Own.TITHE)
  else if o = Own.AGING then !write && (r == 6 || r == 7 || r == Own.GRANARY)
  else if 1 ≤ o && o ≤ 3 then !write && r == Own.COUCH
  else false

/-- A non-owner access (R116): EV_NOT_OWNER and NO_LOG; a host access also logs a violation and E_NOT_OWNER. -/
def Dev.notOwner (d : Dev) (r da : Nat) (write host : Bool) (hdr : List Word) : Dev :=
  let d := d.putWord BANKS.pg 0x058 (BitVec.ofNat 32 (da % 2 ^ 30 + 2 ^ 31))
  let d := d.putWord BANKS.pg 0x05C (BitVec.ofNat 32 (r + b2n write * 32))
  if host then (d.err BANKS.pg E.NOT_OWNER (0x100 + 4 * bankOf da) (r - 1)).violation 0x14 (r - 1) hdr
  else d.raise BANKS.pg 1

/-! ### Poison -/

/-- An item keeps a bank that is DEAD or whose group is FAILED (R142). -/
def Dev.keptFailed (d : Dev) (b : Nat) : Bool :=
  (d.bankState b == 8 || d.dom (8 + b / 8) == 8) && d.reeve.items.any fun it => it.banks.contains b

/-- The word reads uncorrectable: poisoned or met so (R110, R111), or in a failed bank that an item keeps (R142). -/
def Dev.isBad (d : Dev) (word : Nat) : Bool := d.bank.bad.contains word || d.keptFailed (word / 2 ^ 21)

/-- Mark a word uncorrectable (or poisoned). -/
def Dev.spoil (d : Dev) (word : Nat) : Dev :=
  if d.isBad word then d else { d with bank := { d.bank with bad := d.bank.bad ++ [word] } }

/-- A full 64-bit write of a word clears its poison; until it is next read, a word that was uncorrectable has just been rewritten
(R111). -/
def Dev.cleanse (d : Dev) (word : Nat) : Dev :=
  if d.bank.bad.contains word then
    { d with bank := { d.bank with
      bad := d.bank.bad.filter (· != word), fresh := d.bank.fresh ++ [word], spareKept := d.bank.spareKept.filter fun e => e.1 != word } }
  else d

/-- The 64-bit words a byte range touches. -/
def wordsOf (da len : Nat) : List Nat := if len = 0 then [] else (List.range ((da + len - 1) / 8 - da / 8 + 1)).map (da / 8 + ·)

/-- UE_LOG and EV_ECC_UNCORR for an uncorrectable word met by requester r, and UE_CNT of a read (R110, R113). -/
def Dev.ueMark (d : Dev) (r da : Nat) (write : Bool) : Dev :=
  let d := d.putWord BANKS.pg 0x050 (BitVec.ofNat 32 (da % 2 ^ 30 + 2 ^ 31))
  let d := d.putWord BANKS.pg 0x054 (BitVec.ofNat 32 (r + b2n write * 32))
  (if write then d else d.count BANKS.pg BANKS.UE_CNT_COUNT).raise BANKS.pg 0

/-- The same, and the UE_OTHER record of a word met outside the scan (R401); the spec leaves its STATE open between
recovered and not. -/
def Dev.ueLog (d : Dev) (r da : Nat) (write : Bool) : Dev :=
  let q := (d.ueMark r da write).takeBool
  q.2.fault { cls := 0x02, state := if q.1 then 0 else 2, detail := r, loc := da }

/-! ### The granule hash (R138) -/

/-- DA of item offset off of an item with banks b and seed s. -/
def hashDA (b : List Nat) (s : Word) (off : Nat) : Nat :=
  let g := off / 4096
  let n := b.length
  let r := g / n
  let c := g % n
  let k := (c + crc32c (leBytes 4 (r ^^^ s.toNat))) % n
  b.getD k 0 * 2 ^ 24 + r * 4096 + off % 4096

def Dev.item (d : Dev) (k : ItemKind) : Option Item := d.reeve.items.find? fun it => it.kind == k

/-- Every bank of an item can be accessed. -/
def Dev.itemUp (d : Dev) (k : ItemKind) : Bool :=
  match d.item k with
  | some it => it.banks.all fun b => decide (5 ≤ d.bankState b)
  | none => true

/-- The seed a row of the item is read with: a row already moved by a migration uses the new seed (R140). -/
def Dev.seedOf (d : Dev) (k : ItemKind) (row : Nat) : Word :=
  let base : Word × Nat := match k with
    | .layer => (d.word REEVE.pg 0x078, 4)
    | .stage => (d.word REEVE.pg 0x07C, 5)
    | .aux => (d.word REEVE.pg 0x080, 3)
    | _ => (0, 0)
  match d.reeve.mig with
  | some m => if base.2 != 0 && m.region == base.2 && row < d.rd REEVE.pg REEVE.MIG_STAT_ROWS_DONE then m.seed else base.1
  | none => base.1

/-- DA of an offset of a placed item (0 when it is not placed). -/
def Dev.itemDA (d : Dev) (k : ItemKind) (off : Nat) : Nat :=
  match d.item k with
  | some it => hashDA it.banks (d.seedOf k (off / 4096 / it.banks.length)) off
  | none => 0

/-- Bytes of a placed item. -/
def Dev.itemBytes (d : Dev) (k : ItemKind) (off len : Nat) : List Byte :=
  if (d.item k).isNone then List.replicate len 0 else (List.range len).map fun i => d.byte (d.itemDA k (off + i))

def Dev.itemNat (d : Dev) (k : ItemKind) (off w : Nat) : Nat := ofLeBytes (d.itemBytes k off w)

/-- Write bytes of a placed item, each where its offset maps to. -/
def Dev.putItemBytes (d : Dev) (k : ItemKind) (off : Nat) : List Byte → Dev
  | [] => d
  | b :: l => (d.writeByte (d.itemDA k off) b).putItemBytes k (off + 1) l

/-- The requester that writes an item: its owner (R115). -/
def itemWriter : ItemKind → Nat
  | .demura p => Own.CAL_A + p
  | .stress _ => Own.AGING
  | _ => Own.COUCH

/-- Write bytes of an item, clearing the poison of the 64-bit words written in full; a narrow write to an uncorrectable word meets it and
leaves it poisoned (R110, R111). An item that is not placed has nowhere to take them. -/
def Dev.putItem (d : Dev) (k : ItemKind) (off : Nat) (l : List Byte) : Dev :=
  if (d.item k).isNone then d
  else
    let ws := wordsOf off l.length
    let isFull (w : Nat) : Bool := decide (off ≤ 8 * w) && decide (8 * w + 8 ≤ off + l.length)
    let met := ((ws.filter fun w => !isFull w).map fun w => d.itemDA k (8 * w) / 8).filter d.isBad
    let d := met.foldl (fun d w => d.ueLog (itemWriter k) (8 * w) true) d
    (ws.filter isFull).foldl (fun d w => d.cleanse (d.itemDA k (8 * w) / 8)) (d.putItemBytes k off l)

/-- AUX bytes: one bank, so item offsets are bank offsets (R180). -/
def Dev.auxNat (d : Dev) (off w : Nat) : Nat := d.itemNat .aux off w
def Dev.putAux (d : Dev) (off w x : Nat) : Dev := d.putItem .aux off (leBytes w x)

/-- A 64-bit word of an item that reads uncorrectable. -/
def Dev.itemBad (d : Dev) (k : ItemKind) (off len : Nat) : Bool :=
  (wordsOf off len).any fun w => d.isBad (d.itemDA k (8 * w) / 8)

end Sys2Proof.Machine
end

