-- ==== Sys2Proof/Machine/Modes.lean ====
section
/-! DEFINITION. The mode table and the raster times it gives (R212-R215). Times are in ps. -/

namespace Sys2Proof.Machine

/-- W, H and V_BLK of a resolution code (R212). -/
def resOf (c : Nat) : Option (Nat × Nat × Nat) :=
  match c with
  | 1 => some (3840, 2160, 40)
  | 2 => some (4096, 2160, 40)
  | 3 => some (5120, 2880, 52)
  | 5 => some (7680, 4320, 80)
  | 6 => some (8192, 4320, 80)
  | _ => none

/-- Frame rate of a rate code, Hz (R212). -/
def rateOf (c : Nat) : Option Rat :=
  match c with
  | 0x01 => some (24000 / 1001) | 0x02 => some 24 | 0x03 => some 25 | 0x04 => some (30000 / 1001)
  | 0x05 => some 30 | 0x06 => some (48000 / 1001) | 0x07 => some 48 | 0x08 => some 50
  | 0x09 => some (60000 / 1001) | 0x0A => some 60 | 0x0B => some 72 | 0x0C => some 96
  | 0x0D => some 100 | 0x0E => some (120000 / 1001) | 0x0F => some 120 | 0x10 => some 144
  | 0x11 => some 200 | 0x12 => some (240000 / 1001) | 0x13 => some 240
  | _ => none

structure Mode where
  res : Nat
  w : Nat
  h : Nat
  vb : Nat
  rate : Rat
  s : Nat
  part : Bool
  deriving DecidableEq, Repr

/-- The mode that MODE_SEL names in a set of values, if its codes are defined. -/
def modeOf (v : Regs) : Option Mode :=
  match resOf (v.fld SCAN.pg SCAN.MODE_SEL_RES), rateOf (v.fld SCAN.pg SCAN.MODE_SEL_RATE) with
  | some (w, h, vb), some r =>
    some ⟨v.fld SCAN.pg SCAN.MODE_SEL_RES, w, h, vb, r, v.fld SCAN.pg SCAN.MODE_SEL_SLOTS + 1, v.fld SCAN.pg SCAN.MODE_SEL_PARTIAL == 1⟩
  | _, _ => none

/-- The mode of reset, for a MODE_SEL that names none (no check accepts one). -/
def Mode.base : Mode := ⟨1, 3840, 2160, 40, 60, 1, false⟩

/-- The active mode. -/
def Dev.mode (d : Dev) : Mode := (modeOf d.regs).getD Mode.base

def Mode.tFrame (m : Mode) : Rat := 1000000000000 / m.rate
def Mode.tSlot (m : Mode) : Rat := m.tFrame / m.s
def Mode.tLine (m : Mode) : Rat := m.tSlot / ((m.h + m.vb : Nat) : Rat)
def Mode.tLineNs (m : Mode) : Nat := (rne (m.tLine / 1000)).toNat

/-- Scan pixel rate, px/s (R213). -/
def Mode.pixRate (m : Mode) : Rat := ((m.w + 128) * (m.h + m.vb) * m.s : Nat) * m.rate

/-- Banks per image and per map (R130). -/
def Mode.imgBanks (m : Mode) : Nat := ceilDiv (m.w * m.h * 9) (2 * 2 ^ 24)
def Mode.mapBanks (m : Mode) : Nat := ceilDiv (m.w * m.h * 4) (2 ^ 24)

/-- LINE_TIME and PIXRATE follow the active mode (R233). -/
def Dev.publishMode (d : Dev) : Dev :=
  let m := d.mode
  (d.wr SCAN.pg SCAN.LINE_TIME_PS (rne m.tLine).toNat).wr SCAN.pg SCAN.PIXRATE_MPX (m.pixRate / 1000000).floor.toNat

/-- Image k of slot s, buffer b (R171): k = 2s + b in FULL mode, s in PARTIAL. -/
def Mode.images (m : Mode) : Nat := if m.part then m.s else 2 * m.s
def Mode.slotOfImg (m : Mode) (k : Nat) : Nat := if m.part then k else k / 2
def Mode.bufOfImg (m : Mode) (k : Nat) : Nat := if m.part then 0 else k % 2
def Mode.imgKind (m : Mode) (k : Nat) : ItemKind := .image (m.slotOfImg k) (m.bufOfImg k)

/-- Bytes of a line (R167). -/
def Mode.lineBytes (m : Mode) : Nat := m.w * 9 / 2

/-- Offset of pixel pair k of line y in an image (R167). -/
def Mode.pairOff (m : Mode) (k y : Nat) : Nat := y * m.lineBytes + 9 * k

/-- Pixel (x, y) of image k as stored. -/
def Dev.imgPx (d : Dev) (k x y : Nat) : Nat :=
  let pair := d.itemNat (d.mode.imgKind k) (d.mode.pairOff (x / 2) y) 9
  if x % 2 = 0 then pair % 2 ^ 36 else pair / 2 ^ 36

/-- The running slot, and the image that slot s of the reference shows (8 or more: none). -/
def Dev.slotNo (d : Dev) : Nat := d.rd SCAN.pg SCAN.POS_SLOT_NO
def Dev.shown (d : Dev) (s : Nat) : Nat := d.rd COUCH.pg COUCH.SHOWN_IMG (j := s)
def Dev.imgOfSlot (d : Dev) (s : Nat) : Nat := if d.mode.part then s else d.shown s
def Dev.scanImage (d : Dev) : Nat := d.imgOfSlot d.slotNo

/-- The Calender of port p. -/
def Dev.calSt (d : Dev) (p : Nat) : CalSt := mget (fun _ => CalSt.reset) d.cal p
def Dev.setCal (d : Dev) (p : Nat) (x : CalSt) : Dev := { d with cal := mset (fun _ => CalSt.reset) d.cal p x }

end Sys2Proof.Machine
end

