-- ==== Sys2Proof/Machine/Reals.lean ====
section
/-! DEFINITION. The formulas of the spec that are not rational (powers, logarithms, the PQ and HLG curves, sinc),
computed on a grid of 2^-256 (log entry 6), and the CF24 format (R164, R165). -/

namespace Sys2Proof.Machine

/-- To the grid of 2^-256. -/
def grid (x : Rat) : Rat := mkRat ((x * (2 ^ 256 : Nat)).floor) (2 ^ 256)

/-- 2^k for an integer k. -/
def two (k : Int) : Rat := if 0 ≤ k then ((2 ^ k.toNat : Nat) : Rat) else mkRat 1 (2 ^ (-k).toNat)

/-- Σ z^(2i+1)/(2i+1), i below n, from term i on: the artanh series. -/
def atanhSum (z2 : Rat) : Nat → Nat → Rat → Rat
  | 0, _, _ => 0
  | n + 1, i, p => grid (p / ((2 * i + 1 : Nat) : Rat)) + atanhSum z2 n (i + 1) (grid (p * z2))

/-- ln m for m near 1. -/
def lnNear (m : Rat) : Rat := let z := grid ((m - 1) / (m + 1)); 2 * atanhSum (grid (z * z)) 90 0 z

def ln2 : Rat := lnNear 2

/-- The k with x / 2^k in [2/3, 4/3], searched from the size of numerator and denominator. -/
def lnScale (x : Rat) : Int :=
  let k : Int := (Nat.log2 x.num.toNat : Int) - Nat.log2 x.den
  let m := x / two k
  if m < 2 / 3 then k - 1 else if 4 / 3 < m then k + 1 else k

/-- Natural logarithm of a positive number. -/
def lnR (x : Rat) : Rat := let k := lnScale x; lnNear (x / two k) + k * ln2

def expSum (x : Rat) : Nat → Nat → Rat → Rat
  | 0, _, _ => 0
  | n + 1, i, p => p + expSum x n (i + 1) (grid (p * x / ((i + 1 : Nat) : Rat)))

def expR (x : Rat) : Rat := let k := rne (x / ln2); expSum (grid (x - k * ln2)) 70 0 1 * two k

/-- The largest number of b bits whose q-th power is a at most. -/
def rootBits (q a : Nat) : Nat → Nat → Nat
  | 0, r => r
  | b + 1, r => rootBits q a b (if (r + 2 ^ b) ^ q ≤ a then r + 2 ^ b else r)

/-- The q-th root of a, where a is a q-th power. -/
def exactRoot (q a : Nat) : Option Nat :=
  if a ≤ 1 then some a
  else if Nat.log2 a < q then none
  else let r := rootBits q a (Nat.log2 a / q + 1) 0; if r ^ q = a then some r else none

/-- x^y where it is rational, x > 0. -/
def exactPow (x y : Rat) : Option Rat :=
  match exactRoot y.den x.num.toNat, exactRoot y.den x.den with
  | some n, some m => some (if 0 ≤ y.num then mkRat (n ^ y.num.toNat : Nat) (m ^ y.num.toNat) else mkRat (m ^ (-y.num).toNat : Nat) (n ^ (-y.num).toNat))
  | _, _ => none

/-- x^y for x ≥ 0: exact where it is rational. -/
def rpow (x y : Rat) : Rat :=
  if x = 0 then 0 else if x = 1 then 1 else match exactPow x y with | some r => r | none => expR (grid (y * lnR x))

def log10R (x : Rat) : Rat := if x = 1 then 0 else lnR x / lnR 10

def log2R (x : Rat) : Rat := if x = 1 then 0 else lnR x / ln2

def atanSum (z2 : Rat) : Nat → Nat → Rat → Rat
  | 0, _, _ => 0
  | n + 1, i, p => (if i % 2 = 0 then 1 else -1) * grid (p / ((2 * i + 1 : Nat) : Rat)) + atanSum z2 n (i + 1) (grid (p * z2))

/-- π by Machin's formula. -/
def piR : Rat := 16 * atanSum (1 / 25) 120 0 (1 / 5) - 4 * atanSum (1 / 57121) 60 0 (1 / 239)

def sinSum (x2 : Rat) : Nat → Nat → Rat → Rat
  | 0, _, _ => 0
  | n + 1, i, p => p + sinSum x2 n (i + 1) (-(grid (p * x2 / ((((2 * i + 2) * (2 * i + 3)) : Nat) : Rat))))

/-- sin(π t), t reduced to [-1, 1]. -/
def sinPi (t : Rat) : Rat := let r := t - 2 * rne (t / 2); let x := grid (piR * r); sinSum (grid (x * x)) 70 0 x

/-- sinc(x) = sin(π x) / (π x), sinc(0) = 1 (R158). -/
def sinc (x : Rat) : Rat := if x = 0 then 1 else grid (sinPi x / (piR * x))

/-! ### CF24 (R164, R165) -/

/-- The value of a CF24 code. -/
def cfVal (c : Nat) : Rat :=
  let e : Nat := c / 2 ^ 18
  let m : Nat := c % 2 ^ 18
  if e = 0 then mkRat (m : Nat) (2 ^ 64) else ((2 ^ 18 + m : Nat) : Rat) * two ((e : Int) - 65)

/-- The exponent code of a positive value: the largest e with 2^(e − 47) ≤ x, 0 when there is none. -/
def cfExp (x : Rat) : Nat :=
  ((List.range 64).filter fun (e : Nat) => e != 0 && decide (two ((e : Int) - 47) ≤ x)).foldl max 0

/-- Rounded to CF24: negative to 0, nearest with ties to even m, above the largest code to the largest (R165). -/
def cf24 (x : Rat) : Nat :=
  if x ≤ 0 then 0 else
  let e := cfExp x
  let q := (rne (x / two (((max e 1 : Nat) : Int) - 65))).toNat
  min 0xFFFFFF (if e = 0 then q else e * 2 ^ 18 + (q - 2 ^ 18))

/-! ### PQ (SMPTE ST 2084), normalised to 1.0 = 10,000 cd/m² -/

def pqC1 : Rat := 107 / 128
def pqC2 : Rat := 2413 / 128
def pqC3 : Rat := 2392 / 128
def pqM1 : Rat := 1305 / 8192
def pqM2 : Rat := 2523 / 32

/-- EOTF of a signal in [0, 1]. -/
def pqEotf (v : Rat) : Rat :=
  let p := rpow v (1 / pqM2)
  rpow ((if p < pqC1 then 0 else p - pqC1) / (pqC2 - pqC3 * p)) (1 / pqM1)

/-- PQinv of a normalised luminance (R166). -/
def pqInv (y : Rat) : Rat := let p := rpow y pqM1; rpow ((pqC1 + pqC2 * p) / (1 + pqC3 * p)) pqM2

/-- FS36 code of a composed CF24 value (R166). -/
def fsCode (y : Nat) : Nat := let v := cfVal y; (rne (4095 * pqInv (if 1 < v then 1 else v))).toNat

/-- CF24 value of an FS36 code (R166). -/
def fsDecode (c : Nat) : Nat := cf24 (pqEotf (mkRat c 4095))

end Sys2Proof.Machine
end

