-- ==== Sys2Proof/Machine/Pixel.lean ====
section
/-! DEFINITION. From a source pixel to a composed pixel: unpacking and addresses (R146-R148, R421), decode into linear
light (R153-R155), the video scaler (R156-R159), the blend (R168-R170), and the statistics of an image (R177-R179).
`v` is the set of G_COMPOSE values a compose uses; a layer is named by its index (R135). -/

namespace Sys2Proof.Machine

/-- A field of layer m's mould page in a set of values. -/
def lf (v : Regs) (m : Nat) (f : Fld) : Nat := v.fld (MOULD.pg m) f

/-- Bytes per pixel (R146). -/
def bpp (fmt : Nat) : Nat := if fmt < 3 then 2 else if fmt = 3 then 3 else 4

/-- Bits and lowest bit of A, R, G, B in a pixel word (R146); width 0: no such component. -/
def fmtBits (fmt : Nat) : List (Nat × Nat) :=
  match fmt with
  | 0 => [(0, 0), (5, 11), (6, 5), (5, 0)]
  | 1 => [(1, 15), (5, 10), (5, 5), (5, 0)]
  | 2 => [(4, 12), (4, 8), (4, 4), (4, 0)]
  | 3 => [(0, 0), (8, 16), (8, 8), (8, 0)]
  | 4 => [(8, 24), (8, 16), (8, 8), (8, 0)]
  | 5 => [(0, 0), (8, 16), (8, 8), (8, 0)]
  | 6 => [(2, 30), (10, 20), (10, 10), (10, 0)]
  | _ => [(0, 0), (10, 20), (10, 10), (10, 0)]

/-- Bit replication of a c-bit component to 10 bits (R153); no component reads 1,023. -/
def expand10 (c x : Nat) : Nat :=
  match c with
  | 0 => 1023
  | 1 => if x = 0 then 0 else 1023
  | 2 => (x <<< 8) ||| (x <<< 6) ||| (x <<< 4) ||| (x <<< 2) ||| x
  | 4 => (x <<< 6) ||| (x <<< 2) ||| (x >>> 2)
  | 5 => (x <<< 5) ||| x
  | 6 => (x <<< 4) ||| (x >>> 2)
  | 8 => (x <<< 2) ||| (x >>> 6)
  | _ => x

/-- Source address of layer m: HA or DA. -/
def srcBase (v : Regs) (m : Nat) : Nat := lf v m MOULD.SRC_ADDR_LO_ADDR + 2 ^ 32 * lf v m MOULD.SRC_ADDR_HI_ADDR

/-- Address of surface pixel (x, y) (R147). -/
def srcAddr (v : Regs) (m x y : Nat) : Nat :=
  let b := bpp (lf v m MOULD.SRC_FMT_FORMAT)
  let p := lf v m MOULD.SRC_PITCH_PITCH
  if lf v m MOULD.SRC_FMT_TILED = 0 then srcBase v m + y * p + x * b
  else srcBase v m + y / 32 * p + x * b / 128 * 4096 + y % 32 * 128 + x * b % 128

/-- Lowest and one past the highest byte of the source extent (R421). -/
def srcExtent (v : Regs) (m : Nat) : Nat × Nat :=
  let x := lf v m MOULD.SRC_XY_X
  let y := lf v m MOULD.SRC_XY_Y
  let x1 := x + lf v m MOULD.SRC_WH_W - 1
  let y1 := y + lf v m MOULD.SRC_WH_H - 1
  let b := bpp (lf v m MOULD.SRC_FMT_FORMAT)
  let p := lf v m MOULD.SRC_PITCH_PITCH
  if lf v m MOULD.SRC_FMT_TILED = 0 then
    let lo := (List.range (y1 - y + 1)).foldl (fun a i => min a (srcAddr v m x (y + i))) (srcAddr v m x y)
    let hi := (List.range (y1 - y + 1)).foldl (fun a i => max a (srcAddr v m x1 (y + i) + b)) 0
    (lo, hi)
  else (srcBase v m + y / 32 * p + x * b / 128 * 4096,
        srcBase v m + y1 / 32 * p + (x1 * b + b - 1) / 128 * 4096 + 4096)

/-- Extent along the output axes after orientation (R148). -/
def orientWH (v : Regs) (m : Nat) : Nat × Nat :=
  if lf v m MOULD.LAYER_CTL_ROT % 2 = 1 then (lf v m MOULD.SRC_WH_H, lf v m MOULD.SRC_WH_W)
  else (lf v m MOULD.SRC_WH_W, lf v m MOULD.SRC_WH_H)

/-- Crop coordinates of oriented pixel (u, w): the mirror is applied first, then the clockwise rotation (R148). -/
def orient (v : Regs) (m u w : Nat) : Nat × Nat :=
  let sw := lf v m MOULD.SRC_WH_W
  let sh := lf v m MOULD.SRC_WH_H
  let q : Nat × Nat := match lf v m MOULD.LAYER_CTL_ROT with
    | 0 => (u, w)
    | 1 => (w, sh - 1 - u)
    | 2 => (sw - 1 - u, sh - 1 - w)
    | _ => (sw - 1 - w, u)
  (if lf v m MOULD.LAYER_CTL_MIRROR = 1 then sw - 1 - q.1 else q.1, q.2)

/-! ### Decode (R153-R155) -/

/-- Luminance over 10,000 of a 10-bit code for sRGB, BT.1886, PQ and linear (R154). -/
def decodeTF (tf white c10 : Nat) : Rat :=
  let x : Rat := mkRat c10 1023
  let w : Rat := mkRat white 10000
  match tf with
  | 0 => w * (if x ≤ 4045 / 100000 then x / (1292 / 100) else rpow ((x + 55 / 1000) / (1055 / 1000)) (12 / 5))
  | 1 => w * rpow x (12 / 5)
  | 2 => pqEotf x
  | _ => w * x

/-- Inverse OETF of HLG (ITU-R BT.2100) of a signal. -/
def hlgE (x : Rat) : Rat :=
  let a : Rat := 17883277 / 100000000
  let b : Rat := 1 - 4 * a
  let c : Rat := 1 / 2 - a * lnR (4 * a)
  if x ≤ 1 / 2 then x * x / 3 else (expR (grid ((x - c) / a)) + b) / 12

/-- The three decoded channels of a pixel, CF24 (R154). -/
def decode3 (v : Regs) (m : Nat) (r g b : Nat) : List Nat :=
  let tf := lf v m MOULD.SRC_FMT_TF
  if tf = 3 then
    let lw : Rat := lf v m MOULD.LEVELS_HLG_PEAK
    let e := [r, g, b].map fun (c : Nat) => cf24 (hlgE (mkRat c 1023))
    let ys : Rat := 2627 / 10000 * cfVal (e.getD 0 0) + 6780 / 10000 * cfVal (e.getD 1 0) + 593 / 10000 * cfVal (e.getD 2 0)
    if ys = 0 then [0, 0, 0]
    else
      let gamma : Rat := 12 / 10 + 42 / 100 * log10R (lw / 1000)
      let k := cf24 (lw * rpow ys (gamma - 1) / 10000)
      e.map fun x => cf24 (cfVal k * cfVal x)
  else [r, g, b].map fun c => cf24 (decodeTF tf (lf v m MOULD.LEVELS_WHITE_NITS) c)

/-- Rows of the primary conversion matrix to BT.2020, in 1/65,536 (R155). -/
def primM (prim : Nat) : List (List Int) :=
  match prim with
  | 0 => [[41118, 21580, 2838], [4528, 60263, 745], [1074, 5768, 58694]]
  | 1 => [[49403, 13015, 3118], [2998, 61720, 818], [-79, 1154, 64461]]
  | _ => []

def toBt2020 (prim : Nat) (c : List Nat) : List Nat :=
  if prim ≥ 2 then c
  else (primM prim).map fun row =>
    cf24 ((((row.zip c).map fun e => (e.1 : Rat) * cfVal e.2).foldl (· + ·) 0) / 65536)

/-- A delivered pixel: colour (three CF24 values) and α_s as a value. -/
structure Px where
  c : List Nat
  a : Rat
  deriving DecidableEq, Repr

/-- The decoded and converted source pixel at oriented position (u, w), read through `rdb`. -/
def srcPixel (v : Regs) (m : Nat) (rdb : Nat → Byte) (u w : Nat) : Px :=
  let q := orient v m u w
  let fmt := lf v m MOULD.SRC_FMT_FORMAT
  let ad := srcAddr v m (lf v m MOULD.SRC_XY_X + q.1) (lf v m MOULD.SRC_XY_Y + q.2)
  let word := ofLeBytes ((List.range (bpp fmt)).map fun i => rdb (ad + i))
  let comp := (fmtBits fmt).map fun e => expand10 e.1 (word / 2 ^ e.2 % 2 ^ e.1)
  ⟨toBt2020 (lf v m MOULD.SRC_FMT_PRIM) (decode3 v m (comp.getD 1 0) (comp.getD 2 0) (comp.getD 3 0)),
   mkRat (comp.getD 0 0) 1023⟩

/-! ### The scaler (R156-R158) -/

/-- Is layer m a video layer? -/
def isVideo (m : Nat) : Bool := m < 4

/-- Output size of a layer (R168). -/
def dstWH (v : Regs) (m : Nat) : Nat × Nat :=
  if isVideo m then (lf v m MOULD.DST_WH_W, lf v m MOULD.DST_WH_H) else orientWH v m

/-- Decimation factor for output size dst, source size ws0 and the DECIM code (R156). -/
def decimD (code dst ws0 : Nat) : Nat :=
  match code with
  | 1 => 1
  | 2 => 2
  | 3 => 4
  | _ => if ws0 ≤ 2 * dst then 1 else if ws0 ≤ 4 * dst then 2 else 4

def decimH (v : Regs) (m : Nat) : Nat := if isVideo m then decimD (lf v m MOULD.SCALE_CTL_DECIM_H) (dstWH v m).1 (orientWH v m).1 else 1
def decimV (v : Regs) (m : Nat) : Nat := if isVideo m then decimD (lf v m MOULD.SCALE_CTL_DECIM_V) (dstWH v m).2 (orientWH v m).2 else 1

/-- Decimated extents (R156). -/
def decimWH (v : Regs) (m : Nat) : Nat × Nat :=
  (ceilDiv (orientWH v m).1 (decimH v m), ceilDiv (orientWH v m).2 (decimV v m))

def sumRat (l : List Rat) : Rat := l.foldl (· + ·) 0

/-- Mean of a group of pixels, each channel and α_s rounded once to CF24 (R156). -/
def meanPx (l : List Px) : Px :=
  ⟨(List.range 3).map fun i => cf24 (sumRat (l.map fun p => cfVal (p.c.getD i 0)) / l.length),
   cfVal (cf24 (sumRat (l.map (·.a)) / l.length))⟩

/-- Decimated pixel (k, l): horizontally, then vertically. -/
def decimPx (v : Regs) (m : Nat) (rdb : Nat → Byte) (k l : Nat) : Px :=
  let dh := decimH v m
  let dv := decimV v m
  let wh := orientWH v m
  meanPx ((List.range (min (l * dv + dv) wh.2 - l * dv)).map fun j =>
    meanPx ((List.range (min (k * dh + dh) wh.1 - k * dh)).map fun i => srcPixel v m rdb (k * dh + i) (l * dv + j)))

/-- First source index and phase of output index j (R157); ws the decimated source extent, dst the output extent. -/
def scalePos (ws dst j : Nat) : Int × Nat :=
  let step : Int := (2 ^ 24 * ws / dst : Nat)
  let u := (2 * (j : Int) + 1) * step - 2 ^ 24
  let i := u / 2 ^ 25
  let f := u - i * 2 ^ 25
  let ph := (f + 2 ^ 18) / 2 ^ 19
  if ph = 64 then (i + 1, 0) else (i, ph.toNat)

/-- Built-in coefficients of phase p with n taps (8 horizontally, 6 vertically) at scale rc (R158). -/
def lanczos (n p : Nat) (rc : Rat) : List Int :=
  let half := n / 2
  let w := (List.range n).map fun (t : Nat) =>
    let x : Rat := ((t : Int) - (half - 1 : Nat) : Int) - mkRat p 64
    grid (rc * sinc (rc * x) * sinc (x / half))
  let s := sumRat w
  let c := w.map fun x => rne (1024 * x / s)
  let near := if p ≤ 32 then half - 1 else half
  c.set near (c.getD near 0 + (1024 - c.foldl (· + ·) 0))

/-- Tap t of phase p: programmed (COEF_PROG) or built in (R149, R158). -/
def coefs (v : Regs) (m : Nat) (horiz : Bool) (p : Nat) : List Int :=
  if lf v m MOULD.SCALE_CTL_COEF_PROG = 1 then
    (List.range (if horiz then 8 else 6)).map fun t =>
      let off := if horiz then 0x400 + 4 * (4 * p + t / 2) else 0x800 + 4 * (3 * p + t / 2)
      sext 12 (getBits (v.word (rkey (MOULD.pg m) off)) (16 * (t % 2)) 12)
  else
    let wh := orientWH v m
    let r := if horiz then mkRat ((dstWH v m).1 * decimH v m : Nat) wh.1 else mkRat ((dstWH v m).2 * decimV v m : Nat) wh.2
    lanczos (if horiz then 8 else 6) p (if r < 1 then r else 1)

def clampN (x : Int) (hi : Nat) : Nat := if x < 0 then 0 else min x.toNat hi

/-- A filtered pixel with A10: the horizontal filter on decimated pixels, then the vertical one, one rounding (R157). -/
def scaledPx (v : Regs) (m : Nat) (rdb : Nat → Byte) (j l : Nat) : List Nat × Nat :=
  let ws := decimWH v m
  let dst := dstWH v m
  let hx := scalePos ws.1 dst.1 j
  let vx := scalePos ws.2 dst.2 l
  let hc := coefs v m true hx.2
  let vc := coefs v m false vx.2
  let rows := (List.range 6).map fun (t : Nat) =>
    let y := clampN (vx.1 - 2 + t) (ws.2 - 1)
    (List.range 8).map fun (s : Nat) => decimPx v m rdb (clampN (hx.1 - 3 + s) (ws.1 - 1)) y
  let tap (f : Px → Rat) : Rat :=
    sumRat ((rows.zip vc).map fun r => (r.2 : Rat) / 1024 * sumRat ((r.1.zip hc).map fun e => (e.2 : Rat) / 1024 * f e.1))
  ((List.range 3).map fun i => cf24 (tap fun p => cfVal (p.c.getD i 0)), (rne (1023 * clampR (tap (·.a)) 0 1)).toNat)

/-- Colour and A10 that layer m delivers at its own output position (j, l). -/
def layerPx (v : Regs) (m : Nat) (rdb : Nat → Byte) (j l : Nat) : List Nat × Nat :=
  if isVideo m then scaledPx v m rdb j l
  else let p := srcPixel v m rdb j l; (p.c, (rne (1023 * p.a)).toNat)

/-! ### Coverage, order, blend (R168-R170) -/

/-- Does layer m cover output pixel (x, y), and at which position of its own? -/
def covers (v : Regs) (m x y : Nat) : Option (Nat × Nat) :=
  let px := (x : Int) - sext 16 (lf v m MOULD.DST_XY_X)
  let py := (y : Int) - sext 16 (lf v m MOULD.DST_XY_Y)
  let wh := dstWH v m
  if 0 ≤ px ∧ px < wh.1 ∧ 0 ≤ py ∧ py < wh.2 then some (px.toNat, py.toNat) else none

/-- LAYER_SLOTS: does layer m contribute to slot s (R168)? -/
def inSlot (v : Regs) (m s : Nat) : Bool :=
  bit (if m < 8 then v.fld COUCH.pg COUCH.LAYER_SLOTS_LO (j := m) else v.fld COUCH.pg COUCH.LAYER_SLOTS_HI (j := m - 8)) s

/-- Insert layer m into blending order: ascending Z, and among equal Z the higher index first (R169). -/
def zInsert (v : Regs) (m : Nat) : List Nat → List Nat
  | [] => [m]
  | n :: l => if lf v m MOULD.LAYER_CTL_Z < lf v n MOULD.LAYER_CTL_Z ||
      (lf v m MOULD.LAYER_CTL_Z == lf v n MOULD.LAYER_CTL_Z && n < m) then m :: n :: l else n :: zInsert v m l

def zOrder (v : Regs) (ms : List Nat) : List Nat := ms.foldl (fun l m => zInsert v m l) []

/-- One layer over D (R170). -/
def blend (premult : Bool) (alpha : Nat) (c : List Nat) (a10 : Nat) (bg : List Nat) : List Nat :=
  let a16 := (rne (mkRat (65536 * a10 * alpha : Nat) (1023 * 255))).toNat
  (c.zip bg).map fun e =>
    let s := if premult then cfVal e.1 else cfVal (cf24 (cfVal e.1 * mkRat a10 1023))
    cf24 (s * mkRat alpha 255 + cfVal e.2 * mkRat (65536 - a16) 65536)

/-- The composed FS36 pixel (x, y): layers `ls` in blending order, each with its values (its own, or the held source's)
and its bytes (R170, R166). -/
def composePx (bg : List Nat) (ls : List (Nat × Regs × (Nat → Byte))) (x y : Nat) : Nat :=
  let d := ls.foldl (fun d e =>
    match covers e.2.1 e.1 x y with
    | some q =>
      let p := layerPx e.2.1 e.1 e.2.2 q.1 q.2
      blend (lf e.2.1 e.1 MOULD.LAYER_CTL_PREMULT == 1) (lf e.2.1 e.1 MOULD.LAYER_CTL_ALPHA) p.1 p.2 d
    | none => d) bg
  fsCode (d.getD 0 0) * 2 ^ 24 + fsCode (d.getD 1 0) * 2 ^ 12 + fsCode (d.getD 2 0)

/-- Channels of an FS36 value: R, G, B. -/
def fsCh (x : Nat) : List Nat := [x / 2 ^ 24 % 4096, x / 2 ^ 12 % 4096, x % 4096]

/-- The 9 bytes of a pixel pair (R167). -/
def fsPair (p q : Nat) : List Byte := leBytes 9 (p + q * 2 ^ 36)

/-! ### Statistics (R177-R179) -/

/-- Luminance Y of an FS36 pixel, CF24 (R177). -/
def lumY (px : Nat) : Nat :=
  let c := (fsCh px).map fun k => cfVal (fsDecode k)
  cf24 (2627 / 10000 * c.getD 0 0 + 6780 / 10000 * c.getD 1 0 + 593 / 10000 * c.getD 2 0)

def histBin (px : Nat) : Nat := min 1023 ((1024 * pqInv (cfVal (lumY px))).floor).toNat
def subBin (px : Nat) : Nat := min 7 ((8 * pqInv (cfVal (lumY px))).floor).toNat

/-- The eight words of a tile record from the tile's pixels (R178). -/
def tileRecord (pxs : List Nat) : List Nat :=
  let s (i : Nat) := (rne (2 ^ 19 * sumRat (pxs.map fun p => cfVal (fsDecode ((fsCh p).getD i 0))))).toNat
  let sub (b : Nat) := (pxs.filter fun p => subBin p == b).length
  [s 0, s 1, s 2, pxs.length + 2 ^ 16 * (pxs.foldl (fun a p => (fsCh p).foldl max a) 0)] ++
    (List.range 4).map fun i => sub (2 * i) + 2 ^ 16 * sub (2 * i + 1)

/-- Content CRC of a tile from its pixels in order (R179). -/
def tileCrc (pxs : List Nat) : Nat := crc32c (pxs.flatMap fun p => leBytes 5 p)

end Sys2Proof.Machine
end

