-- ==== Sys2Proof/Machine/Reeve.lean ====
section
/-! DEFINITION. The Reeve (07_placement): region sizes (R130), the placement run (R131), layers to moulds (R135, R159),
layer caching (R136, R137) and the numbers its page shows (R143). -/

namespace Sys2Proof.Machine

/-! ### Sizes (R130) -/

/-- A map item counts (R130): demura while the port's CAL page is enabled and DEMURA_EN is set, stress while the CAL
page is enabled and AGING tracks the port. `maps`: the enables and TRACK; DEMURA_EN is the view's. -/
def mapCounts (v : Regs) (maps : Nat) (stress : Bool) (p : Nat) : Bool :=
  bit maps p && (if stress then bit maps (2 + p) else v.fld (CAL.pg p) CAL.CTL_DEMURA_EN == 1)

/-- ENABLE of CAL_x and TRACK_x as they stand, which the next commit check counts (R132). -/
def Dev.mapsNow (d : Dev) : Nat :=
  b2n (d.on (CAL.pg 0) HDR.PG_CTL_ENABLE) + 2 * b2n (d.on (CAL.pg 1) HDR.PG_CTL_ENABLE) +
    4 * b2n (d.on AGING.pg AGING.CTL_TRACK_A) + 8 * b2n (d.on AGING.pg AGING.CTL_TRACK_B)

/-- The items of a configuration with their bank counts, in placement order (R130, R131); LAYER apart. -/
def wanted (v : Regs) (maps : Nat) (m : Mode) : List (ItemKind × Nat) :=
  ((List.range m.images).map fun k => (m.imgKind k, m.imgBanks)) ++
  ([(0, false), (0, true), (1, false), (1, true)].filterMap fun e =>
    if mapCounts v maps e.2 e.1 then some (if e.2 then ItemKind.stress e.1 else ItemKind.demura e.1, m.mapBanks) else none) ++
  [(.aux, 1)] ++ (if m.part then [(.stage, m.imgBanks)] else [])

def sumNat (l : List Nat) : Nat := l.foldl (· + ·) 0

/-- Banks needed without LAYER, and banks available (R131 step 1, R133). -/
def needed (v : Regs) (maps : Nat) (m : Mode) : Nat := sumNat ((wanted v maps m).map (·.2))

/-- A LAYER bank that a claim takes at the next FLE counts as claimed (R134). -/
def Dev.claimDue (d : Dev) (b : Nat) : Bool := d.bank.claim.any fun c => c.waitFle && c.bank == b
def Dev.bankFree (d : Dev) (b : Nat) : Bool := d.bankState b != 8 && d.region b != 6 && !d.claimDue b
def Dev.avail (d : Dev) : List Nat := (List.range 64).filter d.bankFree

/-! ### Layers to moulds (R135) -/

/-- A layer is composed when EN and, at the frame's FLE, ENABLE are 1 (R149): v holds both as the compose takes them. -/
def layerOn (v : Regs) (m : Nat) : Bool := lf v m MOULD.LAYER_CTL_EN == 1 && v.fld (MOULD.pg m) HDR.PG_CTL_ENABLE == 1

/-- Decimated source span of output columns lo..hi (R159). -/
def halfSpan (v : Regs) (m lo hi : Nat) : Nat :=
  let ws := (decimWH v m).1
  let dst := (dstWH v m).1
  let a := clampN ((scalePos ws dst lo).1 - 3) (ws - 1)
  let b := clampN ((scalePos ws dst hi).1 + 4) (ws - 1)
  b - a + 1

def needsSplit (v : Regs) (m : Nat) : Bool := isVideo m && decide (8192 < (decimWH v m).1)

/-- Both halves fit the line buffer (R159). -/
def halvesFit (v : Regs) (m : Nat) : Bool :=
  let dst := (dstWH v m).1
  let mid := ceilDiv dst 2
  decide (halfSpan v m 0 (mid - 1) ≤ 8192) && decide (mid ≥ dst || halfSpan v m mid (dst - 1) ≤ 8192)

/-- A binding: physical mould, layer, and whether it carries the right half. -/
abbrev Bind := List (Nat × Nat × Bool)

def freeMould (b : Bind) (oos : Nat) (r : List Nat) : Option Nat :=
  (r.filter fun m => !bit oos m && !(b.any fun e => e.1 == m)).head?

/-- A split layer on moulds k and n: the left half lies on the lower-numbered one (R135). -/
def bindSplit (m k n : Nat) : Bind := [(min k n, m, false), (max k n, m, true)]

/-- The binding of layers `on` with moulds `oos` out of service, and the layers that step 2 cannot serve (R135, R159). -/
def bindLayers (v : Regs) (on : List Nat) (oos : Nat) : Bind × List Nat :=
  let b1 : Bind := (on.filter fun m => !bit oos m).map fun m => (m, m, false)
  let s2 := (on.filter fun m => !bit oos m && needsSplit v m).foldl
    (fun (acc : Bind × List Nat) m =>
      match freeMould acc.1 oos [0, 1, 2, 3] with
      | some k => ((acc.1.filter fun e => e.2.1 != m) ++ bindSplit m m k, acc.2)
      | none => (acc.1, acc.2 ++ [m])) (b1, [])
  let b3 := (on.filter fun m => bit oos m).foldl
    (fun (b : Bind) m =>
      if needsSplit v m then
        match freeMould b oos [0, 1, 2, 3] with
        | some k =>
          match freeMould (b ++ [(k, m, false)]) oos [0, 1, 2, 3] with
          | some n => b ++ bindSplit m k n
          | none => b
        | none => b
      else
        match freeMould b oos (if isVideo m then [0, 1, 2, 3] else [4, 5, 6, 7, 8, 9, 10, 11]) with
        | some k => b ++ [(k, m, false)]
        | none =>
          if isVideo m then b
          else match freeMould b oos [0, 1, 2, 3] with
            | some k => b ++ [(k, m, false)]
            | none => b) s2.1
  (b3, s2.2)

/-- The layers among `on` whose line-buffer length cannot be served (R135, R159): halves that do not fit, or no mould for one. -/
def overflowing (v : Regs) (on : List Nat) (oos : Nat) : List Nat :=
  let short := (bindLayers v on oos).2
  on.filter fun m => needsSplit v m && (!halvesFit v m || short.contains m)

def Dev.oos (d : Dev) : Nat := d.rd REEVE.pg REEVE.OUT_OF_SERVICE_MOULDS

/-- A layer is bound: a mould carries it, and when it is split, a mould carries its right half too (R135). -/
def boundIn (v : Regs) (b : Bind) (m : Nat) : Bool :=
  b.any (fun e => e.2.1 == m && !e.2.2) && (!needsSplit v m || b.any fun e => e.2.1 == m && e.2.2)

/-- The binding of the active G_COMPOSE values, with OUT_OF_SERVICE as the last FLE took it in; a mould out of service since
carries nothing (R135). -/
def Dev.binding (d : Dev) (v : Regs) : Bind :=
  ((bindLayers v ((List.range 12).filter fun m => layerOn v m) d.reeve.oos).1).filter fun e => !bit d.oos e.1

/-- BIND, BIND_HI and SPLIT show the binding in force (R135); EV_MOULD_REBIND when a mould that has gone out of service changes
it. -/
def Dev.rebind (d : Dev) : Dev :=
  let on := (List.range 12).filter fun m => layerOn d.regs m
  let moved := (bindLayers d.regs on d.reeve.oos).1 != (bindLayers d.regs on (d.reeve.oos ||| d.oos)).1
  let d := { d with reeve := { d.reeve with oos := d.oos } }
  let b := d.binding d.regs
  let lay (k : Nat) : Nat := match b.find? fun e => e.1 == k with | some e => e.2.1 | none => 15
  let lo := (List.range 8).foldl (fun x k => x + lay k * 16 ^ k) 0
  let hi := (List.range 4).foldl (fun x k => x + lay (8 + k) * 16 ^ k) 0
  let sp := (List.range 4).foldl (fun x k => if b.any (fun e => e.1 == k && e.2.2) then x + 2 ^ k else x) 0
  let d := ((d.putWord REEVE.pg 0x058 (BitVec.ofNat 32 lo)).putWord REEVE.pg 0x05C (BitVec.ofNat 32 hi)).wr REEVE.pg REEVE.SPLIT_RIGHT sp
  let d := on.foldl (fun d m => if boundIn d.regs b m then d else d.wr (MOULD.pg m) HDR.PG_STAT_STATE 3)
    ((List.range 12).foldl (fun d m => if d.rd (MOULD.pg m) HDR.PG_STAT_STATE = 3 then d.wr (MOULD.pg m) HDR.PG_STAT_STATE 0 else d) d)
  d.onlyIf moved (·.raise REEVE.pg 3)

/-! ### Layer caching (R136) -/

/-- The source fields of a layer (R150). -/
def srcFields (v : Regs) (m : Nat) : List Word :=
  (v.word (rkey (MOULD.pg m) 0x040) &&& 0xE) ::
    ([0x044, 0x048, 0x04C, 0x050, 0x054, 0x058, 0x064].map fun o => v.word (rkey (MOULD.pg m) o))

/-- Link bytes a compose of the layer fetches: its extent. -/
def srcBytes (v : Regs) (m : Nat) : Nat := let e := srcExtent v m; e.2 - e.1

/-- Cache candidates (R136): layer and link bytes, largest first, ties to the lower index. -/
def Dev.candidates (d : Dev) (v : Regs) : List (Nat × Nat) :=
  let c := (List.range 12).filter fun m =>
    layerOn v m && d.on REEVE.pg REEVE.CTL_CACHE_EN && !bit (d.rd REEVE.pg REEVE.CACHE_NEVER_LAYERS) m &&
      lf v m MOULD.LAYER_CTL_SRC_LOC == 0 &&
      (let s := mget (fun _ => (([] : List Word), 0)) d.reeve.srcSeen m
       s.1 == srcFields v m && decide (d.rd REEVE.pg REEVE.CACHE_TUNE_AFTER ≤ s.2))
  let rec ins (e : Nat × Nat) : List (Nat × Nat) → List (Nat × Nat)
    | [] => [e]
    | f :: l => if f.2 < e.2 then e :: f :: l else f :: ins e l
  c.foldl (fun l m => ins (m, srcBytes v m) l) []

def granules (n : Nat) : Nat := ceilDiv n 4096 * 4096

/-- First fit of the candidates' granule-aligned extents from offset 0, beside those kept, for as long as LAYER can grow to maxBytes.
DESIGN CHOICE: after a candidate that no longer fits, a later and smaller one that does is still given its extent (log entry 66). -/
def fitCaches (v : Regs) (keep : List CacheExt) (c : List (Nat × Nat)) (maxBytes : Nat) : List CacheExt :=
  c.foldl (fun l e =>
    if l.any (fun x => x.layer == e.1) then l
    else
      let len := granules e.2
      let starts := 0 :: l.map fun x => x.off + x.len
      let ok := starts.filter fun o => decide (o + len ≤ maxBytes) && l.all fun x => decide (o + len ≤ x.off ∨ x.off + x.len ≤ o)
      match ok.foldl (fun (a : Option Nat) o => match a with | some b => some (min b o) | none => some o) none with
      | some o => l ++ [⟨e.1, o, len, srcFields v e.1, false⟩]
      | none => l) keep

/-! ### The placement run (R131) -/

/-- One item: kept, or the lowest-numbered available banks not kept or already taken. -/
def placeItem (avail taken : List Nat) (n : Nat) : List Nat := (avail.filter fun b => !taken.contains b).take n

def regionCode : ItemKind → Nat
  | .image _ _ => 1 | .demura _ => 2 | .stress _ => 2 | .aux => 3 | .layer => 4 | .stage => 5

def ownerCode : ItemKind → Nat
  | .image _ _ => Own.SCAN | .demura p => Own.CAL_A + p | .stress _ => Own.AGING | _ => Own.COUCH

/-- BANK_CFG.REGION and OWNER follow the items (R129); banks of none return to FREE. DESIGN CHOICE: a DEAD bank that an item keeps (R142)
shows the item's REGION and OWNER, and is counted in REGIONS1.DEAD alone (log entry 66). -/
def Dev.publishItems (d : Dev) : Dev :=
  let d := (List.range 64).foldl (fun d b =>
    if d.region b = 6 then d
    else match d.reeve.items.find? fun it => it.banks.contains b with
      | some it => (d.wr BANKS.pg BANKS.BANK_CFG_REGION (regionCode it.kind) (i := b)).wr BANKS.pg BANKS.BANK_CFG_OWNER (ownerCode it.kind) (i := b)
      | none => if d.region b = 0 then d
          else (d.wr BANKS.pg BANKS.BANK_CFG_REGION 0 (i := b)).wr BANKS.pg BANKS.BANK_CFG_OWNER 0 (i := b)) d
  let cnt (r : Nat) := ((List.range 64).filter fun b => d.region b == r && d.bankState b != 8).length
  let dead := ((List.range 64).filter fun b => d.bankState b == 8).length
  let d := d.putWord REEVE.pg 0x04C (BitVec.ofNat 32 (cnt 1 + cnt 2 * 2 ^ 8 + cnt 3 * 2 ^ 16 + cnt 5 * 2 ^ 24))
  let d := d.putWord REEVE.pg 0x050 (BitVec.ofNat 32 (cnt 4 + cnt 0 * 2 ^ 8 + cnt 6 * 2 ^ 16 + dead * 2 ^ 24))
  match d.item .aux with
  | some it => d.wr COUCH.pg COUCH.STATS_BANK_BANK (it.banks.getD 0 0)
  | none => d

/-- Items placed afresh by a run, for the fills of R253 and R281. -/
def freshItems (old new : List Item) : List ItemKind := (new.filter fun it => !old.contains it).map (·.kind)

/-- REEVE.PG_STAT.STATE (R143): degraded as long as EV_PLACE_DEGRADED holds, else migrating or idle. -/
def Dev.reeveState (d : Dev) : Dev :=
  d.wr REEVE.pg HDR.PG_STAT_STATE (if d.reeve.degraded then 3 else if d.reeve.mig.isSome then 2 else 0)

/-- The placement run: kept items, LAYER among them, keep their banks, the others take the lowest-numbered free ones in order,
LAYER takes what its caches ask for of the rest, at most (R130), and banks left over become FREE; a run with every item whole ends degraded
operation (R131, R142). DESIGN CHOICE: with too few banks left (R144), the items placed last get fewer than their count (log entry 66). -/
def Dev.place (d : Dev) : Dev :=
  let m := d.mode
  let want := wanted d.regs d.reeve.maps m
  let av := d.avail
  let room := (av.length - needed d.regs d.reeve.maps m) * 2 ^ 24
  let keepOf (k : ItemKind) (n : Nat) : Option Item :=
    d.reeve.items.find? fun it => it.kind == k && it.banks.length == n && it.banks.all d.bankFree
  let cand := d.candidates d.regs
  let live := d.reeve.caches.filter fun c =>
    cand.any (fun e => e.1 == c.layer) && c.src == srcFields d.regs c.layer && decide (c.off + c.len ≤ room)
  let caches := fitCaches d.regs live cand room
  let n := ceilDiv (caches.foldl (fun a c => max a (c.off + c.len)) 0) (2 ^ 24)
  let kept := (want ++ [(ItemKind.layer, n)]).filterMap fun e => keepOf e.1 e.2
  let items := want.foldl (fun (l : List Item) e =>
    match keepOf e.1 e.2 with
    | some it => l ++ [it]
    | none => l ++ [⟨e.1, placeItem av ((kept.flatMap (·.banks)) ++ l.flatMap (·.banks)) e.2⟩]) []
  let layer := match keepOf .layer n with
    | some it => it.banks
    | none => placeItem av (items.flatMap (·.banks)) n
  let oldLayer := ((d.item .layer).map (·.banks)).getD []
  let caches := if layer == oldLayer then caches else caches.map fun c => { c with filled := false }
  let items := if n = 0 then items else items ++ [⟨.layer, layer⟩]
  let whole := (want ++ [(ItemKind.layer, n)]).all fun e =>
    e.2 = 0 || items.any fun it => it.kind == e.1 && it.banks.length == e.2 && it.banks.all fun b => d.bankFree b && d.dom (8 + b / 8) != 8
  let d := { d with reeve := { d.reeve with
    items := items, caches := caches, degraded := d.reeve.degraded && !whole,
    noCompose := if whole then [] else d.reeve.noCompose } }
  let idle := av.filter fun b => d.region b == 0 && d.owner b != Own.MTEST && !d.handover b && !(items.flatMap (·.banks)).contains b
  let d := (idle.foldl (fun d b => d.wr BANKS.pg BANKS.BANK_CFG_OWNER 0 (i := b)) d).publishItems
  (d.cond REEVE.pg 4 d.reeve.degraded).reeveState.reeveFollow

/-- The commit check's placement (R133): shortfall in banks, with NEED written. -/
def Dev.placeCheck (d : Dev) (v : Regs) : Nat × Dev :=
  let m := (modeOf v).getD Mode.base
  let n := needed v d.mapsNow m
  let a := d.avail.length
  (n - a, (d.wr REEVE.pg REEVE.NEED_NEEDED n).wr REEVE.pg REEVE.NEED_AVAIL a)

end Sys2Proof.Machine
end

