-- ==== Sys2Proof/Machine/Couch.lean ====
section
/-! DEFINITION. The Couch and its layers: readiness, fallbacks and releases (R160-R163), device-issued reads (R69),
the start and end of a slot image's compose (R174), image drops (R172), the composed image and its statistics
(R166-R170, R177-R180). -/

namespace Sys2Proof.Machine

def Dev.layer (d : Dev) (m : Nat) : Layer := mget (fun _ => Layer.reset) d.couch.layers m
def Dev.setLayer (d : Dev) (m : Nat) (x : Layer) : Dev :=
  { d with couch := { d.couch with layers := mset (fun _ => Layer.reset) d.couch.layers m x } }
def Dev.img (d : Dev) (k : Nat) : Img := mget (fun _ => Img.reset) d.couch.imgs k
def Dev.setImg (d : Dev) (k : Nat) (x : Img) : Dev :=
  { d with couch := { d.couch with imgs := mset (fun _ => Img.reset) d.couch.imgs k x } }
def Dev.imgState (d : Dev) (k : Nat) : Nat := d.rd COUCH.pg COUCH.IMG_STAT_STATE (i := k)
def Dev.setImgState (d : Dev) (k st : Nat) : Dev := d.wr COUCH.pg COUCH.IMG_STAT_STATE st (i := k)
def Dev.eligible (d : Dev) (k : Nat) : Bool := d.on COUCH.pg COUCH.IMG_STAT_ELIGIBLE (i := k)

/-! ### Device-issued reads (R69) -/

/-- Outstanding reads a function may have (R63). -/
def Dev.tagLimit (d : Dev) (f : Nat) : Nat :=
  if d.on HOSTIF.pg HOSTIF.LINK_STAT_FLIT then 16384 else if (d.fn f).tags10 then 768 else 256

/-- Tags of function f in use: those whose last completion has neither come nor timed out (R69). -/
def Dev.tagsUsed (d : Dev) (f : Nat) : List Nat :=
  ((d.host.reads.filter (·.fn == f)).map (·.tag)) ++ ((d.host.dropped.filter (·.fn == f)).map (·.tag))

/-- The first tag of function f: 10-bit tags have bits 9:8 other than 0, as PCIe has them (R63; log entry 59). -/
def Dev.tagBase (d : Dev) (f : Nat) : Nat :=
  if !d.on HOSTIF.pg HOSTIF.LINK_STAT_FLIT && (d.fn f).tags10 then 256 else 0

/-- The lowest tag of function f not in use. DESIGN CHOICE: which free tag a read takes, and in which order waiting reads go out, is
open; the lowest, and the oldest work that may be issued (log entry 66). -/
def Dev.freeTag (d : Dev) (f : Nat) : Nat :=
  let used := d.tagsUsed f
  (((List.range (used.length + 1)).map (d.tagBase f + ·)).find? fun t => !used.contains t).getD 0

/-- Function f may issue reads: Bus Master Enable is set (R69) and it is in D0 (R63). -/
def Dev.master (d : Dev) (f : Nat) : Bool := (d.fn f).bme && (d.fn f).dstate == 0

/-- Issue one waiting read if its function may: no larger than Max_Read_Request_Size, never across a 4 KiB boundary, with the
attributes that its Device Control register enables. -/
def Dev.issueOne (d : Dev) : Dev :=
  match d.host.todo.find? fun w => d.master w.fn && decide ((d.tagsUsed w.fn).length < d.tagLimit w.fn) with
  | none => d
  | some w =>
    let n := min (min w.len (d.fn w.fn).mrrs) (4096 - w.addr % 4096)
    let rest := if n < w.len then [{ w with addr := w.addr + n, len := w.len - n }] else []
    { d with host := { d.host with
      reads := d.host.reads ++ [⟨w.fn, d.freeTag w.fn, w.job, w.addr, n, (d.fn w.fn).relaxed, (d.fn w.fn).noSnoop⟩]
      todo := d.host.todo.flatMap fun x => if x == w then rest else [x] } }

/-- Issue reads while any may be issued, at most n. -/
def Dev.issue (d : Dev) : Nat → Dev
  | 0 => d
  | n + 1 => if d.host.todo.isEmpty then d else d.issueOne.issue n

/-- LTR_ACTIVE or LTR_IDLE holds (R74): a new message at each change, when PF0's LTR is enabled (R63; log entry 59). -/
def Dev.setLtr (d : Dev) (active : Bool) : Dev :=
  if d.host.ltrActive == active then d
  else
    let off := if active then 0x058 else 0x05C
    let x := (d.word HOSTIF.pg off).toNat
    { d with host := { d.host with
      ltrActive := active
      ltrMsg := if (d.fn 0).ltrEn then some (getBits (BitVec.ofNat 32 x) 0 10, getBits (BitVec.ofNat 32 x) 10 3) else d.host.ltrMsg } }

/-- LTR follows whether a fetch is outstanding or scheduled (R74). -/
def Dev.ltr (d : Dev) : Dev := d.setLtr (!(d.host.reads.isEmpty && d.host.todo.isEmpty) || d.host.fetchDue)

/-- The FLE at which a fetch was scheduled to start has come (R74). -/
def Dev.fetchBegun (d : Dev) : Dev := if d.host.fetchDue then ({ d with host := { d.host with fetchDue := false } } : Dev).ltr else d

/-- Leave L1 and widen (R74): CLKREQ_N asserted, the link back in L0. -/
def Dev.exitL1 (d : Dev) : Dev :=
  let d := { d with host := { d.host with l1Req := false, narrow := false, clkreq := false } }
  if 3 ≤ d.link && d.link ≤ 6 then d.wr HOSTIF.pg HDR.PG_STAT_STATE 2 else d

/-- Issue what may be issued; a read that goes out takes the link out of L1 first (R74). -/
def Dev.issueAll (d : Dev) : Dev :=
  let n := d.host.reads.length
  let d' := d.issue 49152
  if n < d'.host.reads.length then d'.exitL1 else d'

/-- Ask for a host range on behalf of a job. -/
def Dev.fetch (d : Dev) (w : ReadWork) : Dev :=
  (({ d with host := { d.host with todo := d.host.todo ++ [w] } } : Dev).issueAll).ltr

/-- Reads end: what still comes for them is discarded, after a function reset without logging (silent, R76). -/
def Dev.endReads (d : Dev) (p : DevRead → Bool) (q : ReadWork → Bool) (silent : Bool) : Dev :=
  { d with host := { d.host with
    reads := d.host.reads.filter fun r => !p r
    todo := d.host.todo.filter fun w => !q w
    dropped := d.host.dropped ++ ((d.host.reads.filter p).map fun r => ⟨r.fn, r.tag, r.len, silent⟩) } }

def Dev.endJob (d : Dev) (j : Job) : Dev := d.endReads (fun r => r.job == j) (fun w => w.job == j) false

/-! ### Readiness (R160) -/

/-- FUNC code 0-2 of a layer, as owner code 1-3. -/
def layerFn (v : Regs) (m : Nat) : Nat := lf v m MOULD.LAYER_CTL_FUNC

/-- The function owns every bank of a DA range. -/
def Dev.ownsRange (d : Dev) (f lo hi : Nat) : Bool :=
  (List.range (bankOf (hi - 1) - bankOf lo + 1)).all fun i =>
    d.owner (bankOf lo + i) == f + 1 && !d.handover (bankOf lo + i)

/-- The layer lies wholly off the screen. -/
def offScreen (v : Regs) (m w h : Nat) : Bool :=
  let x := sext 16 (lf v m MOULD.DST_XY_X)
  let y := sext 16 (lf v m MOULD.DST_XY_Y)
  let wh := dstWH v m
  decide (x + wh.1 ≤ 0 ∨ (w : Int) ≤ x ∨ y + wh.2 ≤ 0 ∨ (h : Int) ≤ y)

/-- The source fields equal those of the held source (R162). -/
def Dev.sameAsHeld (d : Dev) (v : Regs) (m : Nat) : Bool :=
  match (d.layer m).held with
  | some h => h.src == srcFields v m
  | none => false

def fenceAddr (v : Regs) (m : Nat) : Nat := lf v m MOULD.FENCE_LO_ADDR + 2 ^ 32 * lf v m MOULD.FENCE_HI_ADDR

def fenceMet (v : Regs) (m x : Nat) : Bool := decide ((x + 2 ^ 32 - lf v m MOULD.FENCE_VAL_VAL) % 2 ^ 32 < 2 ^ 31)

/-- Test 3: the fence (R160). A host fence is met by the value its read returned. -/
def Dev.fenceOk (d : Dev) (v : Regs) (m : Nat) : Bool :=
  match lf v m MOULD.LAYER_CTL_FENCE_MODE with
  | 0 => true
  | 1 => d.rd (MOULD.pg m) MOULD.READY_GEN_GEN == lf v m MOULD.SRC_GEN_GEN
  | 2 => match (d.layer m).fence with
    | some x => fenceMet v m x
    | none => false
  | _ =>
    let a := fenceAddr v m % 2 ^ 30
    d.ownsRange (layerFn v m) a (a + 4) && !d.isBad (a / 8) && fenceMet v m (d.memNat a 4)

/-- Tests 1 and 2 (R160). -/
def Dev.sourceOk (d : Dev) (v : Regs) (m : Nat) : Bool :=
  boundIn v (d.binding v) m &&
    (if lf v m MOULD.LAYER_CTL_SRC_LOC = 0 then d.master (layerFn v m)
     else let e := srcExtent v m; d.ownsRange (layerFn v m) e.1 e.2)

/-- The layer is ready (R160): off the screen, or bound, reachable, and held already or its fence met. -/
def Dev.layerReady (d : Dev) (v : Regs) (m : Nat) : Bool :=
  offScreen v m d.mode.w d.mode.h || (d.sourceOk v m && (d.sameAsHeld v m || d.fenceOk v m))

/-- Is the layer served from a filled cache (R136)? -/
def Dev.cached (d : Dev) (v : Regs) (m : Nat) : Bool :=
  d.reeve.caches.any fun c => c.layer == m && c.filled && c.src == srcFields v m

/-- The LAYER banks can be accessed, where caches need them; a compose waits for their VERIFY (R303). -/
def Dev.cachesUp (d : Dev) : Bool := d.reeve.caches.isEmpty || d.itemUp .layer

/-- PG_STAT.STATE of a mould page; 3, bound to no mould, stands until the binding changes (R149). -/
def Dev.mouldState (d : Dev) (m st : Nat) : Dev :=
  if d.rd (MOULD.pg m) HDR.PG_STAT_STATE = 3 then d else d.wr (MOULD.pg m) HDR.PG_STAT_STATE st

/-- USE_STAT of a layer that uses no source: GEN is left (R149). -/
def Dev.useNone (d : Dev) (m use : Nat) : Dev := d.wr (MOULD.pg m) MOULD.USE_STAT_USE use

/-- USE_STAT of a layer at the start of a compose: it has neither stalled nor met an error (R149). -/
def Dev.useStart (d : Dev) (m : Nat) : Dev := (d.wr (MOULD.pg m) MOULD.USE_STAT_WAITED 0).wr (MOULD.pg m) MOULD.USE_STAT_FETCH_ERR 0

/-- USE_STAT of a layer. -/
def Dev.useStat (d : Dev) (m use gen : Nat) : Dev :=
  (d.wr (MOULD.pg m) MOULD.USE_STAT_USE use).wr (MOULD.pg m) MOULD.USE_STAT_GEN gen

/-- The pass supersedes the layer's held source with a new one (R162). -/
def Dev.supersede (d : Dev) (m : Nat) (new : Option Held) : Dev :=
  match d.couch.pass with
  | some p => { d with couch := { d.couch with pass := some { p with supersede := (p.supersede.filter fun e => e.1 != m) ++ [(m, new)] } } }
  | none => d

/-- The pass supersedes the held source no longer (R162), unless a reset of its page releases it at the compose's end (R163). -/
def Dev.keepHeld (d : Dev) (m : Nat) : Dev :=
  match d.couch.pass with
  | some p => if p.resets.contains m then d.supersede m none else { d with couch := { d.couch with pass := some { p with supersede := p.supersede.filter fun e => e.1 != m } } }
  | none => d

/-- The layer composes from its new source: fetch it (host, uncached), and supersede the held one (R162). -/
def Dev.useNew (d : Dev) (v : Regs) (m : Nat) : Dev :=
  let g := lf v m MOULD.SRC_GEN_GEN
  let d := (d.setLayer m { d.layer m with use := .fresh, failLine := none, bytes := [] }).useStat m 0 g
  let d := (d.supersede m (some ⟨srcFields v m, g⟩)).mouldState m 1
  if lf v m MOULD.LAYER_CTL_SRC_LOC = 0 && !d.cached v m && !offScreen v m d.mode.w d.mode.h then
    let e := srcExtent v m
    d.fetch ⟨layerFn v m, .layer m, e.1, e.2 - e.1⟩
  else d

/-- The values with a layer's source fields replaced by a held source's (R161, R162). -/
def heldVals (v : Regs) (m : Nat) (h : Held) : Regs :=
  let v := v.put (rkey (MOULD.pg m) 0x040) (mux 0xE (h.src.getD 0 0) (v.word (rkey (MOULD.pg m) 0x040)))
  ([0x044, 0x048, 0x04C, 0x050, 0x054, 0x058, 0x064].zipIdx).foldl
    (fun v e => v.put (rkey (MOULD.pg m) e.1) (h.src.getD (e.2 + 1) 0)) v

/-- The held source of layer m, with the values that compose from it. -/
def Dev.heldOf (d : Dev) (v : Regs) (m : Nat) : Option (Held × Regs) := (d.layer m).held.map fun h => (h, heldVals v m h)

/-- A held source that can be read no more: in banks that FUNC does not own (R115), or in host memory that FUNC may not read (R69). -/
def Dev.heldGone (d : Dev) (m : Nat) (hv : Regs) : Bool :=
  !offScreen hv m d.mode.w d.mode.h &&
    (if lf hv m MOULD.LAYER_CTL_SRC_LOC = 1 then (let e := srcExtent hv m; !d.ownsRange (layerFn hv m) e.1 e.2)
     else !d.cached hv m && !d.master (layerFn hv m))

/-- A held host source is read again for the compose, unless LAYER holds it (R136, R162). -/
def Dev.fetchHeld (d : Dev) (m : Nat) (hv : Regs) : Dev :=
  if lf hv m MOULD.LAYER_CTL_SRC_LOC = 1 || d.cached hv m || offScreen hv m d.mode.w d.mode.h then d
  else
    let e := srcExtent hv m
    d.fetch ⟨layerFn hv m, .layer m, e.1, e.2 - e.1⟩

/-- The image is composed without the layer. -/
def Dev.leaveOut (d : Dev) (m : Nat) : Dev := ((d.setLayer m { d.layer m with use := .skipped }).useNone m 2).mouldState m 0

/-- A fallback is counted (R161). -/
def Dev.fallCount (d : Dev) (m : Nat) : Dev := (d.count (MOULD.pg m) MOULD.COUNTS_FALLBACKS).raise (MOULD.pg m) 1

/-- The layer composes from its held source (R162). HOLD with none acts as SKIP (R161); so does HOLD with one that can be read no more
(DEDUCED from R69, R115, R160; log entry 63). -/
def Dev.useHeld (d : Dev) (v : Regs) (m : Nat) : Dev :=
  match d.heldOf v m with
  | some (h, hv) =>
    if d.heldGone m hv then d.leaveOut m
    else (((d.setLayer m { d.layer m with use := .held, failLine := none }).useStat m 1 h.gen).mouldState m 1).fetchHeld m hv
  | none => d.leaveOut m

/-- The fallback of the layer's POLICY (R161). -/
def Dev.fallback (d : Dev) (v : Regs) (m : Nat) : Dev :=
  let d := d.fallCount m
  if lf v m MOULD.LAYER_CTL_POLICY % 2 = 0 then d.useHeld v m else d.leaveOut m

/-- Read the layer's host fence once (R160). A bank fence that reads uncorrectable is logged (R110). -/
def Dev.readFence (d : Dev) (v : Regs) (m : Nat) : Dev :=
  let mode := lf v m MOULD.LAYER_CTL_FENCE_MODE
  if d.sameAsHeld v m then d
  else if mode = 2 && d.master (layerFn v m) then
    (d.setLayer m { d.layer m with fence := none }).fetch ⟨layerFn v m, .fence m, fenceAddr v m, 4⟩
  else
    let a := fenceAddr v m % 2 ^ 30
    if mode = 3 && d.ownsRange (layerFn v m) a (a + 4) && d.isBad (a / 8) then d.ueLog Own.COUCH (8 * (a / 8)) false else d

/-- A ready layer joins the compose: from its held source when its fields equal it, else from the new one (R162). -/
def Dev.joinReady (d : Dev) (v : Regs) (m : Nat) : Dev := if d.sameAsHeld v m then d.useHeld v m else d.useNew v m

/-- The readiness test of one contributing layer at the start of a slot image's compose (R160, R161). A host fence's
answer decides later. -/
def Dev.testLayer (d : Dev) (v : Regs) (m : Nat) : Dev :=
  let d := (d.setLayer m { d.layer m with waited := 0, failLine := none, failHeld := none, fence := none, stalled := false }).useStart m
  if d.layerReady v m then d.joinReady v m
  else
    let d := d.readFence v m
    let waitFence := lf v m MOULD.LAYER_CTL_FENCE_MODE == 2 && d.master (layerFn v m) && d.sourceOk v m
    if lf v m MOULD.LAYER_CTL_POLICY < 2 || waitFence then
      (d.setLayer m { d.layer m with use := .waiting }).mouldState m 2
    else d.fallback v m

/-- A slot image is being composed. -/
def Dev.composing (d : Dev) : Bool := match d.couch.pass with | some p => p.img.isSome | none => false

/-- The first line of the screen that layer m covers. -/
def firstLine (v : Regs) (m : Nat) : Nat := (sext 16 (lf v m MOULD.DST_XY_Y)).toNat

/-- The layers that wait, and whether the Couch is stalled on one (R161, R181). -/
def Dev.waiters (d : Dev) : List Nat := (List.range 12).filter fun m => (d.layer m).use == .waiting
def Dev.stalledOn (d : Dev) : List Nat := d.waiters.filter fun m => (d.layer m).stalled

/-- The line the running compose has reached (R181): that of the layer it is stalled on; else no command carries it, so it is free
up to the first that a waiting layer covers (log entry 29). -/
def Dev.composeLine (d : Dev) : Nat × Dev :=
  match d.couch.pass with
  | some p =>
    let least (ms : List Nat) : Nat := ms.foldl (fun n m => min n (firstLine p.vals m)) (d.mode.h - 1)
    if p.img.isNone then (0, d) else if d.stalledOn.isEmpty then d.takeNat (least d.waiters + 1) else (least d.stalledOn, d)
  | none => (0, d)

/-- The values that layer m's output lines are composed from by now: its new source's, or its held source's after a fallback. -/
def Dev.usedVals (d : Dev) (v : Regs) (m : Nat) : Option Regs :=
  let l := d.layer m
  let held := (d.heldOf v m).map (·.2)
  match l.use with
  | .fresh => if l.failLine.isNone then some v else if lf v m MOULD.LAYER_CTL_POLICY % 2 = 0 && l.failHeld.isNone then held else none
  | .held => if l.failLine.isNone then held else none
  | _ => none

/-- The earlier of a line that failed already and a new one. -/
def earliest (a : Option Nat) (line : Nat) : Option Nat := some (match a with | some n => min n line | none => line)

/-- The fallback of a layer that has composed from its new source above output line `line` (R160): to HOLD, which leaves the held source in
place (R162), or to SKIP; HOLD with none that can be read acts as SKIP. DEDUCED: USE and GEN show the fallback (log entry 63). -/
def Dev.fallMid (d : Dev) (v : Regs) (m line : Nat) : Dev :=
  let d := (d.setLayer m { d.layer m with failLine := some line }).fallCount m
  if lf v m MOULD.LAYER_CTL_POLICY % 2 = 1 then d.useNone m 2
  else match d.heldOf v m with
    | some (h, hv) =>
      let d := d.keepHeld m
      if d.heldGone m hv then (d.setLayer m { d.layer m with failHeld := some line }).useNone m 2
      else (d.useStat m 1 h.gen).fetchHeld m hv
    | none => d.useNone m 2

/-- A layer of the running compose loses its source (R161): from output line `line` on, the fallback, without waiting; a
waiting layer falls back at once; a held source that fails is skipped. -/
def Dev.sourceLost (d : Dev) (v : Regs) (m line : Nat) : Dev :=
  let d := d.endJob (.layer m)
  let l := d.layer m
  match l.use with
  | .waiting => d.fallback v m
  | .fresh =>
    match l.failLine with
    | some n => if line < n then d.setLayer m { l with failLine := some line }
        else (d.setLayer m { l with failHeld := earliest l.failHeld line }).useNone m 2
    | none => d.fallMid v m line
  | .held => (d.setLayer m { l with failLine := earliest l.failLine line }).useNone m 2
  | _ => d

/-- A fetch error of a layer in the running compose (R160). -/
def Dev.fetchError (d : Dev) (v : Regs) (m line : Nat) : Dev :=
  ((d.wr (MOULD.pg m) MOULD.USE_STAT_FETCH_ERR 1).raise (MOULD.pg m) 2).sourceLost v m line

/-- From device d0 to d the LAYER caches may have gone: the running compose's layers that were read from one are read from the host
(R137), or lose their source where their function may not issue reads. -/
def Dev.refetch (d0 d : Dev) : Dev :=
  match d.couch.pass with
  | some p =>
    (List.range 12).foldl (fun d m =>
      match d.usedVals p.vals m with
      | some u =>
        if lf u m MOULD.LAYER_CTL_SRC_LOC = 1 || offScreen u m d.mode.w d.mode.h || !d0.cached u m || d.cached u m then d
        else if d.master (layerFn u m) then
          let e := srcExtent u m
          d.fetch ⟨layerFn u m, .layer m, e.1, e.2 - e.1⟩
        else let q := d.composeLine; q.2.sourceLost p.vals m q.1
      | none => d) d
  | none => d

/-! ### The end of a compose (R162) -/

/-- Release a layer's held source. -/
def Dev.releaseHeld (d : Dev) (m : Nat) : Dev :=
  match (d.layer m).held with
  | some h =>
    ((d.wr (MOULD.pg m) MOULD.RELEASE_GEN h.gen).wr (MOULD.pg m) MOULD.RELEASE_VALID 1).raise (MOULD.pg m) 0
  | none => d

/-- At the end of a compose, superseded held sources are released in order, and the new sources become held. -/
def Dev.endCompose (d : Dev) : Dev :=
  match d.couch.pass with
  | none => d
  | some p =>
    let d := p.supersede.foldl (fun d e =>
      let d := d.releaseHeld e.1
      d.setLayer e.1 { d.layer e.1 with held := e.2, heldBytes := (d.layer e.1).bytes }) d
    let d := (List.range 12).foldl (fun d m =>
      (d.setLayer m { d.layer m with use := .idle, failLine := none }).mouldState m 0) d
    { d with couch := { d.couch with pass := some { p with supersede := [], img := none, resets := [] } } }

/-! ### Compose starts (R174) -/

/-- The FREE buffer of slot s in FULL mode (R174). DESIGN CHOICE: which of two FREE ones is open; the lower (log entry 66). -/
def Dev.freeBuf (d : Dev) (s : Nat) : Option Nat :=
  if d.reeve.noCompose.contains s then none
  else if d.imgState (2 * s) = 0 then some (2 * s) else if d.imgState (2 * s + 1) = 0 then some (2 * s + 1) else none

/-- Contributing enabled layers of slot s (R160, R168). -/
def contrib (v : Regs) (s : Nat) : List Nat := (List.range 12).filter fun m => layerOn v m && inSlot v m s

/-- A compose of slot s starts (R160, R162): disabled layers supersede what is held, the contributing ones are tested. -/
def Dev.startLayers (d : Dev) (v : Regs) (s : Nat) : Dev :=
  let d := (List.range 12).foldl (fun d m =>
    if layerOn v m then d
    else ((d.useStart m).useNone m 3).onlyIf ((d.layer m).held.isSome) (·.supersede m none)) d
  (contrib v s).foldl (fun d m => d.testLayer v m) d

/-- The compose of slot s into image k starts: state, IMG_STAT, and the layers. -/
def Dev.startImage (d : Dev) (p : Pass) (s k : Nat) : Dev :=
  let d := { d with couch := { d.couch with
    pass := some { p with slot := s, waitSlot := false, img := some k },
    composedSince := mset (fun _ => false) d.couch.composedSince s true } }
  let d := d.putWord COUCH.pg (0x080 + 4 * k)
    (BitVec.ofNat 32 (1 + s * 16 + d.mode.bufOfImg k * 64 + d.frameNo % 2 ^ 16 * 2 ^ 16))
  let d := (d.setImg k { Img.reset with vals := p.vals }).putWord TONE.pg (0x080 + 4 * k) 0
  let d := d.putWord COUCH.pg 0x05C (BitVec.ofNat 32 (k + s * 16))
  let d := d.wr COUCH.pg HDR.PG_STAT_STATE 1
  d.startLayers p.vals s

/-- A slot without a FREE buffer is skipped (R174 step 3). -/
def Dev.skipSlot (d : Dev) : Dev := (d.count COUCH.pg COUCH.COMPOSE_SKIPPED_COUNT).raise COUCH.pg 3

/-- The pass ends: the Couch is idle, and at E1 the Reeve lets go of its caches (R303). -/
def Dev.endPass (d : Dev) : Dev :=
  ({ (d.putWord COUCH.pg 0x05C 0xF).wr COUCH.pg HDR.PG_STAT_STATE 0 with couch := { d.couch with pass := none } } : Dev).reeveFollow

/-- A pass is requested at the next frame FLE (R175). -/
def Dev.askPass (d : Dev) : Dev := ({ d with couch := { d.couch with passReq := true } } : Dev).reeveFollow

/-- Go on with slot s of the pass and those after it, n at most: start it in the buffer its slot FLE freed, skip it, or
wait for its slot FLE (R174). -/
def Dev.nextSlot (d : Dev) (p : Pass) (s : Nat) : Nat → Dev
  | 0 => d.endPass
  | n + 1 =>
    if d.mode.s ≤ s then d.endPass
    else match p.bufs.find? fun e => e.1 == s with
      | some (_, some k) => if d.imgState k = 0 then d.startImage p s k else d.skipSlot.nextSlot p (s + 1) n
      | some (_, none) => d.skipSlot.nextSlot p (s + 1) n
      | none => { (d.putWord COUCH.pg 0x05C 0xF).wr COUCH.pg HDR.PG_STAT_STATE 0 with couch := { d.couch with pass := some { p with slot := s, waitSlot := true, img := none } } }

/-- A pass starts at a frame FLE (R174): slot 0 first. -/
def Dev.startPass (d : Dev) : Dev :=
  let p : Pass := { vals := d.regs, slot := 0, waitSlot := false, img := none, frame := d.frameNo, supersede := [],
                    bufs := [(0, d.freeBuf 0)], rect := false }
  ({ d with couch := { d.couch with passReq := false } } : Dev).nextSlot p 0 5 |>.reeveFollow

/-! ### The composed image -/

/-- A byte source for a layer: a LAYER cache, fetched host bytes, or bank memory. -/
def Dev.layerByte (d : Dev) (v : Regs) (m : Nat) (bytes : List Host.Cell) (a : Nat) : Byte :=
  if lf v m MOULD.LAYER_CTL_SRC_LOC = 1 then d.byte a
  else match d.reeve.caches.find? fun c => c.layer == m && c.filled && c.src == srcFields v m with
    | some c => d.byte (d.itemDA .layer (c.off + (a - (srcExtent v m).1)))
    | none => mget memDefault bytes a

/-- The layers of slot s in blending order for line y, with the values and bytes each is composed from. -/
def Dev.layersAt (d : Dev) (v : Regs) (s y : Nat) : List (Nat × Regs × (Nat → Byte)) :=
  (zOrder v (contrib v s)).filterMap fun m =>
    let l := d.layer m
    let failed := match l.failLine with | some n => decide (n ≤ y) | none => false
    let held : Option (Nat × Regs × (Nat → Byte)) := l.held.map fun h =>
      let hv := heldVals v m h
      (m, hv, d.layerByte hv m l.heldBytes)
    match l.use with
    | .fresh => if failed then
        (if lf v m MOULD.LAYER_CTL_POLICY % 2 = 0 && !(match l.failHeld with | some n => decide (n ≤ y) | none => false) then held else none)
      else some (m, v, d.layerByte v m l.bytes)
    | .held => if failed then none else held
    | _ => none

def Regs.bg (v : Regs) : List Nat :=
  [v.fld COUCH.pg COUCH.BG_R_VALUE, v.fld COUCH.pg COUCH.BG_G_VALUE, v.fld COUCH.pg COUCH.BG_B_VALUE]

/-- The FS36 pixels of a rectangle of slot s's image, line by line. -/
def Dev.composeRect (d : Dev) (v : Regs) (s x0 y0 w h : Nat) : List (List Nat) :=
  (List.range h).map fun j =>
    let ls := d.layersAt v s (y0 + j)
    (List.range w).map fun i => composePx v.bg ls (x0 + i) (y0 + j)

/-- Pair up a line's pixels into bytes (R167). -/
def linePairs : List Nat → List Byte
  | p :: q :: l => fsPair p q ++ linePairs l
  | [p] => fsPair p 0
  | [] => []

/-- Write a whole image's lines (R167). -/
def Dev.putImage (d : Dev) (k : Nat) (rows : List (List Nat)) : Dev :=
  rows.zipIdx.foldl (fun d e => d.putItem (d.mode.imgKind k) (e.2 * d.mode.lineBytes) (linePairs e.1)) d

def statsBase (k : Nat) : Nat := k * 0x80000

/-- Pixels of tile (c, r) of size n, in order. -/
def tilePx (rows : List (List Nat)) (n c r : Nat) : List Nat :=
  ((rows.drop (r * n)).take n).flatMap fun l => (l.drop (c * n)).take n

/-- The statistics block of image k from its pixels, and IMG_CRC (R177-R180). -/
def Dev.putStats (d : Dev) (k : Nat) (rows : List (List Nat)) : Dev :=
  let m := d.mode
  let all := rows.flatMap id
  let bins := all.map histBin
  let d := d.putItem .aux (statsBase k) ((List.range 1024).flatMap fun i => leBytes 4 (bins.filter (· == i)).length)
  let ct := ceilDiv m.w 256
  let crcs := (List.range (ct * ceilDiv m.h 256)).map fun j => tileCrc (tilePx rows 256 (j % ct) (j / ct))
  let d := d.putItem .aux (statsBase k + 0x1000) (crcs.flatMap (leBytes 4))
  let tt := ceilDiv m.w 64
  let d := (List.range (tt * ceilDiv m.h 64)).foldl (fun d t =>
    d.putItem .aux (statsBase k + 0x2000 + 32 * t) ((tileRecord (tilePx rows 64 (t % tt) (t / tt))).flatMap (leBytes 4))) d
  d.wr COUCH.pg COUCH.IMG_CRC (crc32c (crcs.flatMap (leBytes 4))) (i := k)

/-- The pixels of image k as stored, line by line. -/
def Dev.imgRows (d : Dev) (k : Nat) : List (List Nat) :=
  (List.range d.mode.h).map fun y => (List.range d.mode.w).map fun x => d.imgPx k x y

/-- An image becomes flip-eligible when it is COMPLETE with its curve and its plans made (R14). -/
def Dev.checkEligible (d : Dev) (k : Nat) : Dev :=
  if d.imgState k = 2 && (d.img k).curve && (d.img k).plan then d.wr COUCH.pg COUCH.IMG_STAT_ELIGIBLE 1 (i := k) else d

end Sys2Proof.Machine
end

