-- ==== Sys2Proof/Machine/Drops.lean ====
section
/-! DEFINITION. Image drops (R172) and what the rectangle queue shows (R210), which a change of D3's holds may move. -/

namespace Sys2Proof.Machine

/-! ### Drops (R172) -/

/-- Drop image k, COMPOSING or COMPLETE, to FREE. -/
def Dev.dropImage (d : Dev) (k : Nat) : Dev :=
  if d.imgState k = 1 || d.imgState k = 2 then
    let composing := d.imgState k == 1
    let d := ((d.setImgState k 0).wr COUCH.pg COUCH.IMG_STAT_ELIGIBLE 0 (i := k)).raise COUCH.pg 5
    let d := d.setImg k Img.reset
    if composing then
      let d := (List.range 12).foldl (fun d m => d.endJob (.layer m)) d
      d.endCompose
    else d
  else d

/-- Drop image k because of its bank alone: the pass goes on with the next slot. -/
def Dev.dropImageBank (d : Dev) (k : Nat) : Dev :=
  let composing := d.imgState k == 1
  let d := d.dropImage k
  match composing, d.couch.pass with
  | true, some p => d.nextSlot p (p.slot + 1) 5
  | _, _ => d

/-- Every COMPOSING and COMPLETE image is dropped and the running pass ends. -/
def Dev.dropAll (d : Dev) : Dev :=
  let d := (List.range 8).foldl (fun d k => d.dropImage k) d
  if d.couch.pass.isSome then d.endPass else d

/-! ### The rectangle queue -/

/-- What the page shows (R210). -/
def Dev.rectShow (d : Dev) : Dev :=
  let n := d.rects.length
  let held := (d.rects.filter fun r => r.st == 3).length
  let d := (d.wr RECTQ.pg RECTQ.QSTAT_IN_FLIGHT n).wr RECTQ.pg RECTQ.QSTAT_HELD held
  let d := d.wr RECTQ.pg HDR.PG_STAT_STATE (if !d.mode.part then 2 else if n = 0 then 0 else 1)
  (d.busy RECTQ.pg (n != 0)).cond RECTQ.pg 2 (decide (256 ≤ n))

/-- The registers of SCAN and RECTQ that show the active mode (R210, R233). -/
def Dev.modeShown (d : Dev) : Dev := d.publishMode.rectShow

def Dev.setRects (d : Dev) (l : List Rect) : Dev := ({ d with rects := l } : Dev).rectShow.reeveFollow

/-- Change the rectangles for which q holds. -/
def Dev.mapRects (d : Dev) (q : Rect → Bool) (f : Rect → Rect) : Dev := d.setRects (d.rects.map fun r => if q r then f r else r)

/-- Replace the first rectangle equal to r. -/
def Dev.setRect (d : Dev) (r r' : Rect) : Dev := d.mapRects (· == r) fun _ => r'

/-- A composing rectangle leaves the Couch. -/
def Dev.leaveCouch (d : Dev) : Dev := (((List.range 12).foldl (fun d m => d.endJob (.layer m)) d).endCompose).endPass

/-- The Couch stops (R172): every COMPOSING and COMPLETE image is dropped, a rectangle that composes is QUEUED again. -/
def Dev.couchStops (d : Dev) : Dev :=
  let rect := match d.couch.pass with | some p => p.rect | none => false
  (if rect then d.leaveCouch.mapRects (·.st == 1) fun r => { r with st := 0 } else d).dropAll

/-- What holds domains may have been withdrawn (R85): the Moot acts, and images under way are dropped as D3 leaves ON_PLL (R172), which
it does as it enters DROP_WAIT (R84). -/
def Dev.letGo (d : Dev) : Dev :=
  let was := d.onPll 3
  let d := d.moot
  d.onlyIf (was && !d.onPll 3) (·.couchStops)

end Sys2Proof.Machine
end

