-- ==== Sys2Proof/Machine/Host.lean ====
section
/-! DEFINITION. The host link (04_host_link, 21_events): link violations (R78), configuration (R64, R102), link and
function power states (R73-R75), PTM (R75, R241), MSI-X delivery (R383-R385), and the event registers (R381). -/

namespace Sys2Proof.Machine

/-- A TLP error of kind k: discarded, logged, reported by AER (R78). The TLP came over a link that has left L1 (R68). -/
def Dev.tlpError (d : Dev) (a : Acc) (k : Nat) (e : AerErr) (adv : Bool := false) : Dev :=
  (d.leaveL1.violation k a.who.code a.hdr).aer a.who e a.hdr adv

/-- ECRC is checked where the function's AER capability enables it; for a TLP that matched none, where any does (R63; log entry 59). -/
def Dev.ecrcChecked (d : Dev) (who : Req) : Bool :=
  if who.code < 3 then (d.fn who.code).ecrcCheck else [0, 1, 2].any fun f => (d.fn f).ecrcCheck

def execMalformedTlp (a : Acc) (s : State) : Out := finish (fun d => d.tlpError a 0x01 .malformed) s
def execEcrcError (a : Acc) (s : State) : Out :=
  finish (fun d => if d.ecrcChecked a.who then d.tlpError a 0x02 .ecrc else d.leaveL1) s
/-- A poisoned write request writes nothing (R78). -/
def execPoisonedWrite (a : Acc) (s : State) : Out := finish (fun d => d.tlpError a 0x03 .poisoned) s
def execUnexpectedCompletion (a : Acc) (s : State) : Out := finish (fun d => d.tlpError a 0x05 .unexpected true) s
/-- Non-posted: UR status; posted: discarded (R78). -/
def execUnsupportedRequest (a : Acc) (posted : Bool) (s : State) : Out :=
  finish (fun d => (d.tlpError a 0x08 .unsupported (!posted)).onlyIf (!posted) (·.replyStatus 1)) s

def execGranaryWindowWrite (f : Fin 3) (hdr : List Word) (ga : Nat) (s : State) : Out :=
  hostWrite (.granaryWindowWrite f hdr ga) ⟨Req.ofFn f, hdr, false⟩ (fun d => d.violation 0x11 f.val hdr) s

/-- Read: zeros; write: dropped; either logged (R65, R78). -/
def execReservedBarAccess (f : Fin 3) (hdr : List Word) (write : Bool) (len : Nat) (s : State) : Out :=
  finish (fun d => d.hostDo (.reservedBarAccess f hdr write len) (Req.ofFn f) hdr write fun d =>
    (d.violation 0x12 f.val hdr).onlyIf (!write) (·.reply (List.replicate len 0))) s

/-! ### Configuration (R64, R102) -/

/-- The bits of Base Address Register i that hold an address, and its low bits: 64-bit, BAR2 prefetchable (R64). -/
def barMask (i : Nat) : Nat :=
  [0xFFF00000, 0xFFFFFFFF, 0, 0xFFFFFFFF, 0xFFFF0000, 0xFFFFFFFF].getD i 0
def barLow (i : Nat) : Nat := [4, 0, 0xC, 0, 4, 0].getD i 0

/-- The value a configuration register answers. -/
def Fn.cfg (x : Fn) (f : Nat) : CfgReg → Nat
  | .id => 0x8640 * 2 ^ 16 + 0x1F5C
  | .classCode => if f = 2 then 0x118000 else 0x038000
  | .headerType => 0x80
  | .interruptPin => 0
  | .memSpace => b2n x.mse
  | .busMaster => b2n x.bme
  | .status => x.status
  | .bar i => mget (fun _ => 0) x.bars i.val ||| barLow i.val
  | .maxPayload => x.mps
  | .reportCor => b2n x.reportCor
  | .devStatus => x.devStatus
  | .reportNonFatal => b2n x.reportNonFatal
  | .reportFatal => b2n x.reportFatal
  | .cplTimeout => x.cplTo
  | .cplTimeoutOff => b2n x.cplToOff
  | .ltrEnable => b2n x.ltrEn
  | .ecrcGen => b2n x.ecrcGen
  | .ecrcCheck => b2n x.ecrcCheck
  | .aerMask => x.aerMask
  | .aerSeverity => x.aerSev
  | .maxReadReq => x.mrrs
  | .relaxedOrdering => b2n x.relaxed
  | .noSnoop => b2n x.noSnoop
  | .aspmL1 => b2n x.aspmL1
  | .l11 => b2n x.l11
  | .l12 => b2n x.l12
  | .ptmEnable => b2n x.ptmEn
  | .msixEnable => b2n x.msixEn
  | .msixFMask => b2n x.msixFMask
  | .tenBitTags => b2n x.tags10
  | .aerStatus => x.aer
  | .corStatus => x.corStatus
  | .corMask => x.corMask
  | .firstError => x.firstErr.getD 0
  | .headerLog i => (x.hdrLog.getD i.val 0).toNat

/-- The bits of the AER registers that stand for the errors of R78. -/
def aerBits : Nat := [AerErr.malformed, .ecrc, .poisoned, .unexpected, .timeout, .unsupported, .abort].foldl (fun m e => m ||| 2 ^ e.bit) 0

/-- MSI-X Enable is written; with it set the PBA tells of held requests again (R384). -/
def Fn.enableMsix (x : Fn) (b : Bool) : Fn := { x with msixEn := b, pbaOff := x.pbaOff && !b }

/-- A configuration write. Read-only registers ignore it; the status registers clear the bits written as 1. -/
def Fn.cfgWrite (x : Fn) (r : CfgReg) (n : Nat) : Fn :=
  match r with
  | .memSpace => { x with mse := n % 2 == 1 }
  | .busMaster => { x with bme := n % 2 == 1 }
  | .status => { x with status := x.status - (x.status &&& n) }
  | .bar i => { x with bars := mset (fun _ => 0) x.bars i.val (n &&& barMask i.val) }
  | .maxPayload => if [128, 256, 512].contains n then { x with mps := n } else x
  | .reportCor => { x with reportCor := n % 2 == 1 }
  | .devStatus => { x with devStatus := x.devStatus - (x.devStatus &&& n) }
  | .reportNonFatal => { x with reportNonFatal := n % 2 == 1 }
  | .reportFatal => { x with reportFatal := n % 2 == 1 }
  | .cplTimeout => { x with cplTo := n % 16 }
  | .cplTimeoutOff => { x with cplToOff := n % 2 == 1 }
  | .ltrEnable => { x with ltrEn := n % 2 == 1 }
  | .ecrcGen => { x with ecrcGen := n % 2 == 1 }
  | .ecrcCheck => { x with ecrcCheck := n % 2 == 1 }
  | .aerMask => { x with aerMask := n &&& aerBits }
  | .aerSeverity => { x with aerSev := n &&& aerBits }
  | .maxReadReq => if [128, 256, 512, 1024, 2048, 4096].contains n then { x with mrrs := n } else x
  | .relaxedOrdering => { x with relaxed := n % 2 == 1 }
  | .noSnoop => { x with noSnoop := n % 2 == 1 }
  | .aspmL1 => { x with aspmL1 := n % 2 == 1 }
  | .l11 => { x with l11 := n % 2 == 1 }
  | .l12 => { x with l12 := n % 2 == 1 }
  | .ptmEnable => { x with ptmEn := n % 2 == 1 }
  | .msixEnable => x.enableMsix (n % 2 == 1)
  | .msixFMask => { x with msixFMask := n % 2 == 1 }
  | .tenBitTags => { x with tags10 := n % 2 == 1 }
  | .aerStatus => { x with aer := x.aer - (x.aer &&& n), firstErr := x.firstErr.filter fun b => !bit n b }
  | .corStatus => { x with corStatus := x.corStatus - (x.corStatus &&& n) }
  | .corMask => { x with corMask := n &&& 2 ^ 13 }
  | _ => x

/-- EV_PTM_LOST holds while PTM is enabled and PTM_STAT.VALID is 0 (R75, R390). -/
def Dev.ptmCond (d : Dev) : Dev :=
  d.cond HOSTIF.pg 4 ((d.fn 0).ptmEn && !d.on HOSTIF.pg HOSTIF.PTM_STAT_VALID)

/-- Is the device ready for configuration requests? By 40 ms after the reset reference and 20 ms after PERST_N release
it is; earlier it may or may not be (R102): a free choice. -/
def Dev.cfgReady (d : Dev) (usReset usPerst : Nat) : Bool × Dev :=
  if 40000 ≤ usReset && 20000 ≤ usPerst then (true, d) else d.takeBool

/-! ### Link states (R68, R70, R73, R74) -/

/-- FETCH_BUDGET of a rate code and width (R70). -/
def fetchBudget (speed width : Nat) : Nat :=
  ([0, 1812, 3625, 7250, 14500, 29000, 58000].getD speed 0) * width / 8

/-- The link trains to L0 (R68, R70): LINK_STAT, FETCH_BUDGET, EV_LINK_UP when DL_UP rises; held requests may go. The
HOST_LINK_LOST record of the time down is written (R401). With PTM enabled a PTM request goes out (R75). -/
def execLinkUp (speed width : Nat) (flit : Bool) (s : State) : Out :=
  finish (fun d =>
    if d.pwr.perst || !([1, 2, 3, 4, 5, 6].contains speed && [1, 2, 4, 8].contains width) then d
    else
      let was := d.on HOSTIF.pg HOSTIF.LINK_STAT_DL_UP
      let d := d.putWord HOSTIF.pg 0x040 (BitVec.ofNat 32 (speed + width * 16 + b2n flit * 2 ^ 10 + 2 ^ 11))
      let d := d.wr HOSTIF.pg HOSTIF.FETCH_BUDGET_MBPS (fetchBudget speed width)
      let d := d.wr HOSTIF.pg HDR.PG_STAT_STATE 2
      let d := match d.host.downAt with
        | some t => ({ d with host := { d.host with downAt := none } } : Dev).fault { cls := 0x0D, detail := (d.devtime - t) / 1000000 }
        | none => d
      let d := if was then d else d.raise HOSTIF.pg 2
      let d := { d with host := { d.host with ptmReq := d.host.ptmReq || (d.fn 0).ptmEn, l1Req := false, narrow := false, clkreq := false } }
      d.refreshReqs.issueAll) s

/-- A layer of the running compose reads host memory: its new source, or the held one it composes from. -/
def Dev.layerFetches (d : Dev) (v : Regs) (m : Nat) : Bool :=
  let host (v : Regs) : Bool := lf v m MOULD.LAYER_CTL_SRC_LOC == 0 && !d.cached v m
  let held := match (d.layer m).held with | some h => host (heldVals v m h) | none => false
  match (d.layer m).use with
  | .waiting => host v || held
  | .fresh => host v || ((d.layer m).failLine.isSome && held)
  | .held => held
  | _ => false

/-- A compose that fetches from host memory is running, of an image or of a rectangle (R74). -/
def Dev.hostCompose (d : Dev) : Bool :=
  match d.couch.pass with
  | some p => (p.img.isSome || p.rect) && (List.range 12).any fun m => d.layerFetches p.vals m
  | none => false

/-- Nothing to send and nothing outstanding (R74). -/
def Dev.linkIdle (d : Dev) : Bool :=
  d.host.reads.isEmpty && d.host.dropped.isEmpty && d.host.todo.isEmpty && !(d.host.reqs.any fun r => !r.held) && !d.hostCompose

/-- After 20 µs idle the device requests L1 entry when ASPM L1 is enabled, and narrowing to x1 when L0P_EN is 1 (R74), in FLIT mode
and of a wider link, as L0p asks (R63). DESIGN
CHOICE: PF0's enables count, and with both L1.1 and L1.2 enabled the link goes to L1.2 (log entry 61). -/
def execAspmL1Entry (s : State) : Out :=
  finish (fun d =>
    if d.linkIdle && (d.link == 2 || d.link == 3) then
      let l1 := (d.fn 0).aspmL1
      let sub := (d.fn 0).l11 || (d.fn 0).l12
      let nar := d.on HOSTIF.pg HOSTIF.LINKPM_CTL_L0P_EN && d.on HOSTIF.pg HOSTIF.LINK_STAT_FLIT &&
        decide (1 < d.rd HOSTIF.pg HOSTIF.LINK_STAT_WIDTH)
      let d := ({ d with host := { d.host with l1Req := l1, narrow := nar, clkreq := l1 && sub } } : Dev).setLtr false
      if l1 then d.wr HOSTIF.pg HDR.PG_STAT_STATE (if (d.fn 0).l12 then 6 else if (d.fn 0).l11 then 5 else 4)
      else if nar then d.wr HOSTIF.pg HDR.PG_STAT_STATE 3 else d
    else d) s

/-- L1_LEAD × 10 µs before an FLE at which a fetching compose will start, L1 exit and widening begin; a fetch is now
scheduled, until that FLE (R74). -/
def execL1ExitLead (s : State) : Out :=
  finish (fun d => ({ d.exitL1 with host := { d.exitL1.host with fetchDue := true } } : Dev).ltr) s

/-- PERST_N released (R102): the PHY PLL and training start, D2 wakes if WAKE_EN.HOST is set (R83, R87). -/
def execPerstRelease (s : State) : Out :=
  finish (fun d =>
    if d.pwr.perst then
      let d := { d with pwr := { d.pwr with perst := false, wakeN := false } }
      (d.wr HOSTIF.pg HDR.PG_STAT_STATE 1).fireWake 0
    else d) s

/-! ### PTM (R75, R241) -/

/-- At link-up and every PERIOD_MS (0: none) a PTM request goes out under PF0 (R75). -/
def execPtmRequest (s : State) : Out :=
  finish (fun d =>
    if (d.fn 0).ptmEn && d.rd HOSTIF.pg HOSTIF.PTM_CTL_PERIOD_MS != 0 && d.on HOSTIF.pg HOSTIF.LINK_STAT_DL_UP then
      { d with host := { d.host with ptmReq := true } } else d) s

/-! ### MSI-X (R383-R385) -/

def Fn.setEntry (x : Fn) (v : Nat) (e : MsixEntry) : Fn := { x with msix := mset (fun _ => MsixEntry.reset) x.msix v e }

/-- The PBA bit of vector v of function f: 0 after a reset of the function, until MSI-X is enabled again (R73, R76, R384). -/
def Dev.pba (d : Dev) (f v : Nat) : Bool := !(d.fn f).pbaOff && d.host.reqs.any fun r => r.f == f && r.v == v && r.held

/-- Byte i of function f's BAR4 (R64): the MSI-X table, the PBA, zero elsewhere. -/
def Dev.bar4Byte (d : Dev) (f i : Nat) : Byte :=
  if i < 0x1000 then
    let e := (d.fn f).entry (i / 16)
    (leBytes 16 (e.addr + e.data * 2 ^ 64 + b2n e.mask * 2 ^ 96)).getD (i % 16) 0
  else if 0x8000 ≤ i && i < 0x8020 then
    BitVec.ofNat 8 ((List.range 8).foldl (fun x k => if d.pba f (8 * (i - 0x8000) + k) then x + 2 ^ k else x) 0)
  else 0

/-- A write to the table; masking may hold or release requests (R384). -/
def Dev.msixSet (d : Dev) (f : Nat) (w : MsixWrite) : Dev :=
  let x := d.fn f
  let x := match w with
    | .addr v a => x.setEntry v.val { x.entry v.val with addr := a.toNat }
    | .data v a => x.setEntry v.val { x.entry v.val with data := a.toNat }
    | .mask v b => x.setEntry v.val { x.entry v.val with mask := b }
    | .enable b => x.enableMsix b
    | .fmask b => { x with msixFMask := b }
    | .read _ _ => x
  (d.setFn f x).refreshReqs

/-- An access to the table over BAR4 (R64, R71, R73); the control, in configuration space, answers in D3 too. -/
def execMsixTableWrite (f : Fin 3) (w : MsixWrite) (s : State) : Out :=
  finish (fun d =>
    match w with
    | .enable _ | .fmask _ => d.msixSet f.val w
    | .read off len => d.hostDo (.msixTableWrite f w) (Req.ofFn f) [] false fun d =>
        d.reply ((List.range len).map fun i => d.bar4Byte f.val (off + i))
    | _ => d.hostDo (.msixTableWrite f w) (Req.ofFn f) [] true (·.msixSet f.val w)) s

/-- A standing request that nothing holds is sent as one message; the L1 exit that the request began has ended by then (R384, R385). -/
def execMsixSend (f : Fin 3) (v : Fin 256) (s : State) : Out :=
  finish (fun d =>
    if d.host.reqs.any (fun r => r.f == f.val && r.v == v.val && !r.held) && !d.holding f.val v.val then
      let d := d.leaveL1
      let e := (d.fn f.val).entry v.val
      let d := { d with host := { d.host with
        reqs := d.host.reqs.filter fun r => !(r.f == f.val && r.v == v.val)
        lastMsg := some ⟨f.val, v.val, e.addr, e.data⟩ } }
      d.count CRIER.pg CRIER.MSG_CNT_COUNT
    else d) s

/-- A ROUTE write (R383, R391): a deliverable event that moves requests the new vector; a request held on the old
vector stands only while a deliverable event is routed there. -/
def execRouteWrite (a : Acc) (e : Fin 256) (x : Word) (s : State) : Out :=
  hostWrite (.routeWrite a e x) a (fun d => d.guarded a CRIER.pg (0x400 + 4 * e.val) fun d =>
    let was := (d.routeFn e.val, d.routeVec e.val)
    let d := d.putWord CRIER.pg (0x400 + 4 * e.val) (mux 0xFFF x (d.word CRIER.pg (0x400 + 4 * e.val)))
    let now := (d.routeFn e.val, d.routeVec e.val)
    let d := if d.deliverable e.val && was != now && d.crierOn then d.request now.1 now.2 else d
    d.refreshReqs) s

/-! ### The event registers of a page (R49, R381) -/

/-- The events of page pg whose bits x has. -/
def eventsIn (pg : Nat) (x : Word) : List Nat := ((List.range (evSource pg).2).filter (bit x.toNat)).map (evOf pg)

/-- Requests of the vectors of the events es that no deliverable event supports any more end (R391). -/
def Dev.dropUnsent (d : Dev) (es : List Nat) : Dev :=
  { d with host := { d.host with reqs := d.host.reqs.filter fun r =>
      !(es.any (fun e => d.routeFn e == r.f && d.routeVec e == r.v) && !d.vecDeliverable r.f r.v) } }

/-- W1C of EV_PEND; held requests that no deliverable event of their vector supports are withdrawn (R384), and in the cycle of the
request one that is not held (R391). An occurrence in the cycle of the W1C is a command that follows it: its bit stays 1. -/
def execEvPendClear (a : Acc) (pg : Fin 64) (x : Word) (s : State) : Out :=
  hostWrite (.evPendClear a pg x) a (fun d => d.guarded a pg.val 0x014 fun d =>
    ((d.putWord pg.val 0x014 (d.word pg.val 0x014 &&& ~~~x)).onlyIf a.same (·.dropUnsent (eventsIn pg.val x))).refreshReqs) s

/-- EV_FORCE latches the matching bits as occurrences would (R381); a page without such events ignores it. -/
def execEvForce (a : Acc) (pg : Fin 64) (x : Word) (s : State) : Out :=
  hostWrite (.evForce a pg x) a (fun d => d.guarded a pg.val 0x018 fun d =>
    Dev.deliverNew d (d.putWord pg.val 0x014 (d.word pg.val 0x014 ||| (x &&& evMask pg.val))) pg.val) s

/-- ERR_CODE.CLR clears CODE, OVERRUN and ERR_INFO (R49). -/
def execErrClear (a : Acc) (pg : Fin 64) (s : State) : Out :=
  hostWrite (.errClear a pg) a (fun d => d.guarded a pg.val 0x024 fun d => (d.putWord pg.val 0x024 0).putWord pg.val 0x028 0) s

end Sys2Proof.Machine
end

