-- ==== Sys2Proof/Machine/Banks.lean ====
section
/-! DEFINITION. Bank operations (06_memory_banks, R142): ECC on reads and narrow writes (R110, R111), live sparing
(R123, R124), replacement of a lost bank (R142), handover (R117), host accesses (R65, R115-R118), MTEST (R126),
claims (R134), migration (R140). -/

namespace Sys2Proof.Machine

/-- The contents of a bank are gone: every byte reads 0 and no word is poisoned (R119, R121); one that was has just been rewritten
in full (R111). -/
def Dev.eraseBank (d : Dev) (b : Nat) : Dev :=
  { d with bank := { d.bank with
    mem := d.bank.mem.filter fun c => bankOf c.1 != b
    bad := d.bank.bad.filter fun w => w / 2 ^ 21 != b
    fresh := d.bank.fresh ++ d.bank.bad.filter fun w => w / 2 ^ 21 == b
    spareKept := d.bank.spareKept.filter fun e => e.1 / 2 ^ 21 != b } }

/-- Bank b's contents stand in bank r instead (R142). -/
def Dev.moveBank (d : Dev) (b r : Nat) : Dev :=
  let cells := d.bank.mem.filter fun c => bankOf c.1 == b
  let bad := (d.bank.bad.filter fun w => w / 2 ^ 21 == b).map fun w => w % 2 ^ 21 + r * 2 ^ 21
  let d := (d.eraseBank r).eraseBank b
  let d := cells.foldl (fun d c => d.putByte (c.1 % 2 ^ 24 + r * 2 ^ 24) c.2) d
  { d with bank := { d.bank with bad := d.bank.bad ++ bad, fresh := d.bank.fresh.filter fun w => !bad.contains w } }

/-! ### Losing a bank (R142) -/

/-- Degraded operation (R142, R143). -/
def Dev.degrade (d : Dev) : Dev :=
  (({ d with reeve := { d.reeve with degraded := true } } : Dev).cond REEVE.pg 4 true).wr REEVE.pg HDR.PG_STAT_STATE 3

/-- The group of the bank is FAILED. -/
def Dev.groupFailed (d : Dev) (b : Nat) : Bool := d.dom (8 + b / 8) == 8

/-- Put bank r in place of b in the item that holds b, at the same index. -/
def Dev.swapItemBank (d : Dev) (b r : Nat) : Dev :=
  ({ d with reeve := { d.reeve with items := d.reeve.items.map fun it =>
    { it with banks := it.banks.map fun x => if x == b then r else x } } } : Dev).reeveFollow

/-- The LAYER bank set has changed, or its contents are lost: every layer cache is invalidated (R137), and one that no longer fits
is gone until the next caching decision (log entry 56). -/
def Dev.dropCaches (d : Dev) : Dev :=
  let n := ((d.item .layer).map (·.banks.length)).getD 0
  d.refetch { d with reeve := { d.reeve with caches := (d.reeve.caches.filter fun c => decide (c.off + c.len ≤ n * 2 ^ 24)).map fun c =>
      { c with filled := false } } }

/-- The image number of a slot's buffer in the active mode. -/
def Dev.imgNo (d : Dev) (slot buf : Nat) : Nat := if d.mode.part then slot else 2 * slot + buf

/-- Remove a bank from whichever item holds it. -/
def Dev.takeFromItems (d : Dev) (r : Nat) : Dev :=
  ({ d with reeve := { d.reeve with items := (d.reeve.items.map fun it =>
    { it with banks := it.banks.filter (· != r) }).filter fun it => !it.banks.isEmpty } } : Dev).reeveFollow

/-- The Reeve replaces bank b of a region (R142): by the lowest FREE bank, else the highest LAYER bank, else a bank of
the same slot's image that is not shown; with none the item keeps b; in the last two cases operation is degraded. An image that is
not shown is dropped (R172). `copy`: the contents can still be read. -/
def Dev.replaceBank (d : Dev) (b : Nat) (copy : Bool) : Dev :=
  match d.reeve.items.find? fun it => it.banks.contains b with
  | none => d
  | some it =>
    let usable (r : Nat) : Bool := r != b && d.bankState r != 8 && !d.groupFailed r && !d.claimDue r
    let free := ((List.range 64).filter fun r => d.region r == 0 && usable r).head?
    let layer := ((List.range 64).filter fun r => d.region r == 4 && usable r).getLast?
    let other : Option (Nat × Nat) := match it.kind with
      | .image sl bf =>
        if d.mode.part then none
        else
          let k := d.imgNo sl (1 - bf)
          let k := if d.imgState k = 3 then d.imgNo sl bf else k
          ((d.item (.image sl (k % 2))).bind fun i => (i.banks.filter usable).head?).map fun r => (r, k)
      | _ => none
    let put (d : Dev) (r : Nat) : Dev :=
      let d := (if copy then d.moveBank b r else d.eraseBank r).swapItemBank b r
      let d := d.setBankRec r { d.bankRec r with copying := copy }
      let d := match it.kind with
        | .image sl bf => d.dropImageBank (d.imgNo sl bf)
        | .layer => d.dropCaches
        | _ => d
      d.publishItems
    match free, layer, other with
    | some r, _, _ => put d r
    | none, some r, _ => put ((d.takeFromItems r).dropCaches) r
    | none, none, some (r, k) =>
      let d := d.dropImageBank k
      let d := { d with reeve := { d.reeve with noCompose := d.reeve.noCompose ++ [k / 2] } }
      (if r == b then d.publishItems else put (d.takeFromItems r) r).degrade
    | none, none, none =>
      match it.kind with
      | .image sl bf => (d.dropImageBank (d.imgNo sl bf)).degrade
      | _ => d.degrade

/-! ### Sparing (R123, R124) -/

def Dev.sparing (d : Dev) : Bool := d.on BANKS.pg BANKS.SPARE_STAT_ACTIVE

/-- The record of a fault still recovering, of the given class and place. -/
def Dev.faultOpen (d : Dev) (cls loc : Nat) : Option Nat := (d.openRecs cls).find? fun n => (d.faultWord n 4).toNat == loc

def Dev.endFaultOf (d : Dev) (cls loc state ns : Nat) : Dev :=
  match d.faultOpen cls loc with
  | some n => d.faultEnd n state ns
  | none => d

/-- Spare i (0 or 1) may take a bank: in use by none and not failed. -/
def Dev.spareFree (d : Dev) (i : Nat) : Bool :=
  if i = 0 then !d.on BANKS.pg BANKS.SPARE_MAP_S0_VALID && !d.on BANKS.pg BANKS.SPARE_MAP_S0_BAD
  else !d.on BANKS.pg BANKS.SPARE_MAP_S1_VALID && !d.on BANKS.pg BANKS.SPARE_MAP_S1_BAD

/-- The spare that serves logical bank b now. -/
def Dev.servedBy (d : Dev) (b : Nat) : Option Nat :=
  if d.on BANKS.pg BANKS.SPARE_MAP_S0_VALID && d.rd BANKS.pg BANKS.SPARE_MAP_S0_LBANK == b then some 0
  else if d.on BANKS.pg BANKS.SPARE_MAP_S1_VALID && d.rd BANKS.pg BANKS.SPARE_MAP_S1_LBANK == b then some 1 else none

/-- A bank enters DEAD (R124, R142): record, EV_SPARE_EXHAUSTED, replacement. -/
def Dev.bankDead (d : Dev) (b : Nat) : Dev :=
  let d := ((d.setBankState b 8).fault { cls := 0x04, loc := b }).raise BANKS.pg 5
  (d.replaceBank b true).publishItems

/-- Sparing of bank b starts (R123), on the bank's own die when that spare is free; with no spare the bank is DEAD. -/
def Dev.startSparing (d : Dev) (b : Nat) : Dev :=
  let own := if b < 32 then 0 else 1
  let pick := if d.spareFree own then some own else if d.spareFree (1 - own) then some (1 - own) else none
  match pick with
  | none => d.bankDead b
  | some i =>
    let d := (d.setBankState b 7).putWord BANKS.pg 0x048 (BitVec.ofNat 32 (4 + b * 256))
    let d := { d with bank := { d.bank with spareTo := i } }
    let d := ((d.busy BANKS.pg true).wr BANKS.pg HDR.PG_STAT_STATE 1).fault { cls := 0x03, state := 1, detail := 64 + i, loc := b }
    d.moot

/-- Banks whose sparing is due are spared, one at a time, each when it is READY. DESIGN CHOICE: in the order in which they came
due (log entry 62). -/
def Dev.spareNext (d : Dev) : Dev :=
  d.bank.spareDue.foldl (fun d b =>
    if d.sparing || d.bankState b != 5 then d
    else ({ d with bank := { d.bank with spareDue := d.bank.spareDue.filter (· != b) } } : Dev).startSparing b) d

/-- The spare that serves bank b has failed (R124). -/
def Dev.spareBad (d : Dev) (b : Nat) : Dev :=
  match d.servedBy b with
  | some 0 => d.wr BANKS.pg BANKS.SPARE_MAP_S0_BAD 1
  | some _ => d.wr BANKS.pg BANKS.SPARE_MAP_S1_BAD 1
  | none => d

/-- The bank has reached its threshold (R111, R123): a spare that serves it is BAD (R124), and with AUTO_SPARE 1 its sparing is
due. DESIGN CHOICE: one that comes while another runs, or while the bank is not READY, waits (log entry 62). -/
def Dev.atThreshold (d : Dev) (b : Nat) : Dev :=
  let d := d.spareBad b
  if !d.on BANKS.pg BANKS.ECC_CTL_AUTO_SPARE || d.bankState b == 7 || d.bankState b == 8 then d
  else ({ d with bank := { d.bank with spareDue := (d.bank.spareDue.filter (· != b)) ++ [b] } } : Dev).spareNext

/-- A hard-faulty word (R110). Sparing is due in the cycle in which HARD_CNT reaches the threshold. DESIGN CHOICE: a SPARE_THRESH lowered
to or below HARD_CNT, or AUTO_SPARE set, after that starts none (log entry 62). -/
def Dev.hardWord (d : Dev) (b : Nat) : Dev :=
  let was := d.rd BANKS.pg BANKS.BANK_STAT_HARD_CNT (i := b)
  let d := d.wr BANKS.pg BANKS.BANK_STAT_HARD_CNT (satU 8 (was + 1)) (i := b)
  let th := d.rd BANKS.pg BANKS.ECC_CTL_SPARE_THRESH
  if was < th && th ≤ was + 1 then d.atThreshold b else d

/-! ### ECC (R110, R111) -/

/-- One corrected read; a persisting error counts as hard (R110). -/
def Dev.corrected (d : Dev) (da : Nat) (hard : Bool) : Dev :=
  let d := d.count BANKS.pg BANKS.BANK_STAT_CORR_CNT (i := bankOf da)
  if hard then d.hardWord (bankOf da) else d

/-- A word newly found uncorrectable: its cells hold a free value from now on (log entry 7); one just fully rewritten
takes its bank to the sparing threshold (R111). Behind a running sparing's copy the spare has it good (R123). -/
def Dev.newBad (d : Dev) (w : Nat) : Dev :=
  if d.isBad w then d else
  let q := d.takeNat (2 ^ 64)
  let wasFresh := q.2.bank.fresh.contains w
  let copied := d.sparing && w / 2 ^ 21 == d.rd BANKS.pg BANKS.SPARE_STAT_BANK &&
    decide (8 * w % 2 ^ 24 < d.rd BANKS.pg BANKS.SPARE_STAT_PROGRESS_KIB * 1024)
  let kept := if copied then [(w, d.bytes (8 * w) 8)] else []
  let d := (q.2.putBytes (8 * w) (leBytes 8 q.1)).spoil w
  let d := { d with bank := { d.bank with fresh := d.bank.fresh.filter (· != w), spareKept := d.bank.spareKept ++ kept } }
  if wasFresh then d.atThreshold (w / 2 ^ 21) else d

/-- What the cells answer on the words that q picks (R110): new uncorrectable words, and corrections of the others; a word read
without an error is no longer one just rewritten (R111). -/
def Dev.eccMeet (d : Dev) (q : Nat → Bool) (ecc : Ecc) : Dev :=
  let d := (ecc.ue.filter q).foldl (fun d x => d.newBad (x / 8)) d
  let d := (ecc.single.filter fun x => q x.1 && !d.isBad (x.1 / 8)).foldl (fun d x => d.corrected x.1 x.2) d
  { d with bank := { d.bank with fresh := d.bank.fresh.filter fun w => !q (8 * w) } }

/-- Requester r reads len bytes from da: corrections, newly found uncorrectable words, and the log of each uncorrectable
word met (R110). Answers whether any word was uncorrectable. -/
def Dev.eccRead (d : Dev) (r da len : Nat) (ecc : Ecc) (write : Bool := false) : Bool × Dev :=
  let ws := wordsOf da len
  let d := d.eccMeet (fun x => ws.contains (x / 8)) ecc
  let bad := ws.filter d.isBad
  (!bad.isEmpty, bad.foldl (fun d w => d.ueLog r (8 * w) write) d)

/-- A unit of the device reads words for itself (R110): what the cells answer no command reports, so it is free (log entry 3). -/
def Dev.unitRead (d : Dev) (r : Nat) (ws : List Nat) : Dev :=
  let q := d.takeEcc
  let d := q.2.eccMeet (fun x => ws.contains (x / 8)) q.1
  (ws.filter d.isBad).foldl (fun d w => d.ueLog r (8 * w) false) d

/-- The 64-bit words of a byte range of an item. -/
def Dev.itemWords (d : Dev) (k : ItemKind) (off len : Nat) : List Nat := (wordsOf off len).map fun w => d.itemDA k (8 * w) / 8

/-- Bytes with enables, word by word: which 64-bit words are written in full. -/
def fullWords (da : Nat) (data : List (Option Byte)) : List Nat :=
  (wordsOf da data.length).filter fun w =>
    (List.range 8).all fun i => decide (da ≤ 8 * w + i) && ((data.getD (8 * w + i - da) none).isSome)

/-- A LOST bank returns to READY when its owner has written every word of it (R122). -/
def Dev.noteRewrite (d : Dev) (b : Nat) (ws : List Nat) : Dev :=
  if d.bankState b = 6 then
    let r := d.bankRec b
    let l := ws.foldl (fun (l : List Nat) w => if l.contains w then l else l ++ [w]) r.rewritten
    if l.length = 2 ^ 21 then ((d.setBankRec b { r with rewritten := [] }).setBankState b 5).spareNext
    else d.setBankRec b { r with rewritten := l }
  else d

/-- An item's contents have been made anew by its owner: its LOST banks are READY (R122; log entry 23). -/
def Dev.itemReady (d : Dev) (k : ItemKind) : Dev :=
  match d.item k with
  | some it => it.banks.foldl (fun d b =>
      if d.bankState b = 6 then ((d.setBankState b 5).setBankRec b { d.bankRec b with rewritten := [] }).spareNext else d) d
  | none => d

/-- A write performed at the bank (R110, R111): a narrow write to an uncorrectable word keeps it poisoned; a full write
makes it good. kind 1 write, 2 set, 3 clear. -/
def Dev.bankWrite (d : Dev) (r da kind : Nat) (data : List (Option Byte)) (ecc : Ecc) : Dev :=
  let full := if kind = 1 then fullWords da data else []
  let narrow := (wordsOf da data.length).filter fun w => !full.contains w
  let d := narrow.foldl (fun d w => (d.eccRead r (8 * w) 8 ecc true).2) d
  let new := data.zipIdx.map fun e => e.1.map fun b =>
    if kind = 2 then d.byte (da + e.2) ||| b else if kind = 3 then d.byte (da + e.2) &&& ~~~b else b
  let d := full.foldl (fun d w => d.cleanse w) (d.putSome da new)
  d.noteRewrite (bankOf da) full

/-! ### Host accesses (R65, R115-R118) -/

/-- An accepted access of requester r waits: for a handover to it, a zero-fill, a group that has dropped and its banks until they
are READY or LOST, or a borrowed chunk (R85, R117, R121, R126). -/
def Dev.mustWait (d : Dev) (r da : Nat) : Bool :=
  let b := bankOf da
  let x := d.bankRec b
  (d.handover b && x.next == some r) || (x.zeroFill && !d.handover b) || decide (d.bankState b < 5) ||
    d.bank.borrowed.any fun e => e.1 == b && e.2 == da % 2 ^ 24 / 4096

/-- An accepted access is performed at the bank. -/
def Dev.perform (d : Dev) (x : Access) : Dev :=
  if x.kind = 0 then
    let q := d.eccRead (x.fn + 1) x.da x.len x.ecc
    q.2.reply (q.2.bytes x.da x.len) q.1
  else d.bankWrite (x.fn + 1) x.da x.kind x.data x.ecc

/-- A host access (R115, R116): function x.fn has requester code fn + 1. The bank to be handed over to it counts as its own. -/
def Dev.hostAccess (d : Dev) (x : Access) : Dev :=
  let r := x.fn + 1
  let b := bankOf x.da
  if !(d.ownerAccess r b (x.kind != 0) || (d.handover b && (d.bankRec b).next == some r)) then
    (d.notOwner r x.da (x.kind != 0) true x.hdr).onlyIf (x.kind == 0) (·.reply (List.replicate x.len 0))
  else if d.mustWait r x.da then { d with bank := { d.bank with waiting := d.bank.waiting ++ [x] } }
  else d.perform x

/-- Accepted accesses that need wait no longer are performed, in order, whoever owns the bank by now (R117). -/
def Dev.serveWaiting (d : Dev) : Dev :=
  d.bank.waiting.foldl (fun d x =>
    if d.mustWait (x.fn + 1) x.da then { d with bank := { d.bank with waiting := d.bank.waiting ++ [x] } } else d.perform x)
    { d with bank := { d.bank with waiting := [] } }

def execBar2BankRead (f : Fin 3) (hdr : List Word) (da len : Nat) (ecc : Ecc) (s : State) : Out :=
  finish (fun d => d.hostDo (.bar2BankRead f hdr da len ecc) (Req.ofFn f) hdr false fun d =>
    d.hostAccess ⟨0, f.val, hdr, da % 2 ^ 30, len, [], ecc⟩) s
def execBar2BankWrite (f : Fin 3) (hdr : List Word) (da : Nat) (data : List (Option Byte)) (ecc : Ecc) (s : State) : Out :=
  finish (fun d => d.hostDo (.bar2BankWrite f hdr da data ecc) (Req.ofFn f) hdr true fun d =>
    d.hostAccess ⟨1, f.val, hdr, da % 2 ^ 30, data.length, data, ecc⟩) s
def execBar2SetAliasWrite (f : Fin 3) (hdr : List Word) (da : Nat) (data : List (Option Byte)) (ecc : Ecc) (s : State) : Out :=
  finish (fun d => d.hostDo (.bar2SetAliasWrite f hdr da data ecc) (Req.ofFn f) hdr true fun d =>
    d.hostAccess ⟨2, f.val, hdr, da % 2 ^ 30, data.length, data, ecc⟩) s
def execBar2ClearAliasWrite (f : Fin 3) (hdr : List Word) (da : Nat) (data : List (Option Byte)) (ecc : Ecc) (s : State) : Out :=
  finish (fun d => d.hostDo (.bar2ClearAliasWrite f hdr da data ecc) (Req.ofFn f) hdr true fun d =>
    d.hostAccess ⟨3, f.val, hdr, da % 2 ^ 30, data.length, data, ecc⟩) s

/-- One line of a READY bank is scrubbed while SCRUB_EN is 1 (R112); a borrowed chunk is skipped. -/
def execScrubLine (b : Fin 64) (line : Nat) (ecc : Ecc) (s : State) : Out :=
  finish (fun d =>
    let da := b.val * 2 ^ 24 + line % 2 ^ 18 * 64
    if d.on BANKS.pg BANKS.ECC_CTL_SCRUB_EN && d.bankState b.val == 5 &&
        !(d.bank.borrowed.contains (b.val, line % 2 ^ 18 / 64)) then (d.eccRead Own.SCRUB da 64 ecc).2 else d) s

/-! ### Handover (R117) -/

/-- A layer source in bank b loses its owner in a running compose: a fetch error (R145, R160). -/
def Dev.ownerLost (d : Dev) (b : Nat) : Dev :=
  match d.couch.pass with
  | none => d
  | some p =>
    if p.img.isNone then d
    else
      let q := d.composeLine
      (List.range 12).foldl (fun d m =>
        match d.usedVals p.vals m with
        | some v => if lf v m MOULD.LAYER_CTL_SRC_LOC == 1 && !offScreen v m d.mode.w d.mode.h && (let e := srcExtent v m; decide (bankOf e.1 ≤ b ∧ b ≤ bankOf (e.2 - 1)))
            then d.fetchError p.vals m q.1 else d
        | none => d) q.2

/-- An accepted change of OWNER begins (R117): HANDOVER, and whether the receiving function's bank is zero-filled first. From
then on the old owner has no owner access, which a layer source may meet. A bank under test comes as a FREE one (R126). -/
def Dev.startHandover (d : Dev) (b o : Nat) : Dev :=
  let was := d.owner b
  let fill := 1 ≤ o && o ≤ 3 && was != o && (was ≤ 3 || was == Own.MTEST)
  ((d.setBankRec b { d.bankRec b with next := some o, zeroFill := fill }).wr BANKS.pg BANKS.BANK_STAT_HANDOVER 1 (i := b)).ownerLost b

/-- The code with which an OWNER write is dropped (R114, R117): a code that owns nothing, a writer that is neither the owner nor
PF0, a Reeve bank, a drain. DESIGN CHOICE: while a write waits for the bank to be READY (R128), or the bank is zero-filled after a
handover, a further one is dropped as in a drain (log entry 62). -/
def Dev.ownerBad (d : Dev) (who : Req) (b o : Nat) : Option Nat :=
  if o ≥ 12 then some E.RANGE
  else if !(who == .pf0 || d.owner b == Own.of who) then some E.NOT_OWNER
  else if 1 ≤ d.region b && d.region b ≤ 5 then some E.STATE
  else if d.handover b || (d.bankRec b).deferred.isSome then some E.BUSY
  else none

/-- A LOST bank whose OWNER is written is READY (R122). -/
def Dev.ownerRevives (d : Dev) (b : Nat) : Dev :=
  if d.bankState b = 6 then ((d.setBankState b 5).setBankRec b { d.bankRec b with rewritten := [] }).spareNext else d

/-- An OWNER write (R117, R128): in VERIFY or ZEROING it takes effect later; in LOST it returns the bank to READY (R122). OWNER
FREE of a claimed bank is a release (R134). -/
def Dev.writeOwner (d : Dev) (who : Req) (b o : Nat) : Dev :=
  match d.ownerBad who b o with
  | some code => d.err BANKS.pg code (0x100 + 4 * b) who.code
  | none =>
    if d.bankState b = 3 || d.bankState b = 4 then d.setBankRec b { d.bankRec b with deferred := some o }
    else (d.ownerRevives b).startHandover b o

def execOwnerWrite (a : Acc) (b : Fin 64) (owner : Fin 16) (s : State) : Out :=
  hostWrite (.ownerWrite a b owner) a (fun d => d.guarded a BANKS.pg (0x100 + 4 * b.val) fun d => d.writeOwner a.who b.val owner.val) s

/-- A bank is READY or LOST: a deferred OWNER write takes effect, waiting accesses proceed, a sparing that is due starts (R121, R123,
R128). -/
def Dev.bankReady (d : Dev) (b : Nat) : Dev :=
  let x := d.bankRec b
  let d := match x.deferred with
    | some o => ((d.setBankRec b { x with deferred := none }).ownerRevives b).startHandover b o
    | none => d
  d.serveWaiting.spareNext

/-- The drain ends (R117): a borrowed chunk has been restored and the old owner's accesses are done by then (R128); OWNER takes its
new value, HANDOVER clears, EV_BANK_HANDOVER is raised. A bank that became FREE is no longer claimed; one that a function
receives is ZEROING first, where it is so to be (R119). DESIGN CHOICE: of a bank in RETAIN the zero-fill clears the contents and the
signature stays, so that its next VERIFY finds a mismatch (log entry 62). -/
def Dev.handoverDone (d : Dev) (b o : Nat) : Dev :=
  let d := ({ d with bank := { d.bank with borrowed := d.bank.borrowed.filter fun e => e.1 != b } } : Dev).serveWaiting
  let d := (d.wr BANKS.pg BANKS.BANK_CFG_OWNER o (i := b)).wr BANKS.pg BANKS.BANK_STAT_HANDOVER 0 (i := b)
  let d := d.setBankRec b { d.bankRec b with next := none }
  let d := if (d.bankRec b).zeroFill then (d.eraseBank b).onlyIf (d.bankState b == 5) (·.setBankState b 4) else d
  let d := if o = 0 then d.wr BANKS.pg BANKS.BANK_CFG_REGION 0 (i := b)
    else if o ≤ 3 then d.wr BANKS.pg BANKS.BANK_CFG_REGION 6 (i := b) else d
  (d.publishItems.raise BANKS.pg 2).serveWaiting

def execHandoverDone (b : Fin 64) (s : State) : Out :=
  finish (fun d =>
    match d.handover b.val, (d.bankRec b.val).next with
    | true, some o => d.handoverDone b.val o
    | _, _ => d) s

/-- The zero-fill of a received bank ends and its owner's accesses proceed (R117). -/
def execHandoverZeroFillDone (b : Fin 64) (s : State) : Out :=
  finish (fun d =>
    if (d.bankRec b.val).zeroFill && !d.handover b.val then
      ((d.setBankRec b.val { d.bankRec b.val with zeroFill := false, markLost := (d.bankRec b.val).markLost && d.bankState b.val != 4 }).onlyIf (d.bankState b.val == 4) (·.setBankState b.val 5)).bankReady b.val
    else d) s

/-- ZEROING ends: READY (R121). -/
def execBankZeroingDone (b : Fin 64) (s : State) : Out :=
  finish (fun d =>
    if d.bankState b.val = 4 && !(d.bankRec b.val).zeroFill then
      (((d.eraseBank b.val).setBankRec b.val { d.bankRec b.val with markLost := false }).setBankState b.val 5).bankReady b.val else d) s

/-- SIGN ends (R120): the signature over the bank's bytes in ascending DA; an uncorrectable word, or a bank that was LOST, marks it
for LOST. DEDUCED: the device's own reads for a signature have no requester code and leave UE_LOG as it is (log entry 62). -/
def execBankSignDone (b : Fin 64) (ecc : Ecc) (s : State) : Out :=
  finish (fun d =>
    if d.bankState b.val = 1 then
      let d := d.eccMeet (fun x => bankOf x == b.val) ecc
      let bad := d.bank.bad.any fun w => w / 2 ^ 21 == b.val
      let r := d.bankRec b.val
      (d.setBankRec b.val { r with sig := crc64 (d.bytes (b.val * 2 ^ 24) (2 ^ 24)), markLost := r.markLost || bad }).setBankState b.val 2
    else d) s

/-! ### Sparing commands (R123, R60) -/

/-- A list of numbers in ascending order. -/
def ascending : List Nat → List Nat
  | [] => []
  | x :: l => (ascending l).takeWhile (fun y => decide (y < x)) ++ x :: (ascending l).dropWhile (fun y => decide (y < x))

/-- The copy has gone on to `kib` KiB (R123): what its reads have met since is corrected, or logged in ascending DA (R110). -/
def Dev.copyTo (d : Dev) (kib : Nat) : Dev :=
  let base := d.rd BANKS.pg BANKS.SPARE_STAT_BANK * 2 ^ 24
  let lo := base + d.rd BANKS.pg BANKS.SPARE_STAT_PROGRESS_KIB * 1024
  let hi := base + kib * 1024
  let q := d.takeEcc
  let d := q.2.eccMeet (fun x => decide (lo ≤ x ∧ x < hi)) q.1
  let met := ascending (d.bank.bad.filter fun w => decide (lo ≤ 8 * w ∧ 8 * w < hi))
  (met.foldl (fun d w => d.ueLog Own.SPARE_COPY (8 * w) false) d).wr BANKS.pg BANKS.SPARE_STAT_PROGRESS_KIB kib

/-- How far the running copy has come when it is looked at: its pace is what other traffic leaves it (R123), a free value that
never falls (log entry 62). -/
def Dev.copyOn (d : Dev) : Dev :=
  let p := d.rd BANKS.pg BANKS.SPARE_STAT_PROGRESS_KIB
  let q := d.takeNat (16384 - p + 1)
  q.2.copyTo (p + q.1)

/-- SPARE_STAT with an outcome; PROGRESS stays. -/
def Dev.endSparing (d : Dev) (outcome : Nat) : Dev :=
  let d : Dev := { d with bank := { d.bank with spareKept := [] } }
  let d := (d.wr BANKS.pg BANKS.SPARE_STAT_OUTCOME outcome).wr BANKS.pg BANKS.SPARE_STAT_ACTIVE 0
  (d.busy BANKS.pg false).wr BANKS.pg HDR.PG_STAT_STATE 0

/-- Abort the running sparing before its commit point: the spare is released, the old bank stays in use (R123). -/
def Dev.abortSparing (d : Dev) (func : Nat) : Dev :=
  if d.sparing then
    let d := d.copyOn
    let b := d.rd BANKS.pg BANKS.SPARE_STAT_BANK
    let d := ((d.setBankState b 5).endSparing 1).endFaultOf 0x03 b 2 0
    ((d.err BANKS.pg E.ABORTED 0x044 func).moot).spareNext
  else d

def Dev.spareGo (d : Dev) (who : Req) (b : Nat) : Dev :=
  if d.sparing then d.err BANKS.pg E.BUSY 0x044 who.code
  else if d.bankState b != 5 then d.err BANKS.pg E.STATE 0x044 who.code
  else d.startSparing b

/-- SPARE_CTL.START, by PF0 (R123): with ABORT in the same word the abort is arbitrated first (R60). -/
def execSpareStart (a : Acc) (x : Word) (s : State) : Out :=
  hostWrite (.spareStart a x) a (fun d => d.guarded a BANKS.pg 0x044 fun d =>
    let d := d.storeRw BANKS.pg 0x044 x
    let d := if BANKS.SPARE_CTL_ABORT.of x = 1 then d.abortSparing a.who.code else d
    if a.who == .pf0 then d.spareGo a.who (BANKS.SPARE_CTL_BANK.of x) else d.privDrop a BANKS.pg 0x044) s

/-- SPARE_CTL.ABORT (R60): ABORTED before the commit point; after it the sparing has ended, so that nothing is running. -/
def execSpareAbort (a : Acc) (s : State) : Out :=
  hostWrite (.spareAbort a) a (fun d => d.guarded a BANKS.pg 0x044 fun d => d.abortSparing a.who.code) s

/-- SPARE_MAP switches bank b to the spare it was copied to (R123). -/
def Dev.spareSwitch (d : Dev) (b : Nat) : Dev :=
  let d := match d.servedBy b with
    | some 0 => d.wr BANKS.pg BANKS.SPARE_MAP_S0_VALID 0
    | some _ => d.wr BANKS.pg BANKS.SPARE_MAP_S1_VALID 0
    | none => d
  if d.bank.spareTo = 0 then (d.wr BANKS.pg BANKS.SPARE_MAP_S0_LBANK b).wr BANKS.pg BANKS.SPARE_MAP_S0_VALID 1
  else (d.wr BANKS.pg BANKS.SPARE_MAP_S1_LBANK b).wr BANKS.pg BANKS.SPARE_MAP_S1_VALID 1

/-- From now on the spare serves: words that it holds good are good (R123). -/
def Dev.spareGood (d : Dev) : Dev :=
  d.bank.spareKept.foldl (fun d e =>
    let d := d.putBytes (8 * e.1) e.2
    { d with bank := { d.bank with bad := d.bank.bad.filter (· != e.1) } }) d

/-- The commit point (R123): the copy is whole, SPARE_MAP switches, the bank is READY on its new physical bank, EV_SPARE_DONE. DESIGN
CHOICE: HARD_CNT counts anew for the spare (log entry 62). -/
def Dev.spareCommit (d : Dev) (b : Nat) : Dev :=
  let d := (((d.copyTo 16384).spareGood.spareSwitch b).setBankState b 5).wr BANKS.pg BANKS.BANK_STAT_HARD_CNT 0 (i := b)
  let d := (d.endSparing 0).endFaultOf 0x03 b 0 0
  ((d.raise BANKS.pg 4).moot).spareNext

def execSpareCommit (s : State) : Out :=
  finish (fun d => if d.sparing then d.spareCommit (d.rd BANKS.pg BANKS.SPARE_STAT_BANK) else d) s

/-- The copy into a replacement bank ends (R142). -/
def execReplacementCopyDone (b : Fin 64) (s : State) : Out :=
  finish (fun d => d.setBankRec b.val { d.bankRec b.val with copying := false }) s

/-! ### MTEST (R125-R127) -/

/-- MTEST works: enabled, and not at E1 or above (R303). -/
def Dev.mtestOn (d : Dev) : Bool := d.on MTEST.pg HDR.PG_CTL_ENABLE && d.rd TITHE.pg TITHE.ECON_STAT_LEVEL == 0

/-- The FREE bank that MTEST has taken (R126). -/
def Dev.underTest (d : Dev) : Option Nat := (List.range 64).find? fun b => d.owner b == Own.MTEST && d.region b == 0

/-- MTEST.PG_STAT.STATE (R125). -/
def Dev.mtestState (d : Dev) : Nat :=
  if !d.bank.borrowed.isEmpty then 2 else if d.mtestOn && d.underTest.isSome then 1 else 0

/-- The images and lines that the Calenders may fetch within the next n line times (R21, R127): each following port's share one
fetch, at most four lines ahead of the scan, into the next pass too; a port in its restart pass has a raster of its own. -/
def Dev.nearLines (d : Dev) (n : Nat) : List (Nat × Nat × Nat) :=
  let m := d.mode
  [0, 1].flatMap fun p =>
    let r := d.portR p
    if d.portState p = 1 then
      let hi := d.rd SCAN.pg SCAN.POS_LINE + n + 4
      [(d.scanImage, r.ready, min hi m.h), (d.imgOfSlot ((d.slotNo + 1) % m.s), 0, hi - (m.h + m.vb))]
    else if d.portState p = 2 then [((d.calSt p).img, r.ready, min (r.line + n + 4) m.h)]
    else []

/-- Chunk c of bank b holds bytes of lines lo to hi - 1 of image k: a granule of the item (R138). -/
def Dev.chunkHolds (d : Dev) (b c k lo hi : Nat) : Bool :=
  match d.item (d.mode.imgKind k) with
  | some it =>
    let g := lo * d.mode.lineBytes / 4096
    decide (lo < hi) && it.banks.contains b && (List.range (ceilDiv (hi * d.mode.lineBytes) 4096 - g)).any fun i =>
      d.itemDA (d.mode.imgKind k) ((g + i) * 4096) == b * 2 ^ 24 + c * 4096
  | none => false

/-- Whether R127 and R268 let chunk c of bank b be borrowed: of FRAME only in vertical blank or away from the lines about to be
fetched, of a demura map only while no copier runs on it. -/
def Dev.borrowable (d : Dev) (b c : Nat) : Bool :=
  (d.region b != 1 || !d.scan.run || d.on SCAN.pg SCAN.POS_BLANK ||
    !((d.nearLines 8).any fun e => d.chunkHolds b c e.1 e.2.1 e.2.2)) &&
  !([0, 1].any fun p => ((d.item (.demura p)).any fun it => it.banks.contains b) &&
    ((d.calSt p).load.any fun l => l.target == 0 && decide (4 ≤ l.step)))

/-- MTEST borrows a 4 KiB chunk of a lent bank in READY, not SPARING, VERIFY, ZEROING or LOST (R126, R127). -/
def execMtestBorrow (b : Fin 64) (chunk : Fin 4096) (s : State) : Out :=
  finish (fun d =>
    if d.mtestOn && d.on MTEST.pg MTEST.MT_CTL_LENT_EN && d.on BANKS.pg BANKS.BANK_CFG_LEND (i := b.val) &&
        d.bankState b.val == 5 && !d.handover b.val && !(d.bank.borrowed.any fun e => e.1 == b.val) && d.borrowable b.val chunk.val then
      let d := { d with bank := { d.bank with borrowed := d.bank.borrowed ++ [(b.val, chunk.val)] } }
      d.putWord MTEST.pg 0x044 (BitVec.ofNat 32 (b.val + chunk.val * 256))
    else d) s

/-- n failing words found in bank b: MT_FAILS, EV_MTEST_FAIL, hard-faulty words (R126). -/
def Dev.mtestFails (d : Dev) (b n : Nat) : Dev :=
  if n = 0 then d
  else (List.range n).foldl (fun d _ => d.hardWord b) ((d.count MTEST.pg MTEST.MT_FAILS_COUNT n).raise MTEST.pg 0)

/-- The borrowed chunk is restored and stalled accesses proceed (R126). -/
def execMtestRestoreDone (b : Fin 64) (fails : Nat) (s : State) : Out :=
  finish (fun d =>
    if d.bank.borrowed.any fun e => e.1 == b.val then
      ((({ d with bank := { d.bank with borrowed := d.bank.borrowed.filter fun e => e.1 != b.val } } : Dev).mtestFails b.val fails).serveWaiting)
    else d) s

/-- MTEST takes a FREE bank in READY to test, as OWNER MTEST (R126), when it has none. DESIGN CHOICE: in a cycle of device time, and
which bank is free (log entry 62). -/
def Dev.mtestTake (d : Dev) : Dev :=
  let free := (List.range 64).filter fun b => d.region b == 0 && d.owner b == 0 && d.bankState b == 5 && !d.handover b
  if !d.mtestOn || !d.on MTEST.pg MTEST.MT_CTL_FREE_EN || d.underTest.isSome || free.isEmpty then d
  else
    let q := d.takeNat free.length
    let b := free.getD q.1 0
    (q.2.wr BANKS.pg BANKS.BANK_CFG_OWNER Own.MTEST (i := b)).putWord MTEST.pg 0x044 (BitVec.ofNat 32 b)

/-- How far the test of the FREE bank has come when it is looked at (R125): time decides, so a free value that never falls (log
entry 62). -/
def Dev.mtestAt (d : Dev) : Dev :=
  let c := d.rd MTEST.pg MTEST.MT_POS_CHUNK
  let q := d.takeNat (4096 - c)
  q.2.wr MTEST.pg MTEST.MT_POS_CHUNK (c + q.1)

/-- A whole-bank pass of the FREE bank under test ends: counted, its failing words too, and the bank returned zero-filled (R126). -/
def execMtestPassDone (b : Fin 64) (fails : Nat) (s : State) : Out :=
  finish (fun d =>
    if d.mtestOn && d.underTest == some b.val && d.bankState b.val == 5 then
      let d := (d.eraseBank b.val).wr BANKS.pg BANKS.BANK_CFG_OWNER 0 (i := b.val)
      let d := d.putWord MTEST.pg 0x044 (BitVec.ofNat 32 (b.val + 4095 * 256))
      (d.count MTEST.pg MTEST.MT_PASSES_COUNT).mtestFails b.val fails
    else d) s

/-! ### Claims (R134) -/

def Dev.claimBusy (d : Dev) : Bool := d.on REEVE.pg REEVE.CLAIM_STAT_BUSY

/-- Set CLAIM_STAT.BUSY and remember the claim. -/
def Dev.beginClaim (d : Dev) (c : ClaimSt) : Dev :=
  { d.wr REEVE.pg REEVE.CLAIM_STAT_BUSY 1 with bank := { d.bank with claim := some c } }

/-- The most banks the active or a pending configuration needs. -/
def Dev.needMost (d : Dev) : Nat :=
  let views := (d.regs, d.reeve.maps) :: ([0, 1, 2, 3].filterMap fun g => (d.grp g).pend.map fun c => (d.viewWith g c.copy, c.maps))
  views.foldl (fun n v => max n (needed v.1 v.2 ((modeOf v.1).getD Mode.base))) 0

/-- A claimed bank leaves FREE or LAYER and is handed over (R134). -/
def Dev.claimNow (d : Dev) (b o : Nat) : Dev :=
  let layer := d.region b == 4
  let d := d.onlyIf layer fun d => (d.takeFromItems b).dropCaches
  ((d.wr BANKS.pg BANKS.BANK_CFG_REGION 6 (i := b)).publishItems).startHandover b o

/-- A claim (R134): refused with E_RANGE, E_BUSY (while another runs, or under R117 while the bank is handed over), E_STATE or
E_NO_PLACE; a FREE bank is handed over at once, a LAYER
bank leaves LAYER at the next FLE first. -/
def Dev.doClaim (d : Dev) (who : Req) (b o : Nat) : Dev :=
  let e (c : Nat) := d.err REEVE.pg c 0x044 who.code
  if !(1 ≤ o && o ≤ 3) then e E.RANGE
  else if d.claimBusy then e E.BUSY
  else if [0, 1, 2, 3].any (fun g => (d.grp g).check.isSome) then d.beginClaim ⟨b, o, false, some who⟩
  else if d.bankState b = 8 || d.region b = 6 || d.region b = 1 || d.region b = 2 || d.region b = 3 || d.region b = 5 then e E.STATE
  else if d.handover b || (d.bankRec b).deferred.isSome then e E.BUSY
  else if d.avail.length < d.needMost + 1 then e E.NO_PLACE
  else if d.region b = 4 && d.scan.run then d.beginClaim ⟨b, o, true, none⟩
  else (d.claimNow b o).beginClaim ⟨b, o, false, none⟩

def Dev.doRelease (d : Dev) (who : Req) (b : Nat) : Dev :=
  let e (c : Nat) := d.err REEVE.pg c 0x044 who.code
  if d.claimBusy then e E.BUSY
  else if d.region b != 6 then e E.STATE
  else if d.handover b || (d.bankRec b).deferred.isSome then e E.BUSY
  else (d.startHandover b 0).beginClaim ⟨b, 0, false, none⟩

/-- A claim that waited for a commit check goes on when no check runs (R144). -/
def Dev.claimChecked (d : Dev) : Dev :=
  match d.bank.claim with
  | some c => match c.waitCheck with
    | some who =>
      if [0, 1, 2, 3].any (fun g => (d.grp g).check.isSome) then d
      else ({ d.wr REEVE.pg REEVE.CLAIM_STAT_BUSY 0 with bank := { d.bank with claim := none } } : Dev).doClaim who c.bank c.owner
    | none => d
  | none => d

/-- REEVE.CLAIM.DO_CLAIM; with DO_RELEASE in the same word neither is done (R134). -/
def execClaim (a : Acc) (x : Word) (s : State) : Out :=
  hostWrite (.claim a x) a (fun d => d.guarded a REEVE.pg 0x044 fun d =>
    let d := d.storeRw REEVE.pg 0x044 x
    if REEVE.CLAIM_DO_RELEASE.of x = 1 then d.err REEVE.pg E.RANGE 0x044 a.who.code
    else d.doClaim a.who (REEVE.CLAIM_BANK.of x) (REEVE.CLAIM_FOR.of x)) s

def execRelease (a : Acc) (x : Word) (s : State) : Out :=
  hostWrite (.release a x) a (fun d => d.guarded a REEVE.pg 0x044 fun d =>
    let d := d.storeRw REEVE.pg 0x044 x
    if REEVE.CLAIM_DO_CLAIM.of x = 1 then d.err REEVE.pg E.RANGE 0x044 a.who.code
    else d.doRelease a.who (REEVE.CLAIM_BANK.of x)) s

/-- The claim's handover has ended: BUSY clears, EV_CLAIM_DONE (R134). -/
def execClaimDone (s : State) : Out :=
  finish (fun d =>
    match d.bank.claim with
    | some c =>
      if c.waitFle || c.waitCheck.isSome || d.handover c.bank then d
      else ({ d.wr REEVE.pg REEVE.CLAIM_STAT_BUSY 0 with bank := { d.bank with claim := none } } : Dev).publishItems.raise REEVE.pg 5
    | none => d) s

/-! ### Migration (R139, R140) -/

/-- REEVE.SEED_LAYER, SEED_STAGE, SEED_AUX of a region code. -/
def seedOff (region : Nat) : Nat := if region = 4 then 0x078 else if region = 5 then 0x07C else 0x080

def kindOfRegion (region : Nat) : ItemKind := if region = 4 then .layer else if region = 5 then .stage else .aux

/-- The address that DA x of row r of an item with these banks has under another seed: its granule turns by whole banks (R138). -/
def turnDA (banks : List Nat) (old new : Word) (x : Nat) : Nat :=
  let n := banks.length
  let r := x % 2 ^ 24 / 4096
  let h (s : Word) := crc32c (leBytes 4 (r ^^^ s.toNat)) % n
  banks.getD ((banks.idxOf (bankOf x) + h new + n - h old) % n) 0 * 2 ^ 24 + x % 2 ^ 24

/-- Move rows lo to hi - 1 of an item from one seed to another (R140): their bytes, and the marks of their words. -/
def Dev.reseed (d : Dev) (banks : List Nat) (old new : Word) (lo hi : Nat) : Dev :=
  let at_ (x : Nat) : Bool := banks.contains (bankOf x) && decide (lo ≤ x % 2 ^ 24 / 4096 ∧ x % 2 ^ 24 / 4096 < hi)
  let word (w : Nat) : Nat := if at_ (8 * w) then turnDA banks old new (8 * w) / 8 else w
  let cells := d.bank.mem.filter fun c => at_ c.1
  let d := cells.foldl (fun d c => d.putByte c.1 0) d
  let d := cells.foldl (fun d c => d.putByte (turnDA banks old new c.1) c.2) d
  { d with bank := { d.bank with bad := d.bank.bad.map word, fresh := d.bank.fresh.map word } }

/-- The banks of the region of a migration. -/
def Dev.migBanks (d : Dev) (m : Migration) : List Nat := ((d.item (kindOfRegion m.region)).map (·.banks)).getD []

/-- Rows of a hashed region of n banks that hold data (R140). -/
def Dev.dataRows (d : Dev) (region n : Nat) : Nat :=
  let bytes := if region = 4 then d.reeve.caches.foldl (fun a c => max a (c.off + c.len)) 0
    else if region = 5 then d.mode.h * d.mode.lineBytes else 2 ^ 24
  min 4096 (ceilDiv bytes (4096 * n))

/-- Rows that a migration moves: those that held data when it started, and those that have come to since (R140). -/
def Dev.migRows (d : Dev) (m : Migration) : Nat := max m.rows (d.dataRows m.region (d.migBanks m).length)

/-- The running migration has moved its rows below k (R140). -/
def Dev.migTo (d : Dev) (m : Migration) (k : Nat) : Dev :=
  (d.reseed (d.migBanks m) (d.word REEVE.pg (seedOff m.region)) m.seed (d.rd REEVE.pg REEVE.MIG_STAT_ROWS_DONE) k).wr
    REEVE.pg REEVE.MIG_STAT_ROWS_DONE k

/-- How far the running migration has come when it is looked at: time decides, so a free value that never falls (log entry 62). -/
def Dev.migOn (d : Dev) : Dev :=
  match d.reeve.mig with
  | some m =>
    let n := d.rd REEVE.pg REEVE.MIG_STAT_ROWS_DONE
    let q := d.takeNat (d.migRows m - n + 1)
    if m.rollback then d else q.2.migTo m (n + q.1)
  | none => d

def Dev.endMigration (d : Dev) (outcome : Nat) : Dev :=
  let d := { d with reeve := { d.reeve with mig := none } }
  let d := (d.wr REEVE.pg REEVE.MIG_STAT_OUTCOME outcome).wr REEVE.pg REEVE.MIG_STAT_ACTIVE 0
  (d.busy REEVE.pg false).reeveState.raise REEVE.pg 2

/-- The commit point of a migration (R140): the last row is moved and SEED takes the new value. -/
def execMigrationCommit (s : State) : Out :=
  finish (fun d =>
    match d.reeve.mig with
    | some m =>
      if m.rollback then d
      else (((d.migTo m (d.migRows m)).putWord REEVE.pg (seedOff m.region) m.seed).count REEVE.pg REEVE.RESEED_CNT_DONE).endMigration 0
    | none => d) s

/-- An abort before the commit point: finished rows are moved back before OUTCOME reads ABORTED (R140). -/
def Dev.abortMigration (d : Dev) (func : Nat) : Dev :=
  match d.reeve.mig with
  | some m => if m.rollback then d
      else
        let d := d.migOn
        ({ d with reeve := { d.reeve with mig := some { m with rollback := true } } } : Dev).err REEVE.pg E.ABORTED 0x084 func
  | none => d

def execMigrationAbort (a : Acc) (s : State) : Out :=
  hostWrite (.migrationAbort a) a (fun d => d.guarded a REEVE.pg 0x084 fun d => d.abortMigration a.who.code) s

def execMigrationRollbackDone (s : State) : Out :=
  finish (fun d =>
    match d.reeve.mig with
    | some m =>
      if m.rollback then
        let d := d.reseed (d.migBanks m) m.seed (d.word REEVE.pg (seedOff m.region)) 0 (d.rd REEVE.pg REEVE.MIG_STAT_ROWS_DONE)
        (d.wr REEVE.pg REEVE.MIG_STAT_ROWS_DONE 0).endMigration 1
      else d
    | none => d) s

end Sys2Proof.Machine
end

