-- ==== Sys2Proof/Machine/ComposeEnd.lean ====
section
/-! DEFINITION. What the Reeve does at the end of a compose (R136, R139, R141): caches filled, conflicts judged, a migration
started. -/

namespace Sys2Proof.Machine

/-! ### Caches at the end of a compose (R136) -/

/-- A layer of the compose was served from its cache. -/
def Dev.servedCached (d : Dev) (v : Regs) (m : Nat) : Bool :=
  match (d.layer m).use with
  | .fresh => d.cached v m
  | .held => match (d.layer m).held with
    | some h => d.cached (heldVals v m h) m
    | none => false
  | _ => false

/-- A compose fills the caches of the host layers that it has fetched whole. -/
def Dev.fillCaches (d : Dev) (v : Regs) : Dev :=
  d.reeve.caches.foldl (fun d c =>
    let l := d.layer c.layer
    let from_ : Option (Regs × List Host.Cell) := match l.use, l.held with
      | .fresh, _ => if l.failLine.isSome then none else some (v, l.bytes)
      | .held, some h => if l.failLine.isSome then none else some (heldVals v c.layer h, l.heldBytes)
      | _, _ => none
    match from_ with
    | some (u, bytes) =>
      if c.filled || (d.item .layer).isNone || c.src != srcFields u c.layer || offScreen u c.layer d.mode.w d.mode.h then d
      else
        let e := srcExtent u c.layer
        let d := d.putItem .layer c.off ((List.range (e.2 - e.1)).map fun i => mget memDefault bytes (e.1 + i))
        { d with reeve := { d.reeve with caches := d.reeve.caches.map fun x => if x == c then { x with filled := true } else x } }
    | none => d) d

/-- Composes since a layer's source fields changed, for the layers of the image (R136). -/
def Dev.countSeen (d : Dev) (v : Regs) (s : Nat) : Dev :=
  (contrib v s).foldl (fun d m =>
    let old := mget (fun _ => (([] : List Word), 0)) d.reeve.srcSeen m
    let f := srcFields v m
    let new := (f, if old.1 == f then min (old.2 + 1) 8 else 1)
    { d with reeve := { d.reeve with srcSeen := mset (fun _ => (([] : List Word), 0)) d.reeve.srcSeen m new } }) d

/-! ### Conflicts and re-seeding (R139) -/

/-- Largest over mean of per-bank counts, times 16 (U4.4 scale), as a fraction. -/
def confRatio (xs : List Nat) : Rat :=
  if sumNat xs = 0 then 0 else mkRat (16 * (xs.foldl max 0) * xs.length) (sumNat xs)

/-- The ratio of a sample of granules under a seed. -/
def sampleRatio (banks : List Nat) (seed : Word) (gs : List Nat) : Rat :=
  let hit := gs.map fun g => bankOf (hashDA banks seed (4096 * g))
  confRatio (banks.map fun b => (hit.filter (· == b)).length)

/-- The best of the candidate seeds crc32c(le32(s xor j)), j = 1 to K, if one beats the present seed. -/
def bestSeed (banks gs : List Nat) (s : Word) (k : Nat) : Option Word :=
  ((List.range k).foldl (fun (a : Rat × Option Word) j =>
    let c := BitVec.ofNat 32 (crc32c (leBytes 4 (s ^^^ BitVec.ofNat 32 (j + 1)).toNat))
    let r := sampleRatio banks c gs
    if r < a.1 then (r, some c) else a) (sampleRatio banks s gs, none)).2

/-- Imbalances of one region in a row, and the migration they start; one met while a migration runs is ignored (R144). K is the
firmware's: a free value of 8 to 32 (log entry 3). -/
def Dev.judgeRegion (d : Dev) (c : Met) (region : Nat) : Dev :=
  match d.item (kindOfRegion region) with
  | none => d
  | some it =>
    let of (f : Fin 64 × Nat × Nat → Nat) : List Nat := it.banks.map fun b => ((c.conf.find? fun e => e.1.val == b).map f).getD 0
    let bad := decide ((d.rd REEVE.pg REEVE.IMBAL_THRESH : Rat) ≤ confRatio (of fun e => e.2.1)) &&
      decide (c.cycles ≤ 20 * (of fun e => e.2.2).foldl max 0) && decide (0 < sumNat (of fun e => e.2.1))
    let migrates := d.reeve.mig.isSome
    let n := if bad && migrates then mget (fun _ => 0) d.reeve.imbal region else if bad then mget (fun _ => 0) d.reeve.imbal region + 1 else 0
    let put (d : Dev) (n : Nat) : Dev := { d with reeve := { d.reeve with imbal := mset (fun _ => 0) d.reeve.imbal region n } }
    if migrates || n < d.rd REEVE.pg REEVE.IMBAL_COMPOSES || n = 0 || !d.on REEVE.pg REEVE.CTL_RESEED_EN then put d n
    else
      let q := d.takeNat 25
      let d := put q.2 0
      let gs := ((c.samples.find? fun e => e.1 == region).map (·.2)).getD []
      match bestSeed it.banks gs (d.word REEVE.pg (seedOff region)) (8 + q.1) with
      | none => d.count REEVE.pg REEVE.RESEED_CNT_FUTILE
      | some s =>
        let d := { d with reeve := { d.reeve with mig := some ⟨region, s, d.dataRows region it.banks.length, false⟩ } }
        let d := d.putWord REEVE.pg 0x088 (BitVec.ofNat 32 (4 + region * 16))
        ((d.busy REEVE.pg true).reeveState).raise REEVE.pg 1

/-- COMPOSE_RATIO, CONFn and the judgement of each hashed region, of a compose of `pixels` output pixels (R139, R141). -/
def Dev.judge (d : Dev) (c : Met) (pixels : Nat) : Dev :=
  let fb := d.rd HOSTIF.pg HOSTIF.FETCH_BUDGET_MBPS
  let px : Rat := mkRat pixels 16
  let host : Rat := if fb = 0 then 0 else mkRat (c.host * 1000) fb
  let bank : Rat := mkRat c.bank 256
  let tn := maxR px (maxR host bank)
  let q := d.takeRound (256 * (c.cycles : Nat) / tn)
  let d := q.2.stat REEVE.pg REEVE.COMPOSE_RATIO_RATIO (satU 16 q.1.toNat)
  let d := (List.range 64).foldl (fun d b =>
    let e := ((c.conf.find? fun e => e.1.val == b).map (·.2)).getD (0, 0)
    let d := d.stat REEVE.pg REEVE.CONF_ACC_K (satU 16 (e.1 / 1024)) (i := b)
    d.stat REEVE.pg REEVE.CONF_STALL_K (satU 16 (e.2 / 1024)) (i := b)) d
  [4, 5, 3].foldl (fun d r => d.judgeRegion c r) d

/-- What the Reeve does at the end of a compose of slot s, of an image or a rectangle (R136, R139, R162). -/
def Dev.composeEnd (d : Dev) (v : Regs) (s : Nat) (c : Met) (pixels : Nat) : Dev :=
  let cached := (contrib v s).foldl (fun x i => if d.servedCached v i then x + 2 ^ i else x) 0
  let d := (d.wr REEVE.pg REEVE.CACHED_LAYERS cached).fillCaches v
  ((d.countSeen v s).judge c pixels).endCompose

end Sys2Proof.Machine
end

