-- ==== Sys2Proof/Machine/Checks.lean ====
section
/-! DEFINITION. Commit checks of the mould pages (R152, R156, R159), of SCAN (R213, R217, R229) and of SYNC (R242, R245).
A check answers the failures it finds, in ascending page and offset order: the code, and the page and offset of the
register at fault. -/

namespace Sys2Proof.Machine

/-- A failed check: code, page, offset, detail. -/
structure Bad where
  code : Nat
  pg : Nat
  off : Nat
  detail : Nat := 0
  deriving DecidableEq, Repr

def failIf (c : Bool) (code pg off : Nat) : List Bad := if c then [⟨code, pg, off, 0⟩] else []

/-! ### Layers (R152) -/

/-- The r × D of an axis lies in [1/2, 16] for an explicit D, and r in [1/4, 16] (R156). -/
def ratioOk (dst ws0 : Nat) : Bool := decide (ws0 ≤ 4 * dst ∧ dst ≤ 16 * ws0)
def decimOk (code dst ws0 : Nat) : Bool :=
  code == 0 || (let D := decimD code dst ws0; decide (ws0 ≤ 2 * dst * D ∧ dst * D ≤ 16 * ws0))

def coefSum (v : Regs) (m : Nat) (horiz : Bool) (p : Nat) : Int := (coefs v m horiz p).foldl (· + ·) 0

/-- The first programmed phase whose taps do not sum to 1,024, per table. -/
def coefBad (v : Regs) (m : Nat) (horiz : Bool) : List Bad :=
  match (List.range 64).find? fun p => coefSum v m horiz p != 1024 with
  | some p => [⟨E.RANGE, MOULD.pg m, if horiz then 0x400 + 16 * p else 0x800 + 12 * p, 0⟩]
  | none => []

/-- Checks of enabled layer m. -/
def Dev.layerBad (d : Dev) (v : Regs) (m : Nat) : List Bad :=
  let pg := MOULD.pg m
  let f (x : Fld) := lf v m x
  let big := if isVideo m then 16384 else 8192
  let turned := f MOULD.LAYER_CTL_ROT % 2 == 1
  let tiled := f MOULD.SRC_FMT_TILED == 1
  let b := bpp (f MOULD.SRC_FMT_FORMAT)
  let bank := f MOULD.LAYER_CTL_SRC_LOC == 1
  let rng (x lo hi : Nat) : Bool := decide (x < lo ∨ hi < x)
  let whBad := rng (f MOULD.SRC_WH_W) 1 big || rng (f MOULD.SRC_WH_H) 1 big
  let dstBad := isVideo m && (rng (f MOULD.DST_WH_W) 1 16384 || rng (f MOULD.DST_WH_H) 1 16384)
  let wh0 := orientWH v m
  let hi := f MOULD.SRC_ADDR_HI_ADDR
  let ext := ((srcExtent v m).1 - 2 ^ 32 * hi, (srcExtent v m).2 - 2 ^ 32 * hi)
  let fmtBad := f MOULD.SRC_FMT_FORMAT > 7 || f MOULD.SRC_FMT_TF > 4 || f MOULD.SRC_FMT_PRIM > 2 ||
    (tiled && f MOULD.SRC_FMT_FORMAT == 3) || (f MOULD.SRC_FMT_TF == 3 && f MOULD.SRC_FMT_PRIM != 2)
  let pitch := f MOULD.SRC_PITCH_PITCH
  let pitchBad := if tiled then pitch % 4096 != 0 || decide (pitch < ceilDiv (f MOULD.SRC_WH_W * b) 128 * 4096)
    else pitch % 64 != 0 || decide (pitch < f MOULD.SRC_WH_W * b)
  let lo := f MOULD.SRC_ADDR_LO_ADDR
  failIf (f MOULD.LAYER_CTL_FUNC == 3 || (turned && (!isVideo m || !tiled))) E.RANGE pg 0x040 ++
  failIf (lo % (if tiled then 4096 else 64) != 0 || (bank && (decide (2 ^ 30 ≤ lo) || decide (2 ^ 30 < ext.2)))) E.RANGE pg 0x044 ++
  failIf (bank && hi == 0 && decide (ext.2 ≤ 2 ^ 30) && f MOULD.LAYER_CTL_FUNC != 3 && !d.ownsRange (layerFn v m) ext.1 ext.2) E.NOT_OWNER pg 0x044 ++
  failIf (bank && hi != 0) E.RANGE pg 0x048 ++
  failIf fmtBad E.RANGE pg 0x04C ++ failIf pitchBad E.RANGE pg 0x050 ++ failIf whBad E.RANGE pg 0x058 ++
  failIf (dstBad || (isVideo m && !whBad && !(ratioOk (dstWH v m).1 wh0.1 && ratioOk (dstWH v m).2 wh0.2))) E.RANGE pg 0x060 ++
  failIf (rng (f MOULD.LEVELS_WHITE_NITS) 1 10000 || rng (f MOULD.LEVELS_HLG_PEAK) 100 10000) E.RANGE pg 0x068 ++
  failIf (f MOULD.FENCE_LO_ADDR % 4 != 0) E.RANGE pg 0x06C ++ failIf (f MOULD.WAIT_LINES_LINES == 0) E.RANGE pg 0x078 ++
  failIf (isVideo m && !dstBad && !whBad && !(decimOk (f MOULD.SCALE_CTL_DECIM_H) (dstWH v m).1 wh0.1 &&
    decimOk (f MOULD.SCALE_CTL_DECIM_V) (dstWH v m).2 wh0.2)) E.RANGE pg 0x07C ++
  (if isVideo m && f MOULD.SCALE_CTL_COEF_PROG == 1 then coefBad v m true ++ coefBad v m false else [])

/-- All checks of the layers with EN 1, of the line-buffer lengths that cannot be served too (R135, R152, R159). -/
def Dev.layersBad (d : Dev) (v : Regs) : List Bad :=
  let en := (List.range 12).filter fun m => lf v m MOULD.LAYER_CTL_EN == 1
  (en.flatMap fun m => d.layerBad v m) ++ (overflowing v en d.oos).map fun m => ⟨E.LB_OVERFLOW, MOULD.pg m, 0x058, 0⟩

/-! ### SCAN (R213, R217, R229) -/

/-- Declared maximum scan rate of port p, px/s (R213). -/
def maxScan (v : Regs) (p : Nat) : Rat := (v.fld (PANEL.pg p) PANEL.MAX_SCAN_MPX * 1000000 : Nat)

def viewPort (v : Regs) (p : Nat) : Bool :=
  v.fld SCAN.pg (if p = 0 then SCAN.CTL_PORT_A else SCAN.CTL_PORT_B) == 1

/-- The mode is valid (R213). -/
def modeOk (v : Regs) : Bool :=
  match modeOf v with
  | some m => decide (m.pixRate ≤ 12000000000) && [0, 1].all fun p => !viewPort v p || decide (m.pixRate ≤ maxScan v p)
  | none => false

/-- The commit would start port p's raster (R217). -/
def Dev.startsPort (d : Dev) (v : Regs) (p : Nat) : Bool :=
  v.fld SCAN.pg SCAN.CTL_RUN == 1 && viewPort v p &&
    (!(d.on SCAN.pg SCAN.CTL_RUN && d.portOn p) || d.portState p == 6)

/-- Refusals of a raster start, naming SCAN.CTL (R92, R217). -/
def Dev.rasterBad (d : Dev) (v : Regs) (ps : List Nat) : List Bad :=
  ps.flatMap fun p =>
    if !d.startsPort v p then []
    else if d.dom (4 + p) = 8 then [⟨E.STATE, SCAN.pg, 0x044, 0⟩]
    else if !d.onPll (4 + p) || d.on CLOCK.pg CLOCK.OSC_STAT_FIRC_FAILED then [⟨E.CLOCK_NOT_READY, SCAN.pg, 0x044, 0⟩]
    else []

/-- SR2 would be impossible: a P0 or P1 panel on an enabled port, S ≥ 2, or RUN 0 (R229). -/
def sr2Bad (v : Regs) : Bool :=
  ([0, 1].any fun p => viewPort v p && v.fld (PANEL.pg p) PANEL.PANEL_CFG_TYPE != 2) ||
    v.fld SCAN.pg SCAN.MODE_SEL_SLOTS != 0 || v.fld SCAN.pg SCAN.CTL_RUN == 0

/-! ### SYNC (R242, R245) -/

/-- The allowed span of slot s's window on port p, ps (R242). -/
def winSpan (v : Regs) (m : Mode) (s p : Nat) : Rat × Rat :=
  let P : Rat := (v.fld SYNC.pg SYNC.PHASE_OFFSET * 5000 : Nat)
  let free := v.fld SYNC.pg SYNC.SRC_CTL_SRC == 0
  let up : Rat := if free then 1 else 1001 / 1000
  let dn : Rat := if free then 1 else 999 / 1000
  let ts := m.tSlot
  let tl := m.tLine
  let latch := v.fld SYNC.pg (if p = 0 then SYNC.SRC_CTL_LATCH_A else SYNC.SRC_CTL_LATCH_B) == 1
  if v.fld SYNC.pg SYNC.SRC_CTL_EMISSION = 1 then
    (P + s * ts * up + (m.vb + 1) * tl, P + (s + 1) * ts * dn + m.vb * tl)
  else if latch then (P + (s + 1) * ts * up + tl, P + (s + 2) * ts * dn - tl)
  else (P + (s + 1) * ts * up + tl, P + (s + 1) * ts * dn + (m.vb - 1 : Rat) * tl)

def Mode.windowBad (m : Mode) (v : Regs) (s : Nat) : Bool :=
  let len := v.fld SYNC.pg SYNC.WIN_LEN (i := s)
  let st := v.fld SYNC.pg SYNC.WIN_START (i := s)
  len != 0 && decide (s < m.s) && [0, 1].any fun p => viewPort v p &&
    (let sp := winSpan v m s p
     decide (((st * 5000 : Nat) : Rat) < sp.1) || decide (sp.2 < (((st + len) * 5000 : Nat) : Rat)))

/-- The shortest time between two like pulses of SYNC_OUTn (R245). -/
def soGap (v : Regs) (m : Mode) (n : Nat) : Rat :=
  if v.fld SYNC.pg SYNC.SO_CTL_FUNC (i := n) = 2 then
    let ss := (List.range m.s).filter fun s => bit (v.fld SYNC.pg SYNC.SO_CTL_MASK (i := n)) s
    ss.foldl (fun g s => ss.foldl (fun (g : Rat) t =>
      let k : Nat := if t > s then t - s else t + m.s - s
      if (k : Rat) * m.tSlot < g then (k : Rat) * m.tSlot else g) g) m.tFrame
  else m.tFrame

def soBad (v : Regs) (m : Mode) (n : Nat) : Bool :=
  let f := v.fld SYNC.pg SYNC.SO_CTL_FUNC (i := n)
  let w := v.fld SYNC.pg SYNC.SO_CTL_WIDTH (i := n)
  decide (6 ≤ f) || ((f == 1 || f == 2 || f == 4) && (w == 0 || decide (soGap v m n ≤ ((w * 5000 : Nat) : Rat))))

def syncBad (v : Regs) (m : Mode) : List Bad :=
  failIf (v.fld SYNC.pg SYNC.SRC_CTL_SRC == 3) E.RANGE SYNC.pg 0x040 ++
  ((List.range 4).flatMap fun s => failIf (m.windowBad v s) E.RANGE SYNC.pg (0x04C + 8 * s)) ++
  ((List.range 2).flatMap fun n => failIf (soBad v m n) E.RANGE SYNC.pg (0x06C + 8 * n))

/-- The G_SCAN check but for placement (R213, R217, R229, R242, R245). -/
def Dev.scanBad (d : Dev) (v : Regs) : List Bad :=
  match modeOf v with
  | none => [⟨E.MODE_INVALID, SCAN.pg, 0x040, 0⟩]
  | some m =>
    failIf (!modeOk v) E.MODE_INVALID SCAN.pg 0x040 ++ d.rasterBad v [0, 1] ++
    failIf (d.rd SCAN.pg SCAN.SR_CTL_REQ == 2 && sr2Bad v) E.STATE SCAN.pg 0x044 ++ syncBad v m

end Sys2Proof.Machine
end

