-- ==== Sys2Proof/Machine/Granary.lean ====
section
/-! DEFINITION. The Granary (20_nonvolatile): its bytes and their error correction (R365-R367), page programs in round
robin (R368, R369), the three record forms (R372-R376), the host's commands (R370, R371, R380), and Filpor's two logs
(R403). -/

namespace Sys2Proof.Machine

/-- What an unlisted byte of the Granary reads as (log entry 8). -/
def nvDefault (_ : Nat) : Byte := 0

def nvWf (m : List Host.Cell) : Bool := canon nvDefault m

def Dev.nvByte (d : Dev) (ga : Nat) : Byte := mget nvDefault d.nv.mem ga
def Dev.nvBytes (d : Dev) (ga len : Nat) : List Byte := (List.range len).map fun i => d.nvByte (ga + i)
def Dev.nvNat (d : Dev) (ga w : Nat) : Nat := ofLeBytes (d.nvBytes ga w)
def Dev.nvPut (d : Dev) (ga : Nat) (b : Byte) : Dev := { d with nv := { d.nv with mem := mset nvDefault d.nv.mem ga b } }

/-- The 8-byte groups of a range. -/
abbrev groupsOf (ga len : Nat) : List Nat := wordsOf ga len

def Dev.nvAnyBad (d : Dev) (ga len : Nat) : Bool := (groupsOf ga len).any fun g => d.nv.bad.contains g

/-! ### Areas (R365) -/

abbrev fwBase (slot : Nat) : Nat := slot * 0x400000
abbrev stressSlotBase (p j : Nat) : Nat := 0x800000 + p * 0x400000 + j * 0x200000
abbrev hostArea : Nat := 0x1400000
abbrev bootRecGa : Nat := 0x1100000
abbrev ownerKeyGa : Nat := 0x1101000
abbrev rollbackGa : Nat := 0x13FF800
abbrev faultLogGa : Nat := 0x1300000
abbrev lifeIntGa : Nat := 0x13FF000
abbrev lifeOpGa : Nat := 0x13FF400

/-! ### Pages and writers (R368) -/

/-- A byte run as page programs in ascending GA: page and (offset, byte). -/
def pagesOf (ga : Nat) (data : List Byte) : List (Nat × List (Nat × Byte)) :=
  if data.isEmpty then []
  else (List.range ((ga + data.length - 1) / 256 - ga / 256 + 1)).map fun i =>
    let p := ga / 256 + i
    let lo := max (256 * p) ga
    let hi := min (256 * p + 256) (ga + data.length)
    (p, (List.range (hi - lo)).map fun j => (lo + j - 256 * p, data.getD (lo + j - ga) 0))

/-- The pages of a twin copy: those after its first in ascending GA, then the header page (R373). -/
def headerLast (l : List (Nat × List (Nat × Byte))) : List (Nat × List (Nat × Byte)) :=
  match l with
  | [] => []
  | h :: t => t ++ [h]

/-- GRANARY.PG_STAT.STATE and BUSY (R377). -/
def Dev.nvState (d : Dev) : Dev :=
  let st := if !d.nv.writers.isEmpty then 2 else match d.nv.cmd with | some c => if c.step = 1 then 1 else 0 | none => 0
  (d.wr GRANARY.pg HDR.PG_STAT_STATE st).busy GRANARY.pg d.nv.cmd.isSome

/-- A writer joins the round robin; the Granary votes D1 while any runs (R368). No page starts in a brown-out or after it (R33). -/
def Dev.addWriter (d : Dev) (who op : Nat) (pages : List (Nat × List (Nat × Byte))) : Dev :=
  if pages.isEmpty || d.halted then d
  else (({ d with nv := { d.nv with writers := d.nv.writers ++ [⟨who, op, pages⟩] } } : Dev).nvState).moot

/-- An operation ends with pages unwritten: they are no operation's any more (writer 7 above its own), and but for the one being programmed they
are dropped, unless all stay. -/
def Dev.orphanPages (d : Dev) (who : Nat) (all : Bool) : Dev :=
  let first := match d.nv.writers.head? with | some w => w.who == who | none => false
  let ws := d.nv.writers.filterMap fun w =>
    if w.who != who then some w
    else if all then some { w with who := 7 + who }
    else if first then some { w with who := 7 + who, pages := w.pages.take 1 } else none
  ({ d with nv := { d.nv with writers := ws } } : Dev).nvState.moot

def Dev.writing (d : Dev) (who : Nat) : Bool := d.nv.writers.any fun w => w.who == who

/-- The page being programmed. -/
def Dev.nvPage (d : Dev) : Option Nat := d.nv.writers.head?.bind fun w => w.pages.head?.map (·.1)

/-! ### Reading (R366, R367) -/

/-- An uncorrectable group met: UE_ADDR, UE_CNT, EV_NV_UNCORR, and a fault record whose STATE the spec leaves open
between recovered and not. -/
def Dev.nvUncorr (d : Dev) (g : Nat) : Dev :=
  let d := d.putWord GRANARY.pg 0x07C (BitVec.ofNat 32 (8 * g % 2 ^ 25 + 2 ^ 31))
  let d := (d.count GRANARY.pg GRANARY.UE_CNT_COUNT).raise GRANARY.pg 1
  let q := d.takeBool
  q.2.fault { cls := 0x0F, state := if q.1 then 0 else 2, loc := 8 * g }

/-- A group newly found uncorrectable: its cells hold a free value from now on (log entry 7). -/
def Dev.nvNewBad (d : Dev) (g : Nat) : Dev :=
  if d.nv.bad.contains g then d
  else
    let q := d.takeNat (2 ^ 64)
    let d := (leBytes 8 q.1).zipIdx.foldl (fun d e => d.nvPut (8 * g + e.2) e.1) q.2
    { d with nv := { d.nv with bad := d.nv.bad ++ [g] } }

/-- A group corrected: counted, and reprogrammed in the background as a page program of its page (R367), which rewrites what the group
then holds. -/
def Dev.nvCorrected (d : Dev) (g : Nat) : Dev :=
  (d.count GRANARY.pg GRANARY.CORR_CNT_COUNT).addWriter 5 7 [(g / 32, [])]

/-- Read len bytes from ga: what the cells answer (ecc, by GA) is taken up and logged. True: a group was uncorrectable. -/
def Dev.nvRead (d : Dev) (ga len : Nat) (ecc : Ecc) : Bool × Dev :=
  let gs := groupsOf ga len
  let d := (ecc.ue.filter fun x => gs.contains (x / 8)).foldl (fun d x => d.nvNewBad (x / 8)) d
  let d := (ecc.single.filter fun x => gs.contains (x.1 / 8) && !d.nv.bad.contains (x.1 / 8)).foldl
    (fun d x => d.nvCorrected (x.1 / 8)) d
  let bad := gs.filter d.nv.bad.contains
  (!bad.isEmpty, bad.foldl (fun d g => d.nvUncorr g) d)

/-- The controller or Filpor reads a range for itself: what the cells answer no command reports, so it is free (log entry 3). -/
def Dev.nvScan (d : Dev) (ga len : Nat) : Dev := let q := d.takeEcc; (q.2.nvRead ga len q.1).2

/-- A window read (R65, R366): held while it reaches the page being programmed. -/
def Dev.windowRead (d : Dev) (ga len : Nat) (ecc : Ecc) : Dev :=
  match d.nvPage with
  | some p =>
    if decide (ga / 256 ≤ p ∧ p ≤ (ga + len - 1) / 256) then { d with nv := { d.nv with held := d.nv.held ++ [⟨ga, len, ecc⟩] } }
    else let q := d.nvRead ga len ecc; q.2.reply (q.2.nvBytes ga len) q.1
  | none => let q := d.nvRead ga len ecc; q.2.reply (q.2.nvBytes ga len) q.1

def execGranaryWindowRead (f : Fin 3) (ga len : Nat) (ecc : Ecc) (s : State) : Out :=
  finish (fun d => d.hostDo (.granaryWindowRead f ga len ecc) (Req.ofFn f) [] false (·.windowRead (ga % 2 ^ 25) len ecc)) s

/-! ### Page programs (R367-R369) -/

/-- Program one page: the bytes written are replaced; a group covered in part that is uncorrectable stays so, one
covered in full is good again (R367, R368). -/
def Dev.programPage (d : Dev) (page : Nat) (bs : List (Nat × Byte)) (ecc : Ecc) : Dev :=
  let base := 256 * page
  let touched := (List.range 32).filter fun g => bs.any fun e => e.1 / 8 == g
  let full := touched.filter fun g => (List.range 8).all fun i => bs.any fun e => e.1 == 8 * g + i
  let d := (touched.filter fun g => !full.contains g).foldl (fun d g => (d.nvRead (base + 8 * g) 8 ecc).2) d
  let d := bs.foldl (fun d e => d.nvPut (base + e.1) e.2) d
  { d with nv := { d.nv with bad := d.nv.bad.filter fun g => !(full.any fun h => 32 * page + h == g) } }

/-- Held window reads that no longer reach the page being programmed are answered (R366). -/
def Dev.serveHeld (d : Dev) : Dev :=
  d.nv.held.foldl (fun d r => d.windowRead r.ga r.len r.ecc) { d with nv := { d.nv with held := [] } }

/-- The page in progress is done: the writer that has it goes to the end of the round robin. Answers that writer, with
the pages it has left. -/
def Dev.pageDone (d : Dev) (ecc : Ecc) : Option NvWriter × Dev :=
  match d.nv.writers with
  | [] => (none, d)
  | w :: rest =>
    match w.pages with
    | [] => (none, { d with nv := { d.nv with writers := rest } })
    | (p, bs) :: left =>
      let w := { w with pages := left }
      let d := { d with nv := { d.nv with writers := rest ++ (if left.isEmpty then [] else [w]) } }
      (some w, ((d.programPage p bs ecc).nvState).serveHeld.moot)

/-! ### Records (R372-R376) -/

def twinMagic : Nat := 0x5457494E

abbrev twinCopy (base pages c : Nat) : Nat := base + c * 256 * pages
def Dev.twinSeq (d : Dev) (ga : Nat) : Nat := d.nvNat (ga + 4) 4
def Dev.twinLen (d : Dev) (ga : Nat) : Nat := d.nvNat (ga + 8) 4
def Dev.twinData (d : Dev) (ga : Nat) : List Byte := d.nvBytes (ga + 16) (d.twinLen ga)

/-- A twin copy is valid (R372). -/
def Dev.twinValid (d : Dev) (pages ga : Nat) : Bool :=
  let len := d.twinLen ga
  d.nvNat ga 4 == twinMagic && decide (len ≤ 256 * pages - 16) &&
    d.nvNat (ga + 12) 4 == crc32c (d.nvBytes ga 12 ++ d.nvBytes (ga + 16) len) && !d.nvAnyBad ga (16 + len)

/-- The copy R374 chooses (none: torn), and whether it is a tie. -/
def Dev.twinPick (d : Dev) (base pages : Nat) : Option Nat × Bool :=
  let a := twinCopy base pages 0
  let b := twinCopy base pages 1
  match d.twinValid pages a, d.twinValid pages b with
  | true, false => (some 0, false)
  | false, true => (some 1, false)
  | false, false => (none, false)
  | true, true =>
    if d.twinSeq a < d.twinSeq b then (some 1, false)
    else if d.twinSeq b < d.twinSeq a then (some 0, false)
    else (some 0, d.twinData a != d.twinData b)

/-- The payload of a twin record, if it has a valid copy. -/
def Dev.twinPayload (d : Dev) (base pages : Nat) : Option (List Byte) :=
  (d.twinPick base pages).1.map fun c => d.twinData (twinCopy base pages c)

/-- The page programs of a twin write (R373); none: the highest SEQ is 0xFFFF_FFFF. -/
def Dev.twinWrite (d : Dev) (base pages : Nat) (data : List Byte) : Option (List (Nat × List (Nat × Byte))) :=
  let a := twinCopy base pages 0
  let b := twinCopy base pages 1
  let va := d.twinValid pages a
  let vb := d.twinValid pages b
  let sa := if va then d.twinSeq a else 0
  let sb := if vb then d.twinSeq b else 0
  let top := max sa sb
  if top = 0xFFFFFFFF then none
  else
    let tgt := if !va then a else if !vb then b else if sa < sb then a else b
    let head := leBytes 4 twinMagic ++ leBytes 4 (if va || vb then top + 1 else 1) ++ leBytes 4 data.length
    some (headerLast (pagesOf tgt (head ++ leBytes 4 (crc32c (head ++ data)) ++ data)))

/-- Slot i of a counter ring is valid (R375). -/
def Dev.ctrValid (d : Dev) (base i : Nat) : Bool :=
  let ga := base + 16 * i
  d.nvNat (ga + 12) 4 == crc32c (d.nvBytes ga 12) && !d.nvAnyBad ga 16

/-- The valid slots with the highest SEQ. -/
def Dev.ctrNewest (d : Dev) (base : Nat) : List Nat :=
  let l := (List.range 64).filter (d.ctrValid base)
  let top := l.foldl (fun m i => max m (d.nvNat (base + 16 * i) 4)) 0
  l.filter fun i => d.nvNat (base + 16 * i) 4 == top

def Dev.ctrFresh (d : Dev) (base : Nat) : Bool :=
  !((List.range 64).any (d.ctrValid base)) && (d.nvBytes base 1024).all fun b => b == 0 || b == 0xFF

/-- What a ring reads: fresh, torn, or the newest slot with its SEQ and VALUE. -/
inductive Ring where
  | fresh | torn | slot (i seq value : Nat)
  deriving DecidableEq, Repr

/-- Read a counter ring (R375); of several newest slots, one (a free choice, log entry 3). -/
def Dev.ctrRead (d : Dev) (base : Nat) : Ring × Dev :=
  match d.ctrNewest base with
  | [] => (if d.ctrFresh base then .fresh else .torn, d)
  | [i] => (.slot i (d.nvNat (base + 16 * i) 4) (d.nvNat (base + 16 * i + 4) 8), d)
  | l =>
    let q := d.takeNat l.length
    let i := l.getD q.1 0
    (.slot i (q.2.nvNat (base + 16 * i) 4) (q.2.nvNat (base + 16 * i + 4) 8), q.2)

def Ring.value : Ring → Nat
  | .slot _ _ v => v
  | _ => 0

def ctrSlot (base i seq value : Nat) : List (Nat × List (Nat × Byte)) :=
  let b := leBytes 4 seq ++ leBytes 8 value
  pagesOf (base + 16 * i) (b ++ leBytes 4 (crc32c b))

/-- The page program of CTR_ADD (R375), or the error it ends with. -/
def ctrAddTo (base : Nat) (r : Ring) (arg : Nat) : Except Nat (List (Nat × List (Nat × Byte))) :=
  match r with
  | .torn => .error E.NV_TORN
  | .fresh => if 2 ^ 64 ≤ arg then .error E.RANGE else .ok (ctrSlot base 0 1 arg)
  | .slot i seq v =>
    if 2 ^ 64 ≤ v + arg || seq = 0xFFFFFFFF then .error E.RANGE else .ok (ctrSlot base ((i + 1) % 64) (seq + 1) (v + arg))

/-- The page program of CTR_SET (R375), or the error it ends with. -/
def ctrSetTo (base : Nat) (r : Ring) (arg : Nat) : Except Nat (List (Nat × List (Nat × Byte))) :=
  match r with
  | .torn => .ok (ctrSlot base 0 1 arg)
  | .fresh => .ok (ctrSlot base 0 1 arg)
  | .slot i seq v =>
    if arg < v || seq = 0xFFFFFFFF then .error E.RANGE else .ok (ctrSlot base ((i + 1) % 64) (seq + 1) arg)

/-- An entry of a log ring is valid. -/
def Dev.logValid (d : Dev) (ga : Nat) : Bool := d.nvNat (ga + 252) 4 == crc32c (d.nvBytes ga 252) && !d.nvAnyBad ga 256

/-- The page program of LOG_APPEND (R376). -/
def Dev.logAppend (d : Dev) (base pages kind : Nat) (data : List Byte) : List (Nat × List (Nat × Byte)) :=
  let l := (List.range pages).filter fun p => d.logValid (base + 256 * p)
  let seq (p : Nat) : Nat := d.nvNat (base + 256 * p) 4
  let top := l.foldl (fun (m : Option Nat) p => match m with | some q => if seq q < seq p then some p else some q | none => some p) none
  let tgt : Nat × Nat := match top with | some p => ((p + 1) % pages, seq p + 1) | none => (0, 1)
  let b := leBytes 4 tgt.2 ++ leBytes 2 kind ++ leBytes 2 data.length ++ leBytes 8 d.devtime ++ data ++ List.replicate (236 - data.length) 0
  pagesOf (base + 256 * tgt.1) (b ++ leBytes 4 (crc32c b))

/-! ### The host's commands (R370-R376, R380) -/

def Dev.nvErr (d : Dev) (code func : Nat) : Dev := d.err GRANARY.pg code 0x040 func

/-- The command ends: OUTCOME, CODE, EV_NV_DONE; a failure's code is recorded on the page (R60). -/
def Dev.nvEnd (d : Dev) (outcome code : Nat) : Dev :=
  let d := ((d.wr GRANARY.pg GRANARY.STAT_OUTCOME outcome).wr GRANARY.pg GRANARY.STAT_CODE code).wr GRANARY.pg GRANARY.STAT_ACTIVE 0
  let d := ({ d with nv := { d.nv with cmd := none } } : Dev).nvState
  d.raise GRANARY.pg 0

/-- Past its commit point the command ends COMPLETED, or ABORT_LATE after a late abort (R60). -/
def Dev.nvComplete (d : Dev) (late : Bool) : Dev := if late then d.nvEnd 2 E.ABORT_LATE else d.nvEnd 0 0

def Dev.nvFail (d : Dev) (code : Nat) : Dev := (d.nvErr code 15).nvEnd 3 code

/-- Geometry of an operation (R371-R376). -/
def nvShapeOk (op dst len pages : Nat) : Bool :=
  match op with
  | 0 => decide (1 ≤ len ∧ len ≤ 65536)
  | 1 => dst % 256 == 0 && decide (1 ≤ pages ∧ pages ≤ 256) && decide (len ≤ 256 * pages - 16)
  | 2 => dst % 256 == 0 && decide (1 ≤ pages ∧ pages ≤ 256)
  | 3 | 4 | 5 => dst % 1024 == 0
  | 6 => dst % 256 == 0 && decide (2 ≤ pages ∧ pages ≤ 256) && decide (len ≤ 236)
  | _ => false

/-- Bytes of the Granary the operation reads or writes as a record. -/
def nvSpan (op len pages : Nat) : Nat :=
  match op with
  | 0 => len
  | 1 | 2 => 512 * pages
  | 6 => 256 * pages
  | _ => 1024

/-- The source bytes an operation fetches. -/
def nvSource (op len : Nat) : Nat := if op = 0 || op = 1 || op = 6 then len else 0

/-- The commit point of a fetched command: its pages are programmed from now on (R371, R373, R376). -/
def Dev.nvCommit (d : Dev) (c : NvCmd) : Dev :=
  let data := (List.range c.len).map fun i => mget nvDefault c.bytes (c.src + i)
  let go (d : Dev) (pages : List (Nat × List (Nat × Byte))) : Dev :=
    ({ d with nv := { d.nv with cmd := some { c with step := 2, bytes := [] } } } : Dev).addWriter 0 c.op pages
  let d := if c.op = 1 then d.nvScan c.dst (512 * c.pages) else if c.op = 6 then d.nvScan c.dst (256 * c.pages) else d
  match c.op with
  | 1 => match d.twinWrite c.dst c.pages data with
    | some pages => go d pages
    | none => d.nvFail E.RANGE
  | 6 => go d (d.logAppend c.dst c.pages (c.arg % 2 ^ 16) data)
  | _ => go d (pagesOf c.dst data)

/-- A counter operation evaluates its ring and programmes its slot (R375). It fetches no source and the spec names no commit point:
DESIGN CHOICE, it has committed with its GO write, so a later ABORT is late (log entry 61). -/
def Dev.nvCounter (d : Dev) (c : NvCmd) : Dev :=
  let q := (d.nvScan c.dst 1024).ctrRead c.dst
  match if c.op = 3 then ctrAddTo c.dst q.1 c.arg else ctrSetTo c.dst q.1 c.arg with
  | .ok pages => ({ q.2 with nv := { q.2.nv with cmd := some { c with step := 2 } } } : Dev).addWriter 0 c.op pages
  | .error e => q.2.nvFail e

/-- An abort, arbitrated against the commit point (R60, R380). -/
def Dev.nvAbort (d : Dev) (func : Nat) : Dev :=
  match d.nv.cmd with
  | none => d
  | some c =>
    if c.step = 1 then ((d.endJob .granary).nvErr E.ABORTED func).nvEnd 1 E.ABORTED
    else ({ d with nv := { d.nv with cmd := some { c with late := true } } } : Dev).nvErr E.ABORT_LATE func

/-- CMD.GO with operation op (R370); while D1 is not on it is refused with E_STATE (R86, R96). -/
def Dev.nvGo (d : Dev) (who : Req) (op : Nat) : Dev :=
  let f := d.rd GRANARY.pg GRANARY.CMD_FUNC
  let dst := d.rd GRANARY.pg GRANARY.DST_GA
  let len := d.rd GRANARY.pg GRANARY.LEN_BYTES
  let pages := d.rd GRANARY.pg GRANARY.GEOM_PAGES
  if d.nv.cmd.isSome then d.nvErr E.BUSY who.code
  else if f = 3 || !nvShapeOk op dst len pages then d.nvErr E.RANGE who.code
  else if dst < hostArea || decide (2 ^ 25 < dst + nvSpan op len pages) then d.nvErr E.PRIV who.code
  else if !d.domOn 1 then d.nvErr E.STATE who.code
  else
    let src := d.rd GRANARY.pg GRANARY.SRC_LO_HA + 2 ^ 32 * d.rd GRANARY.pg GRANARY.SRC_HI_HA
    let arg := d.rd GRANARY.pg GRANARY.ARG_LO_ARG + 2 ^ 32 * d.rd GRANARY.pg GRANARY.ARG_HI_ARG
    let c : NvCmd := ⟨op, f, dst, nvSource op len, src, pages, arg, [], 1, false⟩
    let d := d.putWord GRANARY.pg 0x060 (BitVec.ofNat 32 (4 + op * 8))
    let d := ({ d with nv := { d.nv with cmd := some c } } : Dev).nvState
    if op = 3 || op = 4 then d.nvCounter c
    else if nvSource op len != 0 then d.fetch ⟨f, .granary, src, len⟩
    else if op = 1 || op = 6 then d.nvCommit c
    else d

/-- A write of CMD with GO and operation op: RW fields, then ABORT (R60), then GO. -/
def Dev.nvWriteCmd (d : Dev) (a : Acc) (op : Nat) (x : Word) : Dev :=
  d.guarded a GRANARY.pg 0x040 fun d =>
    let d := d.storeRw GRANARY.pg 0x040 (setBits x 0 3 op)
    let d := if GRANARY.CMD_ABORT.of x = 1 then d.nvAbort a.who.code else d
    d.nvGo a.who op

def execGranaryWrite (a : Acc) (x : Word) (s : State) : Out := hostWrite (.granaryWrite a x) a (fun d => d.nvWriteCmd a 0 x) s
def execGranaryTwinWrite (a : Acc) (x : Word) (s : State) : Out := hostWrite (.granaryTwinWrite a x) a (fun d => d.nvWriteCmd a 1 x) s
def execGranaryTwinRead (a : Acc) (x : Word) (s : State) : Out := hostWrite (.granaryTwinRead a x) a (fun d => d.nvWriteCmd a 2 x) s
def execGranaryCtrAdd (a : Acc) (x : Word) (s : State) : Out := hostWrite (.granaryCtrAdd a x) a (fun d => d.nvWriteCmd a 3 x) s
def execGranaryCtrSet (a : Acc) (x : Word) (s : State) : Out := hostWrite (.granaryCtrSet a x) a (fun d => d.nvWriteCmd a 4 x) s
def execGranaryCtrRead (a : Acc) (x : Word) (s : State) : Out := hostWrite (.granaryCtrRead a x) a (fun d => d.nvWriteCmd a 5 x) s
def execGranaryLogAppend (a : Acc) (x : Word) (s : State) : Out := hostWrite (.granaryLogAppend a x) a (fun d => d.nvWriteCmd a 6 x) s

def execGranaryAbort (a : Acc) (s : State) : Out :=
  hostWrite (.granaryAbort a) a (fun d => d.guarded a GRANARY.pg 0x040 fun d => d.nvAbort a.who.code) s

/-- Every read of a job has been answered. -/
def Dev.fetched (d : Dev) (j : Job) : Bool :=
  !(d.host.reads.any fun r => r.job == j) && !(d.host.todo.any fun w => w.job == j)

/-- The clock cycle after the last source byte: the commit point (R371). -/
def execGranaryFetchDone (s : State) : Out :=
  finish (fun d =>
    match d.nv.cmd with
    | some c => if c.step = 1 && c.len != 0 && d.fetched .granary then d.nvCommit c else d
    | none => d) s

/-- REC_STAT, REC_SEQ and the outcome of TWIN_READ (R374). -/
def Dev.twinReadDone (d : Dev) (c : NvCmd) (ecc : Ecc) : Dev :=
  let a := twinCopy c.dst c.pages 0
  let b := twinCopy c.dst c.pages 1
  let d := (d.nvRead a (512 * c.pages) ecc).2
  let va := d.twinValid c.pages a
  let vb := d.twinValid c.pages b
  let pick := d.twinPick c.dst c.pages
  let word (copy tie len : Nat) : Word := BitVec.ofNat 32 (copy + b2n va * 2 + b2n vb * 4 + tie * 8 + len % 2 ^ 16 * 2 ^ 16)
  match pick.1 with
  | some k =>
    let ga := twinCopy c.dst c.pages k
    let d := (d.putWord GRANARY.pg 0x064 (word k (b2n pick.2) (d.twinLen ga))).wr GRANARY.pg GRANARY.REC_SEQ_SEQ (d.twinSeq ga)
    if pick.2 then ((d.nvErr E.SEQ_TIE 15).raise GRANARY.pg 3).nvEnd 0 E.SEQ_TIE else d.nvEnd 0 0
  | none =>
    let q := d.takeNat 2
    ((q.2.putWord GRANARY.pg 0x064 (word q.1 0 0)).raise GRANARY.pg 2).nvFail E.NV_TORN

def Dev.ctrReadDone (d : Dev) (c : NvCmd) (ecc : Ecc) : Dev :=
  let d := (d.nvRead c.dst 1024 ecc).2
  let q := d.ctrRead c.dst
  let put (d : Dev) (seq v : Nat) : Dev :=
    (((d.wr GRANARY.pg GRANARY.REC_SEQ_SEQ seq).wr GRANARY.pg GRANARY.VAL_LO_VALUE v).wr GRANARY.pg GRANARY.VAL_HI_VALUE (v / 2 ^ 32)).nvEnd 0 0
  match q.1 with
  | .fresh => put q.2 0 0
  | .slot _ seq v => put q.2 seq v
  | .torn => (q.2.raise GRANARY.pg 2).nvFail E.NV_TORN

/-- A TWIN_READ or CTR_READ ends; the cells answer ecc (by GA) to its reads (R374, R375, R377). -/
def execGranaryReadDone (ecc : Ecc) (s : State) : Out :=
  finish (fun d =>
    match d.nv.cmd with
    | some c =>
      if c.op = 2 then d.twinReadDone c ecc else if c.op = 5 then d.ctrReadDone c ecc else d
    | none => d) s

/-- A page of the host's command is programmed: PAGES_DONE, and the end of the command with the last one (R371). -/
def Dev.nvHostPage (d : Dev) (w : NvWriter) : Dev :=
  match d.nv.cmd with
  | some c =>
    let d := d.wr GRANARY.pg GRANARY.STAT_PAGES_DONE (d.rd GRANARY.pg GRANARY.STAT_PAGES_DONE + 1)
    if w.pages.isEmpty then d.nvComplete c.late else d
  | none => d

/-- A source byte run of the host's command arrives. -/
def putCells (l : List Host.Cell) (addr : Nat) (data : List Byte) : List Host.Cell :=
  data.zipIdx.foldl (fun l e => mset nvDefault l (addr + e.2) e.1) l

/-- A brown-out (R33, R369): the page in progress completes and no other starts; NV_INTR and NV_LEFT record the write it
cut (of several, one: a free choice, log entry 3). A host command before its commit point ends without effect. -/
def Dev.nvBrownout (d : Dev) : Dev :=
  let d := (d.pageDone ⟨[], []⟩).2
  let cut := d.nv.writers.filter fun w => !w.pages.isEmpty
  let d := match cut with
    | [] => d
    | _ =>
      let q := d.takeNat cut.length
      match cut[q.1]? with
      | some w =>
        let p := match w.pages with | (p, _) :: _ => p | [] => 0
        let d := q.2.putWord AOBB.pg 0x1F0 (BitVec.ofNat 32 (p + (if w.who = 0 then w.op else 7) * 2 ^ 17 + 2 ^ 31))
        d.wr AOBB.pg AOBB.NV_LEFT_PAGES_LEFT w.pages.length
      | none => q.2
  { d with nv := { d.nv with writers := [], held := [], cmd := none } }

/-- EV_NV_INTERRUPTED and EV_BB_INVALID follow their words (R377, R379). -/
def Dev.bbConds (d : Dev) : Dev :=
  (d.cond GRANARY.pg 4 (d.on AOBB.pg AOBB.NV_INTR_VALID)).cond GRANARY.pg 5 (!d.on AOBB.pg AOBB.BB_STAT_VALID)

/-! ### Filpor's logs (R403) -/

/-- Filpor runs an image (R411, R415). -/
def Dev.filporRuns (d : Dev) : Bool := d.rd MGMT.pg HDR.PG_STAT_STATE == 0 && !d.halted

/-- Filpor appends the oldest final record to the fault log, one page program at a time. A record that newer ones have driven out of
the ring is not to be had any more (log entry 21). -/
def execFaultLogAppend (s : State) : Out :=
  finish (fun d =>
    match d.flt.toAppend with
    | n :: rest =>
      if !d.inRing n then { d with flt := { d.flt with toAppend := rest } }
      else if d.filporRuns && !d.writing 3 then
        let data := (List.range 16).flatMap fun w => leBytes 4 (d.faultWord n w).toNat
        let d := d.nvScan faultLogGa 0x40000
        let pages := d.logAppend faultLogGa 1024 1 data
        ({ d with flt := { d.flt with toAppend := d.flt.toAppend.drop 1 } } : Dev).addWriter 3 7 pages
      else d
    | [] => d) s

/-- Add n to a lifetime ring: its page program, and its new value. -/
def Dev.lifeAdd (d : Dev) (base n : Nat) (f : Fld) : List (Nat × List (Nat × Byte)) × Dev :=
  let q := (d.nvScan base 1024).ctrRead base
  match ctrAddTo base q.1 n with
  | .ok pages => (pages, q.2.wr FAULT.pg f (satU 32 (q.1.value + n)))
  | .error _ => ([], q.2)

/-- The time gathered since the last update goes to the two rings; what is less than a unit is gathered on. -/
def Dev.lifeUpdate (d : Dev) : Dev :=
  if d.filporRuns && !d.writing 4 then
    let ms := d.flt.lifeIntNs / 1000000
    let sec := d.flt.lifeOpNs / 1000000000
    let a := d.lifeAdd lifeIntGa ms FAULT.LIFE_INT_MS_MS
    let b := a.2.lifeAdd lifeOpGa sec FAULT.LIFE_OP_S_S
    let d := { b.2 with flt := { b.2.flt with lifeIntNs := d.flt.lifeIntNs % 1000000, lifeOpNs := d.flt.lifeOpNs % 1000000000 } }
    d.addWriter 4 7 (a.1 ++ b.1)
  else d

def execLifeCounterUpdate (s : State) : Out := finish (fun d => d.lifeUpdate) s

end Sys2Proof.Machine
end

