-- ==== Sys2Proof/Machine/Regress.lean ====
section
/-! DEFINITION. The Trim unit's regression accumulators (R356) and the end of a calibration run (R353, R360, R364). -/

namespace Sys2Proof.Machine

def Dev.regAcc (d : Dev) (p : Nat) : RegAcc := mget (fun _ => RegAcc.zero) d.trim.acc p

/-- Store port p's accumulator; ACC_N shows its count. -/
def Dev.setAcc (d : Dev) (p : Nat) (x : RegAcc) : Dev :=
  ({ d with trim := { d.trim with acc := mset (fun _ => RegAcc.zero) d.trim.acc p x } } : Dev).wr TRIM.pg TRIM.ACC_N x.n (j := p)

def Dev.clearAcc (d : Dev) (p : Nat) : Dev := d.setAcc p RegAcc.zero

/-- One used pass: predicted P and measured M, mA. At n = 65,535 every sum is halved (R356); the half of the odd count is
rounded by a free choice (log entry 3). -/
def Dev.addAcc (d : Dev) (p : Nat) (P M : Rat) : Dev :=
  let a := d.regAcc p
  let a : RegAcc := ⟨a.n + 1, a.p + P, a.m + M, a.pp + P * P, a.pm + P * M, a.mm + M * M⟩
  if a.n < 65535 then d.setAcc p a
  else
    let q := d.takeRound (mkRat a.n 2)
    q.2.setAcc p ⟨q.1.toNat, a.p / 2, a.m / 2, a.pp / 2, a.pm / 2, a.mm / 2⟩

/-- The integer part of a square root. -/
def isqrt (n : Nat) : Nat :=
  (List.range (n.log2 / 2 + 1)).reverse.foldl (fun r i => if (r + 2 ^ i) * (r + 2 ^ i) ≤ n then r + 2 ^ i else r) 0

/-- The integer nearest to the square root of x. -/
def nearSqrt (x : Rat) : Nat := (isqrt (4 * x).floor.toNat + 1) / 2

/-- The nearest integer; of an exact half the spec names no side: a free choice (log entry 3). -/
def Dev.takeNear (d : Dev) (x : Rat) : Int × Dev :=
  if x - x.floor = 1 / 2 then d.takeRound x else (rne x, d)

/-! ### Runs (R353) -/

/-- The AUTO and DUE bit of an instance: SAMP_A, SAMP_B, SYNCDLY, CURM_A, CURM_B, VREF_A, VREF_B. -/
def trimInst (cal port : Nat) : Nat := if cal = 0 then port else if cal = 1 then 5 + port else if cal = 2 then 3 + port else 2

/-- DUE bit i, and EV_TRIM_DUE (R360). -/
def Dev.setDue (d : Dev) (i : Nat) (b : Bool) : Dev :=
  let x := d.rd TRIM.pg TRIM.DUE_DUE
  let x := if b then x ||| 2 ^ i else if bit x i then x - 2 ^ i else x
  (d.wr TRIM.pg TRIM.DUE_DUE x).cond TRIM.pg 2 (x != 0)

/-- A run ends (R353, R60, R360): RUN_STAT, EV_TRIM_DONE, DUE. A failed automatic run may be tried again
10 s later; a DUE that has been cleared takes that wait along. -/
def Dev.trimEnd (d : Dev) (r : TrimRun) (outcome code : Nat) : Dev :=
  let d := { d with trim := { d.trim with run := none } }
  let d := (d.wr TRIM.pg TRIM.RUN_STAT_OUTCOME outcome).wr TRIM.pg TRIM.RUN_STAT_CODE code
  let d := if outcome = 1 then d else d.wr TRIM.pg TRIM.RUN_STAT_FRAME d.frameNo
  let d := ((d.wr TRIM.pg TRIM.RUN_STAT_ACTIVE 0).wr TRIM.pg HDR.PG_STAT_STATE 0).busy TRIM.pg false
  let i := trimInst r.cal r.port
  let d : Dev := if outcome = 0 || (r.auto && code == E.IMPLAUSIBLE) then
      { d.setDue i false with trim := { (d.setDue i false).trim with retry := mset (fun _ => 0) d.trim.retry i 0 } }
    else if r.auto then { d with trim := { d.trim with retry := mset (fun _ => 0) d.trim.retry i (d.devtime + 10000000000) } }
    else d
  d.raise TRIM.pg 0

def Dev.trimErr (d : Dev) (code func : Nat) : Dev := d.err TRIM.pg code 0x040 func

/-- A run ends FAILED: the target keeps its values. -/
def Dev.trimFail (d : Dev) (r : TrimRun) (code : Nat) : Dev := (d.trimErr code 15).trimEnd r 3 code

/-- A training or a RATE change of port p before a SAMPLER commit point (R364). -/
def Dev.trimOnTrain (d : Dev) (p : Nat) : Dev :=
  match d.trim.run with
  | some r => if r.cal = 0 && r.port = p then d.trimFail r E.STATE else d
  | none => d

/-- The reference becomes invalid during a SYNCDLY run (R359), up to its commit point. -/
def Dev.trimOnRef (d : Dev) : Dev :=
  match d.trim.run with
  | some r => if r.cal = 3 then d.trimFail r E.STATS else d
  | none => d

/-- A SYNCDLY run takes edge positions (R359). -/
def Dev.trimTakes (d : Dev) : Bool :=
  match d.trim.run with
  | some r => r.cal == 3 && !r.ready
  | none => false

end Sys2Proof.Machine
end

