-- ==== Sys2Proof/Machine/Tone.lean ====
section
/-! DEFINITION. The tone unit (10_tone_colour): the curve and its record (R184-R189), C2 and C3 on a pixel (R183, R192,
R250, R251), and the checks of R191 and R194. -/

namespace Sys2Proof.Machine

/-- PQ of a luminance in cd/m². -/
def pqNits (x : Rat) : Rat := pqInv (x / 10000)

/-- The static source peak Ls (R184). -/
def lsOf (v : Regs) : Nat :=
  let src := v.fld TONE.pg TONE.PEAKS_SRC_PEAK
  let n := match v.fld TONE.pg TONE.CTL_PEAK_SEL with
    | 0 => v.fld TONE.pg TONE.MD_CLL_MAXCLL
    | 1 => v.fld TONE.pg TONE.MD_LUM_MD_MAXLUM
    | _ => src
  if n = 0 then src else min (max n 100) 10000

/-- The smallest bin b with at most a pixels in the bins above it (R185): hist from the top down. -/
def topBin (a : Nat) : List Nat → Nat → Nat → Nat
  | [], _, i => i
  | h :: l, acc, i => if a < acc + h then i else topBin a l (acc + h) (i - 1)

/-- The source peak in PQ (R185). -/
def peakPs (v : Regs) (used n : Nat) (hist : List Nat) (prev : Option Rat) : Rat :=
  let pt := pqNits (v.fld TONE.pg TONE.PEAKS_TARGET_PEAK : Nat)
  let ps := pqNits (lsOf v : Nat)
  if used = 2 then
    let a := n * v.fld TONE.pg TONE.ADAPT_TOP_PPM / 1000000
    let b := topBin a hist.reverse 0 1023
    let q := mkRat (b + 1) 1024
    let m := if q < pt then pt else q
    let ps := if ps < m then ps else m
    let step := v.fld TONE.pg TONE.ADAPT_MAX_STEP
    match prev with
    | some p => if step = 0 then ps else clampR ps (p - mkRat step 1024) (p + mkRat step 1024)
    | none => ps
  else ps

/-- The roll-off at x for a source peak ps (R185). -/
def rollOff (ks m pt ps x : Rat) : Rat :=
  let e := x / ps
  if e ≤ ks then x
  else if 1 ≤ e then pt
  else
    let t := (e - ks) / (1 - ks)
    ps * ((2 * t * t * t - 3 * t * t + 1) * ks + (t * t * t - 2 * t * t + t) * (1 - ks) + (3 * t * t - 2 * t * t * t) * m)

/-- The curve of an image of n pixels (R185): the record, and ps (none for BYPASS). -/
def deriveCurve (v : Regs) (used n : Nat) (hist : List Nat) (prev : Option Rat) : Curve × Option Rat :=
  if used = 0 then (⟨List.replicate 1025 0, 0, 0x80000000⟩, none)
  else
    let target := v.fld TONE.pg TONE.PEAKS_TARGET_PEAK
    let pt := pqNits (target : Nat)
    let ps := peakPs v used n hist prev
    let code := (rne (4095 * ps)).toNat
    let word (knee ident : Nat) : Word := BitVec.ofNat 32 (knee + code * 2 ^ 16 + used * 2 ^ 28 + ident * 2 ^ 30 + 2 ^ 31)
    if ps ≤ pt then
      (⟨(List.range 1025).map fun (i : Nat) => (rne (65535 * mkRat i 1024)).toNat, target, word 65535 1⟩, some ps)
    else
      let m := pt / ps
      let k := mkRat (v.fld TONE.pg TONE.KNEE_K) 64
      let fl : Rat := (v.fld TONE.pg TONE.KNEE_SDR_FLOOR : Nat)
      let pf := pqNits (if fl < mkRat target 2 then fl else mkRat target 2)
      let a := (1 + k) * m - k
      let ks := clampR (if a < pf / ps then pf / ps else a) 0 (3 / 2 * m - 1 / 2)
      (⟨(List.range 1025).map fun (i : Nat) => (rne (65535 * rollOff ks m pt ps (mkRat i 1024))).toNat, target,
        word (65536 * ks * ps).floor.toNat 0⟩, some ps)

/-! ### Curve records (R186) -/

def curveBase (k : Nat) : Nat := statsBase k + 0x7F000

def Dev.putCurve (d : Dev) (k : Nat) (c : Curve) : Dev :=
  let d := d.putItem .aux (curveBase k) (c.t.flatMap (leBytes 2) ++ leBytes 2 0 ++ leBytes 4 c.target ++ leBytes 4 c.stat.toNat)
  d.putWord TONE.pg (0x080 + 4 * k) c.stat

/-- The curve record of image k as it stands in AUX. -/
def Dev.getCurve (d : Dev) (k : Nat) : Curve :=
  ⟨(List.range 1025).map fun i => d.auxNat (curveBase k + 2 * i) 2, d.auxNat (curveBase k + 0x804) 4,
    BitVec.ofNat 32 (d.auxNat (curveBase k + 0x808) 4)⟩

/-! ### C2 and C3 on a pixel -/

def curveUsed (c : Curve) : Nat := getBits c.stat 28 2
def curveIdent (c : Curve) : Bool := bit c.stat.toNat 30
def curveKnee (c : Curve) : Nat := getBits c.stat 0 16

/-- Tx, equation (2) of R251. -/
def curveAt (c : Curve) (pq : Rat) : Rat :=
  let p := 1024 * pq
  let i := min p.floor.toNat 1023
  let f := min 65536 (65536 * (p - (i : Nat))).floor.toNat
  mkRat ((c.t.getD i 0) * (65536 - f) + (c.t.getD (i + 1) 0) * f : Nat) (65536 * 65535)

/-- C2 (R183): three CF24 codes. -/
def toneC2 (c : Curve) (px : List Nat) : List Nat :=
  if curveUsed c = 0 then px
  else
    let v := px.map cfVal
    let r := v.getD 0 0; let g := v.getD 1 0; let b := v.getD 2 0
    let y : Rat := mkRat 2627 10000 * r + mkRat 6780 10000 * g + mkRat 593 10000 * b
    if y = 0 then [0, 0, 0]
    else
      let pq := pqInv y
      let k := if curveIdent c || decide (65536 * pq ≤ (curveKnee c : Nat)) then 1 else pqEotf (curveAt c pq) / y
      let mx := if r < g then (if g < b then b else g) else (if r < b then b else r)
      let lim := mkRat c.target 10000 / mx
      let k := if k < lim then k else lim
      v.map fun x => cf24 (x * k)

/-- Matrix entry M[row][col] of port p, S3.17 (R192, R193). -/
def matM (v : Regs) (p row col : Nat) : Rat :=
  mkRat (sext 20 (getBits (v.word (rkey (CAL.pg p) (0x104 + 4 * (3 * row + col)))) 0 20)) (2 ^ 17)

/-- C3 (R192). -/
def colourC3 (v : Regs) (p : Nat) (px : List Nat) : List Nat :=
  if v.fld (CAL.pg p) CAL.C3_CTL_C3_EN = 0 then px
  else
    let c := px.map cfVal
    let q := [0, 1, 2].map fun row => sumRat ([0, 1, 2].map fun col => matM v p row col * c.getD col 0)
    let a := q.foldl (fun m x => if m < x then x else m) (q.getD 0 0)
    let t := mkRat (v.fld (CAL.pg p) CAL.COMP_THRESH_T) 65536
    let out := if v.fld (CAL.pg p) CAL.C3_CTL_COMP_EN = 1 && decide (0 < a) then
        q.zipIdx.map fun e =>
          let lim := mkRat (v.fld (CAL.pg p) CAL.COMP_LIMIT (i := e.2)) 4096
          let dd := (a - e.1) / a
          let dd := if t < dd then
              let x := dd - t
              let cc := (lim - t) * (1 - t) / (lim - 1)
              t + x / (1 + x / cc)
            else dd
          a - dd * a
      else q
    out.map cf24

/-! ### Derivations (R187-R189) -/

def Dev.ladder (d : Dev) : Nat := d.rd TITHE.pg TITHE.ECON_STAT_LEVEL

/-- The values of a page. -/
def Regs.page (v : Regs) (pg : Nat) : Regs := v.filter fun e => e.1 / 0x1000 == pg

/-- ECON.FORCED_STATIC and EV_TONE_FORCED_STATIC (R189). -/
def Dev.toneEcon (d : Dev) : Dev :=
  let c := decide (2 ≤ d.ladder) && d.rd TONE.pg TONE.CTL_MODE == 2
  (d.wr TONE.pg TONE.ECON_FORCED_STATIC (b2n c)).cond TONE.pg 1 c

/-- The mode a derivation started now runs with. -/
def Dev.toneUsed (d : Dev) (v : Regs) : Nat :=
  let m := v.fld TONE.pg TONE.CTL_MODE
  if m = 2 && decide (2 ≤ d.ladder) then 1 else m

/-- The histogram and tile records of image k's block. -/
def Dev.getHist (d : Dev) (k : Nat) : List Nat := (List.range 1024).map fun i => d.auxNat (statsBase k + 4 * i) 4

def tilesOf (m : Mode) : Nat := ceilDiv m.w 64 * ceilDiv m.h 64

/-- A tile record: SUM of R, G, B and the eight SUB counts as R178 stores them. -/
def Dev.getTiles (d : Dev) (k : Nat) : List (List Nat) :=
  (List.range (tilesOf d.mode)).map fun t => (List.range 8).map fun i => d.auxNat (statsBase k + 0x2000 + 32 * t + 4 * i) 4

/-- A derivation for image k of slot s starts, with the given G_COMPOSE values; in PARTIAL mode the records in AUX stop
being valid (R187, R190). A TONE that does not operate derives nothing (R49). -/
def Dev.startTone (d : Dev) (k s : Nat) (v : Regs) : Dev :=
  if !d.operates TONE.pg then d else
  let partl := d.mode.part
  let job : ToneJob := ⟨k, s, (d.img k).seq, partl, d.toneUsed v, v.page TONE.pg, d.getHist k, d.getTiles k⟩
  let d := { d with tone := { d.tone with jobs := (d.tone.jobs.filter fun (j : ToneJob) => j.img != k) ++ [job] } }
  let d := d.wr TONE.pg HDR.PG_STAT_STATE 1
  if partl then
    let d := d.putWord TONE.pg (0x080 + 4 * k) 0
    let d := { d with tithe := { d.tithe with jobs := d.tithe.jobs.filter fun j => j.img != k } }
    [0, 1].foldl (fun d p => d.putAux (statsBase k + 0x7E000 + 0x40 * p + 2) 2 0) d
  else d

/-- At a slot FLE in PARTIAL mode: the slot's derivation, while D3 is on; without one the slot's passes go on as its last did (R16, R187,
R188, R299). -/
def Dev.partialTone (d : Dev) (s : Nat) : Dev :=
  let go := d.mode.part && d.domOn 3 && d.operates TONE.pg && d.imgState s == 3
  d.onlyIf go fun d => ({ d with tone := { d.tone with late := d.tone.late.filter (· != s) } } : Dev).startTone s s d.regs

/-- D3 drops: the derivations and the plans in progress are lost (R86, R188, R299). -/
def Dev.toneStop (d : Dev) : Dev :=
  (({ d with tone := { d.tone with jobs := [] }, tithe := { d.tithe with jobs := [] } } : Dev).wr TONE.pg HDR.PG_STAT_STATE 0).wr TITHE.pg
    HDR.PG_STAT_STATE 0

/-- The plan of image k starts from its curve (R299), with the values now active, where the TITHE operates (R49). -/
def Dev.startPlan (d : Dev) (j : ToneJob) (c : Curve) : Dev :=
  if !d.operates TITHE.pg then d else
  let v := d.regs.page TITHE.pg ++ d.regs.page (CAL.pg 0) ++ d.regs.page (CAL.pg 1) ++ d.regs.page AGING.pg
  let job : PlanJob := ⟨j.img, j.slot, j.seq, j.partl, c, j.tiles, v, d.ladder⟩
  ({ d with tithe := { d.tithe with jobs := (d.tithe.jobs.filter fun x => x.img != j.img) ++ [job] } } : Dev).wr TITHE.pg HDR.PG_STAT_STATE 1

/-- The derivation's image still stands: COMPLETE and the same one in FULL mode (R14), a display image in PARTIAL. -/
def Dev.toneLive (d : Dev) (img seq : Nat) (partl : Bool) : Bool :=
  if partl then d.mode.part && d.imgState img == 3 else !d.mode.part && d.imgState img == 2 && (d.img img).seq == seq

/-- The first derivation in progress ends (R185-R187): the record, CURVE_STATk, ps; the plan starts. -/
def execToneDeriveDone (s : State) : Out :=
  finish (fun d =>
    match d.tone.jobs with
    | [] => d
    | j :: rest => if !d.domOn 3 then d else
      let d := { d with tone := { d.tone with jobs := rest } }
      let d := if rest.isEmpty then d.wr TONE.pg HDR.PG_STAT_STATE 0 else d
      if !d.toneLive j.img j.seq j.partl then d
      else
        let r := deriveCurve j.vals j.used (d.mode.w * d.mode.h) j.hist (mget (fun _ => none) d.tone.psPrev j.slot)
        let d := d.putCurve j.img r.1
        let d := match r.2 with
          | some ps => { d with tone := { d.tone with psPrev := mset (fun _ => none) d.tone.psPrev j.slot (some ps) } }
          | none => d
        let d := d.setImg j.img { d.img j.img with curve := true }
        d.startPlan j r.1) s

/-- The Calender begins fetching line 0 with no record complete (R188): counted, and the table stands. DESIGN CHOICE: whether it counts
too after an FLE with D3 off, when D3 is on by then, is open; only a derivation that runs counts (log entry 66). -/
def execToneLate (s : State) : Out :=
  finish (fun d =>
    let sl := d.rd SCAN.pg SCAN.POS_SLOT_NO
    if d.mode.part && d.domOn 3 && d.tone.jobs.any (fun j => j.partl && j.slot == sl) then
      let d := { d with tone := { d.tone with late := d.tone.late ++ [sl] } }
      (d.count TONE.pg TONE.LATE_CNT_COUNT).raise TONE.pg 0
    else d) s

/-- ps_prev is forgotten for every slot (R195). -/
def Dev.forgetPs (d : Dev) : Dev := { d with tone := { d.tone with psPrev := [] } }

/-! ### Checks (R191, R194) -/

def toneBad (v : Regs) : List (Nat × Nat) :=
  let f (x : Fld) := v.fld TONE.pg x
  let out (x lo hi : Nat) : Bool := decide (x < lo ∨ hi < x)
  (if f TONE.CTL_MODE == 3 || f TONE.CTL_PEAK_SEL == 3 then [(TONE.pg, 0x040)] else []) ++
  (if out (f TONE.PEAKS_TARGET_PEAK) 100 10000 || out (f TONE.PEAKS_SRC_PEAK) 100 10000 then [(TONE.pg, 0x044)] else []) ++
  (if out (f TONE.KNEE_K) 0x20 0x80 || decide (1000 < f TONE.KNEE_SDR_FLOOR) then [(TONE.pg, 0x048)] else [])

/-- Offsets of port p's C3 registers out of range (R194). -/
def c3Bad (v : Regs) (p : Nat) : List Nat :=
  let out (x lo hi : Nat) : Bool := decide (x < lo ∨ hi < x)
  (if out (v.fld (CAL.pg p) CAL.COMP_THRESH_T) 32768 64880 then [0x128] else []) ++
  ((List.range 3).filterMap fun c => if out (v.fld (CAL.pg p) CAL.COMP_LIMIT (i := c)) 4097 32768 then some (0x12C + 4 * c) else none)

end Sys2Proof.Machine
end

