-- ==== Sys2Proof/Machine/Plan.lean ====
section
/-! DEFINITION. The Tithe's plan (R295-R300), the supply-drop solve (R289-R291), the correction from measured current
(R301, R302), the economy ladder (R303, R304), and the prediction behind HELD rectangles (R205, R296). -/

namespace Sys2Proof.Machine

/-! ### The prediction (R295, R296) -/

/-- g_b of R295. -/
def gainAt (c : Curve) (b : Nat) : Rat :=
  let x := mkRat (2 * b + 1) 16
  if curveUsed c = 0 || curveIdent c || decide (65536 * x ≤ (curveKnee c : Nat)) then 1
  else pqEotf (curveAt c x) / pqEotf x

/-- L_b and g_b for the eight sub-bins. -/
def subGains (c : Curve) : List (Rat × Rat) := (List.range 8).map fun (b : Nat) => (pqEotf (mkRat (2 * b + 1) 16), gainAt c b)

/-- SUB_b of a tile record. -/
def subCount (rec : List Nat) (b : Nat) : Nat := rec.getD (4 + b / 2) 0 / 2 ^ (16 * (b % 2)) % 2 ^ 16

/-- I_t of port p, µA (R295). -/
def tileCurrent (v : Regs) (p : Nat) (gains : List (Rat × Rat)) (rec : List Nat) : Rat :=
  let s := (List.range 3).map fun i => mkRat (rec.getD i 0) (2 ^ 19)
  let lit := sumRat (gains.zipIdx.map fun e => (subCount rec e.2 : Nat) * e.1.1)
  let tau : Rat := if lit = 0 then 1 else sumRat (gains.zipIdx.map fun e => (subCount rec e.2 : Nat) * e.1.1 * e.1.2) / lit
  let s' := (List.range 3).map fun ch =>
    if v.fld (CAL.pg p) CAL.C3_CTL_C3_EN = 1 then
      let x := sumRat ((List.range 3).map fun j => matM v p ch j * tau * s.getD j 0)
      if x < 0 then 0 else x
    else tau * s.getD ch 0
  sumRat (s'.zipIdx.map fun e => mkRat (v.fld TITHE.pg TITHE.K (i := e.2) (k := p)) 65536 * e.1)

/-- frac(t, b): the share of a tile row's lines that lie in band b. -/
def fracBand (h row b : Nat) : Rat :=
  let lo := 64 * row
  let hi := min (lo + 64) h
  let a := max lo (b * h / 16)
  let z := min hi ((b + 1) * h / 16)
  if a < z then mkRat (z - a) (hi - lo) else 0

def tilesWide (m : Mode) : Nat := ceilDiv m.w 64

/-- Currents of all tiles at factors of 1.0. -/
def tileCurrents (v : Regs) (p : Nat) (c : Curve) (tiles : List (List Nat)) : List Rat :=
  let g := subGains c
  tiles.map (tileCurrent v p g)

/-- I_b, µA. -/
def bandCurrent (m : Mode) (is : List Rat) (b : Nat) : Rat :=
  sumRat (is.zipIdx.map fun e => fracBand m.h (e.2 / tilesWide m) b * e.1)

def gainU214 (v : Regs) (p : Nat) : Rat := mkRat (v.fld TITHE.pg TITHE.MODEL_GAIN (i := p)) 16384
def offsetMa (v : Regs) (p : Nat) : Rat := (v.fld TITHE.pg TITHE.MODEL_OFFSET (i := p) : Nat)
def bandLim (v : Regs) (p b : Nat) : Rat := (v.fld TITHE.pg TITHE.BAND_LIM (i := b / 2) (j := b % 2) (k := p) : Nat)
def budgetMw (v : Regs) (p : Nat) : Nat := v.fld TITHE.pg TITHE.BUDGET_MW (i := p)

/-- Imax of port p, mA (R297). -/
def iMax (v : Regs) (p : Nat) : Rat :=
  (budgetMw v p : Nat) * (1 - mkRat (v.fld TITHE.pg TITHE.VPANEL_MARGIN (i := p)) 1024) * 1000 / (v.fld TITHE.pg TITHE.VPANEL_MV (i := p) : Nat)

/-- A tile's planned current in band b, µA: band share of I_t^P (R296). -/
def tilePlanned (v : Regs) (m : Mode) (p : Nat) (pl : PlanRec) (i : Rat) (rec : List Nat) (row b : Nat) : Rat :=
  mkRat pl.corr 16384 * fracBand m.h row b *
    (gainU214 v p * mkRat pl.g 32768 * mkRat (pl.b.getD b 0) 32768 * i +
      1000 * offsetMa v p * mkRat (rec.getD 3 0 % 2 ^ 16) (m.w * m.h))

/-- I_t^P, µA. -/
def tilePlan (v : Regs) (m : Mode) (p : Nat) (pl : PlanRec) (i : Rat) (rec : List Nat) (row : Nat) : Rat :=
  sumRat ((List.range 16).map fun b => tilePlanned v m p pl i rec row b)

/-- The prediction exceeds the panel budget or a band limit of the plan in force (R205, R296). -/
def overPlan (v : Regs) (m : Mode) (p : Nat) (pl : PlanRec) (c : Curve) (tiles : List (List Nat)) : Bool :=
  let is := tileCurrents v p c tiles
  let bands := (List.range 16).map fun b =>
    sumRat ((is.zip tiles).zipIdx.map fun e => tilePlanned v m p pl e.1.1 e.1.2 (e.2 / tilesWide m) b) / 1000
  (budgetMw v p != 0 && decide (iMax v p < sumRat bands)) ||
    bands.zipIdx.any fun e => bandLim v p e.2 != 0 && decide (bandLim v p e.2 < e.1)

/-! ### The plan (R297, R298) -/

def floorU115 (x : Rat) : Nat := min 32768 (32768 * x).floor.toNat

/-- The factors of port p and what they predict: the record but for RAW, and the raw current. -/
def makePlan (v : Regs) (m : Mode) (p : Nat) (is : List Rat) (gPrev : Option Nat) : PlanRec × Rat :=
  let corrC := v.fld TITHE.pg TITHE.CORR_CORR (i := p)
  let corr := mkRat corrC 16384
  let gain := gainU214 v p
  let gmin := mkRat (v.fld TITHE.pg TITHE.FLOOR_G_MIN (i := p)) 32768
  let rise := v.fld TITHE.pg TITHE.FLOOR_RISE (i := p)
  let ioff := corr * offsetMa v p
  let ib := (List.range 16).map fun b => bandCurrent m is b / 1000
  let bs := ib.zipIdx.map fun e =>
    let j := corr * gain * e.1
    let lim := bandLim v p e.2
    floorU115 (if lim = 0 || j = 0 || decide (j + ioff / 16 ≤ lim) then 1 else maxR gmin (maxR 0 ((lim - ioff / 16) / j)))
  let j := corr * gain * sumRat (ib.zipIdx.map fun e => mkRat (bs.getD e.2 0) 32768 * e.1)
  let imax := iMax v p
  let g1 := if budgetMw v p = 0 || j = 0 || decide (j + ioff ≤ imax) then 1 else maxR gmin (maxR 0 ((imax - ioff) / j))
  let lim := match gPrev with
    | some q => rise != 0 && decide (mkRat (q + rise) 32768 < g1)
    | none => false
  let g := floorU115 (if lim then mkRat (gPrev.getD 0 + rise) 32768 else g1)
  let gr := mkRat g 32768
  let unmet := (budgetMw v p != 0 && decide (imax < ioff + gr * j)) ||
    ib.zipIdx.any fun e => bandLim v p e.2 != 0 &&
      decide (bandLim v p e.2 < corr * (gain * gr * mkRat (bs.getD e.2 0) 32768 * e.1 + offsetMa v p / 16))
  let scaled := g != 32768 || bs.any (· != 32768)
  let flags := 1 + 2 * b2n scaled + 4 * b2n unmet + 8 * b2n (bs.any (· != 32768)) + 16 * b2n lim
  (⟨g, bs, flags, (rne (ioff + gr * j)).toNat, 0, corrC⟩, ioff + corr * gain * sumRat ib)

def planBase (k p : Nat) : Nat := statsBase k + 0x7E000 + 0x40 * p

/-- Write the plan record of R300. -/
def Dev.putPlan (d : Dev) (k p level : Nat) (r : PlanRec) : Dev :=
  d.putItem .aux (planBase k p)
    (leBytes 2 r.g ++ leBytes 2 r.flags ++ r.b.flatMap (leBytes 2) ++ leBytes 4 r.pred ++ leBytes 4 r.raw ++
      leBytes 2 r.corr ++ leBytes 2 level ++ leBytes 16 0)

/-- The plan record of image k for port p as it stands in AUX. -/
def Dev.getPlan (d : Dev) (k p : Nat) : PlanRec :=
  let n (o w : Nat) := d.auxNat (planBase k p + o) w
  ⟨n 0 2, (List.range 16).map fun b => n (4 + 2 * b) 2, n 2 2, n 0x24 4, n 0x28 4, n 0x2C 2⟩

/-! ### The supply drop (R289-R291) -/

def replaceAt {α : Type} : List α → Nat → α → List α
  | [], _, _ => []
  | _ :: l, 0, x => x :: l
  | y :: l, n + 1, x => y :: replaceAt l n x

structure IrNet where
  nx : Nat
  ny : Nat
  gx : Nat
  gy : Nat
  gf : Nat
  edges : Nat

/-- Neighbours of cell (x, y): index and conductance. -/
def IrNet.near (n : IrNet) (x y : Nat) : List (Nat × Nat) :=
  (if 0 < x then [(y * n.nx + x - 1, n.gx)] else []) ++ (if x + 1 < n.nx then [(y * n.nx + x + 1, n.gx)] else []) ++
  (if 0 < y then [((y - 1) * n.nx + x, n.gy)] else []) ++ (if y + 1 < n.ny then [((y + 1) * n.nx + x, n.gy)] else [])

/-- Fed edges of cell (x, y). -/
def IrNet.fed (n : IrNet) (x y : Nat) : Nat :=
  b2n (y == 0 && bit n.edges 0) + b2n (y + 1 == n.ny && bit n.edges 1) + b2n (x == 0 && bit n.edges 2) + b2n (x + 1 == n.nx && bit n.edges 3)

/-- One over-relaxed cell (R290). -/
def IrNet.relax (n : IrNet) (i : List Rat) (d : List Int) (c : Nat) : List Int :=
  let x := c % n.nx
  let y := c / n.nx
  let nb := n.near x y
  let gt : Rat := ((nb.foldl (fun a e => a + e.2) 0 + n.fed x y * n.gf : Nat) : Rat)
  let num : Rat := 256 * i.getD c 0 + ((nb.foldl (fun (a : Int) e => a + (e.2 : Int) * d.getD e.1 0) 0 : Int) : Rat)
  replaceAt d c (max 0 (rne ((3 * num / gt - ((d.getD c 0 : Int) : Rat)) / 2)))

/-- One sweep: even cells, then odd ones. -/
def IrNet.sweep (n : IrNet) (i : List Rat) (d : List Int) : List Int :=
  let cells := List.range (n.nx * n.ny)
  let par (q : Nat) := cells.filter fun c => (c % n.nx + c / n.nx) % 2 == q
  (par 1).foldl (n.relax i) ((par 0).foldl (n.relax i) d)

def IrNet.sweeps (n : IrNet) (i : List Rat) : Nat → List Int → List Int
  | 0, d => d
  | k + 1, d => n.sweeps i k (n.sweep i d)

/-- The drops after 96 sweeps from 0. -/
def IrNet.solve (n : IrNet) (i : List Rat) : List Int := n.sweeps i 96 (List.replicate (n.nx * n.ny) 0)

def irNet (v : Regs) (m : Mode) (p : Nat) : IrNet :=
  let f (x : Fld) := v.fld AGING.pg x (i := p)
  ⟨ceilDiv m.w 256, ceilDiv m.h 256, f AGING.IR_G_GX, f AGING.IR_G_GY, f AGING.IR_FEED_GF, f AGING.IR_FEED_EDGES⟩

/-- F_n (R291): the factor, and whether it takes MAXF. -/
def irFactor (v : Regs) (p : Nat) (d : Int) : Nat × Bool :=
  let mx := v.fld AGING.pg AGING.IR_SENS_MAXF (i := p)
  let den : Rat := 1 - (v.fld AGING.pg AGING.IR_SENS_SENS (i := p) : Nat) * (d : Rat) / (65536 * 1000000)
  if den ≤ 0 then (mx, true)
  else let f := (rne (16384 / den)).toNat; (min mx f, decide (mx ≤ f))

/-- Bilinear interpolation of a grid nx wide at (ax, ay) in cell units (R255, R291). -/
def bilinear (g : Nat → Rat) (nx ny : Nat) (ax ay : Rat) : Rat :=
  let cx := clampI ax.floor 0 ((nx : Int) - 2) |>.toNat
  let cy := clampI ay.floor 0 ((ny : Int) - 2) |>.toNat
  let fx := clampR (ax - (cx : Nat)) 0 1
  let fy := clampR (ay - (cy : Nat)) 0 1
  let at_ (x y : Nat) := g (y * nx + x)
  (1 - fx) * (1 - fy) * at_ cx cy + fx * (1 - fy) * at_ (cx + 1) cy + (1 - fx) * fy * at_ cx (cy + 1) + fx * fy * at_ (cx + 1) (cy + 1)

/-- The factor grid per 64 × 64 tile (R291). -/
def irGrid (m : Mode) (n : IrNet) (f : List Nat) : List Nat :=
  (List.range (tilesOf m)).map fun t =>
    let tx := t % tilesWide m
    let ty := t / tilesWide m
    (rne (bilinear (fun i => (f.getD i 0 : Nat)) n.nx n.ny (mkRat (64 * tx + 32 - 128 : Int) 256) (mkRat (64 * ty + 32 - 128 : Int) 256))).toNat

/-- Cell currents I_n, µA: the planned currents of the tiles each cell holds (R289). -/
def cellCurrents (v : Regs) (m : Mode) (p : Nat) (pl : PlanRec) (n : IrNet) (is : List Rat) (tiles : List (List Nat)) : List Rat :=
  (List.range (n.nx * n.ny)).map fun c =>
    sumRat (((is.zip tiles).zipIdx.filter fun e => (e.2 % tilesWide m) / 4 == c % n.nx && (e.2 / tilesWide m) / 4 == c / n.nx).map
      fun e => tilePlan v m p pl e.1.1 e.1.2 (e.2 / tilesWide m))

/-- Solve and write port p's grid and drops for image k (R290, R291); answers whether a factor took MAXF. -/
def Dev.putIr (d : Dev) (v : Regs) (m : Mode) (k p : Nat) (pl : PlanRec) (is : List Rat) (tiles : List (List Nat)) : Bool × Dev :=
  let n := irNet v m p
  let ds := n.solve (cellCurrents v m p pl n is tiles)
  let fs := ds.map (irFactor v p)
  let mv (x : Int) : Nat := satU 16 (rne ((x : Rat) / 1000)).toNat
  let d := d.putItem .aux (statsBase k + 0x60000 + 0x8000 * p) ((irGrid m n (fs.map (·.1))).flatMap (leBytes 2))
  let d := d.putItem .aux (statsBase k + 0x70000 + 0x1000 * p) (ds.flatMap fun x => leBytes 2 (mv x))
  let d := (d.stat AGING.pg AGING.IR_STAT_MAX_IRF ((fs.map (·.1)).foldl max 0) (i := p)).stat AGING.pg AGING.IR_STAT_MAX_DROP_MV (mv (ds.foldl max 0)) (i := p)
  (fs.any (·.2), d)

/-! ### Making the plans (R299, R300) -/

/-- The row rule of R208 acts on port p: ROW_SKIP with a P2 panel in PARTIAL mode. -/
def Dev.rowSkip (d : Dev) (p : Nat) : Bool :=
  d.on RECTQ.pg (if p = 0 then RECTQ.CTL_ROW_SKIP_A else RECTQ.CTL_ROW_SKIP_B) && d.mode.part && d.rd (PANEL.pg p) PANEL.PANEL_CFG_TYPE == 2

/-- Port p's next pass programmes every line (R208): no row is skipped, its records change, a refresh is due, or something asks for it. -/
def Dev.passFull (d : Dev) (p : Nat) (changed : Bool) : Bool :=
  let c := d.calSt p
  !d.rowSkip p || c.skip.force || changed || decide (d.rd RECTQ.pg RECTQ.CTL_FULL_REFRESH ≤ c.skip.passes + 1)

/-- The raw prediction of R356, mA: the plan's current with GAIN 1, OFFSET 0 and CORR 1. -/
def planLin (m : Mode) (r : PlanRec) (is : List Rat) : Rat :=
  mkRat r.g 32768 * sumRat ((List.range 16).map fun b => mkRat (r.b.getD b 0) 32768 * bandCurrent m is b) / 1000

/-- The exact predictions of a plan made with the values v (R301, R356). -/
def planExact (v : Regs) (m : Mode) (p : Nat) (r : PlanRec) (is : List Rat) : PlanExact :=
  let lin := planLin m r is
  ⟨lin, mkRat r.corr 16384 * (gainU214 v p * lin + offsetMa v p)⟩

/-- Remember image k's exact predictions for port p. -/
def Dev.setLin (d : Dev) (k p : Nat) (x : PlanExact) : Dev :=
  d.setImg k { d.img k with lin := mset (fun _ => PlanExact.none) (d.img k).lin p x }

/-- The plan of one port for a job's image; answers whether an IR factor took MAXF. The grid
of a port that skips rows is recomputed only for a pass that programmes every line (R208, R292). -/
def Dev.planPort (d : Dev) (j : PlanJob) (p : Nat) : Bool × Dev :=
  let m := d.mode
  let is := tileCurrents j.vals p j.curve j.tiles
  let key := 4 * p + j.slot
  let q := makePlan j.vals m p is (mget (fun _ => none) d.tithe.gPrev key)
  let raw := d.takeRound q.2
  let r : PlanRec := { q.1 with raw := raw.1.toNat }
  let d := (raw.2.putPlan j.img p j.level r).setLin j.img p (planExact j.vals m p r is)
  let d := { d with tithe := { d.tithe with gPrev := mset (fun _ => none) d.tithe.gPrev key (some r.g) } }
  let d := ((d.stat TITHE.pg TITHE.PLAN_G r.g (i := p)).stat TITHE.pg TITHE.PLAN_FLAGS r.flags (i := p)).stat TITHE.pg TITHE.PLAN_SLOT j.slot (i := p)
  let d := (d.stat TITHE.pg TITHE.PRED_MA (satU 24 r.pred) (i := p)).stat TITHE.pg TITHE.RAW_MA (satU 24 r.raw) (i := p)
  let d := if bit r.flags 2 then
      ((d.count TITHE.pg TITHE.UNMET_CNT_COUNT (i := p)).raise TITHE.pg 0).err TITHE.pg E.BUDGET (0x0A4 + 0x40 * p) 15
    else d
  let c := d.calSt p
  let changed := c.plan.g != r.g || c.plan.b != r.b || c.curve.t != j.curve.t || c.curve.target != j.curve.target || c.curve.stat != j.curve.stat
  if j.vals.fld (CAL.pg p) CAL.CTL_IR_EN = 1 && d.passFull p changed then
    d.putIr j.vals m j.img p r is j.tiles
  else (false, d)

/-- The first plan in progress ends: both ports' records, the supply-drop grids, flip-eligibility (R14, R299). -/
def execTithePlanDone (s : State) : Out :=
  finish (fun d =>
    match d.tithe.jobs with
    | [] => d
    | j :: rest => if !d.domOn 3 then d else
      let d := { d with tithe := { d.tithe with jobs := rest } }
      let d := if rest.isEmpty then d.wr TITHE.pg HDR.PG_STAT_STATE 0 else d
      if !d.toneLive j.img j.seq j.partl then d
      else
        let a := d.planPort j 0
        let b := a.2.planPort j 1
        let d := b.2.onlyIf (a.1 || b.1) (·.raise AGING.pg 4)
        (d.setImg j.img { d.img j.img with plan := true }).checkEligible j.img) s

/-- G_prev is forgotten for a port (R308). -/
def Dev.forgetG (d : Dev) (p : Nat) : Dev :=
  { d with tithe := { d.tithe with gPrev := d.tithe.gPrev.filter fun e => e.1 / 4 != p } }

/-! ### Correction from measured current (R301, R302) -/

/-- The ISNS samples of a pass that count: those past SETTLE_US after each rising edge of EMIT_x. -/
def isnsUsed (settle : Nat) (runs : List (List Nat)) : List Nat := runs.flatMap fun r => r.drop settle

/-- The ISNS converter's code of a voltage (R43): 12 bits over 1.50 V, truncated, saturating. -/
def isnsCode (v : Rat) : Nat := min 4095 (v * 4096 / mkRat 3 2).floor.toNat

/-- The end of a slot pass of port p: CORR, MEAS, EV_PANEL_OVER, EV_CORR_LIMIT (R301, R302). PRED is the plan's own prediction, not
the rounded PRED_MA of its record (R11; the chapter's example divides by 18,749.83). DEDUCED: a pass whose codes are all 0 is one of a ball
tied to GND, which is unused (R308; log entry 66). -/
def Dev.measure (d : Dev) (p : Nat) (volts : List (List Rat)) : Dev :=
  let fs := d.rd TITHE.pg TITHE.ISNS_FS_MA (i := p)
  let us := isnsUsed (d.rd TITHE.pg TITHE.ISNS_SETTLE_US (i := p)) (volts.map (·.map isnsCode))
  let pl := (d.calSt p).plan
  if !d.operates TITHE.pg || !d.on TITHE.pg (if p = 0 then TITHE.CTL_LOOP_A else TITHE.CTL_LOOP_B) || fs = 0 || us.length < 16 ||
      us.any (4095 ≤ ·) || us.all (· == 0) || pl.pred * 64 < fs || (d.calSt p).lin.pred = 0 then d
  else
    let meas := mkRat (sumNat us * fs) (us.length * 4095)
    let d := d.addAcc p (d.calSt p).lin.lin meas
    let pred := (d.calSt p).lin.pred
    let q := d.takeRound meas
    let d := q.2.stat TITHE.pg TITHE.MEAS_MA (satU 24 q.1.toNat) (i := p)
    let corr := mkRat (d.rd TITHE.pg TITHE.CORR_CORR (i := p)) 16384
    let r := meas * mkRat pl.corr 16384 / pred
    let c := rne (16384 * (corr + (r - corr) / ((2 ^ d.rd TITHE.pg TITHE.CTL_LOOP_SHIFT : Nat) : Rat)))
    let c' := clampI c 8192 32768
    let d := (d.wr TITHE.pg TITHE.CORR_CORR c'.toNat (i := p)).onlyIf (c != c') (·.raise TITHE.pg 4)
    d.onlyIf (budgetMw d.regs p != 0 && decide (11 * iMax d.regs p < 10 * meas)) (·.raise TITHE.pg 3)

/-! ### The economy ladder (R303, R304) -/

/-- A step of LEVEL: both counts restart; what depends on the level follows (R189, R303). -/
def Dev.setLadder (d : Dev) (l : Nat) : Dev :=
  let d := (d.wr TITHE.pg TITHE.ECON_STAT_LEVEL l).raise TITHE.pg 1
  { d.toneEcon with tithe := { d.toneEcon.tithe with up := 0, down := 0 } }.moot

/-- One evaluation (R304): DEV_MW over the last 16 intervals, LEVEL, DEV_UNMET; a TITHE that does not operate makes none (R49). -/
def Dev.ladderEval (d : Dev) : Dev :=
  if !d.operates TITHE.pg then d else
  let spans := (d.tithe.cur :: d.tithe.spans).take 16
  let n := sumNat (spans.map (·.2))
  let mean : Rat := if n = 0 then 0 else mkRat (sumNat (spans.map (·.1))) n
  let d := { d with tithe := { d.tithe with spans := spans, cur := (0, 0) } }
  let q := d.takeRound mean
  let d := q.2.stat TITHE.pg TITHE.ECON_STAT_DEV_MW (satU 16 q.1.toNat)
  let bud := d.rd TITHE.pg TITHE.DEV_BUDGET_MW
  let mar := d.rd TITHE.pg TITHE.DEV_BUDGET_DOWN_MARGIN
  let lo := d.rd TITHE.pg TITHE.CTL_ECON_MIN
  let hi : Nat := d.rd TITHE.pg TITHE.CTL_ECON_MAX
  let l : Nat := d.ladder
  let high := bud != 0 && decide (((bud : Nat) : Rat) < mean)
  let low := decide (mean + ((mar : Nat) : Rat) ≤ ((bud : Nat) : Rat))
  let up : Nat := if high then d.tithe.up + 1 else 0
  let down : Nat := if low then d.tithe.down + 1 else 0
  let d := { d with tithe := { d.tithe with up := up, down := down } }
  let d : Dev := if d.on TITHE.pg TITHE.ECON_STAT_DEV_UNMET && decide (mean ≤ ((bud : Nat) : Rat))
    then (d.wr TITHE.pg TITHE.ECON_STAT_DEV_UNMET 0).cond TITHE.pg 2 false else d
  if l < lo then d.setLadder (l + 1)
  else if hi < l then d.setLadder (l - 1)
  else if decide (d.rd TITHE.pg TITHE.ECON_TIME_UP_EVALS ≤ up) then
    if l < hi then d.setLadder (l + 1)
    else if d.on TITHE.pg TITHE.ECON_STAT_DEV_UNMET then d
    else ((d.wr TITHE.pg TITHE.ECON_STAT_DEV_UNMET 1).cond TITHE.pg 2 true).err TITHE.pg E.BUDGET 0x060 15
  else if (bud == 0 || decide (d.rd TITHE.pg TITHE.ECON_TIME_DOWN_EVALS ≤ down)) && decide (lo < l) then d.setLadder (l - 1)
  else d

/-- Every 10 ms of DEVTIME while the reference raster is stopped (R304). -/
def execLadderTick (s : State) : Out := finish (fun d => if d.scan.run then d else d.ladderEval) s

end Sys2Proof.Machine
end

