-- ==== Sys2Proof/Machine/Calender.lean ====
section
/-! DEFINITION. The Calender pipeline C1 to C11 on one line (R249-R264), and the stress update of the line's subpixels
(R272-R279). -/

namespace Sys2Proof.Machine

/-! ### Working tables (R265, R266) -/

/-- The working copy of table kind k. -/
def CalSt.table (c : CalSt) (k : Nat) : Option (List Byte) := (c.work.find? fun e => e.1 == k).map (·.2)

/-- Entry i of a table of 16-bit values that starts at byte o. -/
def u16At (t : List Byte) (o i : Nat) : Nat := ofLeBytes ((t.drop (o + 2 * i)).take 2)

/-- The entries of a defect list before its first END (R259): X, Y, CH, ACT. -/
def defects (t : List Byte) : List (Nat × Nat × Nat × Nat) :=
  (((List.range 4096).map fun e =>
    let w := ofLeBytes ((t.drop (4 * e)).take 4)
    (w % 2 ^ 13, w / 2 ^ 13 % 2 ^ 13, w / 2 ^ 26 % 4, w / 2 ^ 28 % 4))).takeWhile fun e => e.2.2.2 != 0

def portAging (p : Nat) : Fld := if p = 0 then AGING.CTL_TRACK_A else AGING.CTL_TRACK_B

/-- The maps a line needs, read once: demura and stress words, and the pixels either of whose words read uncorrectable. -/
structure LineIn where
  demura : List (Option Nat)
  stress : List (Option Nat)
  ue : List Bool
  deriving DecidableEq, Repr

/-- A bank of the map is LOST, or has been and is not READY again (R266). -/
def Dev.mapLost (d : Dev) (k : ItemKind) : Bool :=
  match d.item k with
  | some it => it.banks.any fun b => d.bankState b == 6 || (d.bankRec b).markLost
  | none => false

/-- A line reads the words of map k: a stress map in a LOST bank is read as it stands (R122), a demura map is not (R266). -/
def Dev.mapUsed (d : Dev) (k : ItemKind) : Bool :=
  match k with
  | .demura _ => (d.item k).isSome && !d.mapLost k
  | _ => (d.item k).isSome

/-- The words of line y of a map; none where uncorrectable or the map is not read. -/
def Dev.mapLine (d : Dev) (k : ItemKind) (y w : Nat) : List (Option Nat) :=
  (List.range w).map fun x =>
    let o := 4 * (y * w + x)
    if !d.mapUsed k || d.itemBad k o 4 then none else some (d.itemNat k o 4)

/-- Pixels of line y whose word in map k reads uncorrectable. -/
def Dev.mapBad (d : Dev) (k : ItemKind) (y w : Nat) : List Bool :=
  (List.range w).map fun x => d.mapUsed k && d.itemBad k (4 * (y * w + x)) 4

/-! ### C1 to C6 (R250-R257) -/

/-- Bilinear sampling at pixel (x, y) of a grid with one value per tile (R255). -/
def bil (m : Mode) (g : Nat → Rat) (x y : Nat) : Rat :=
  bilinear g (tilesWide m) (ceilDiv m.h 64) (mkRat (2 * (x : Int) + 1 - 64) 128) (mkRat (2 * (y : Int) + 1 - 64) 128)

/-- C1 to C4 of one FS36 pixel of line y. -/
def stage4 (v : Regs) (m : Mode) (p y : Nat) (c : CalSt) (px : Nat) : List Nat :=
  let v1 := (fsCh px).map fsDecode
  let v3 := colourC3 v p (toneC2 c.curve v1)
  let k := mkRat c.plan.g 32768 * mkRat (c.plan.b.getD (16 * y / m.h) 0) 32768
  v3.map fun x => cf24 (cfVal x * k)

/-- C5 of one pixel (R256): the demura and stress words, none where neutral; ue: one of them reads uncorrectable, which leaves both flags
clear. -/
def stage5 (v : Regs) (m : Mode) (p x y : Nat) (c : CalSt) (dw sw : Option Nat) (ue : Bool) (v4 : List Nat) : List Nat :=
  let on (f : Fld) : Bool := v.fld (CAL.pg p) f == 1
  let exA := match dw with | some w => bit w 30 && !ue | none => false
  let exO := match dw with | some w => bit w 31 && !ue | none => false
  v4.zipIdx.map fun e =>
    let ch := e.2
    let g : Rat := match dw with
      | some w => if on CAL.CTL_DEMURA_EN then mkRat (1536 + w / 2 ^ (10 * ch) % 1024) 2048 else 1
      | none => 1
    let a : Rat := match sw, c.table 2 with
      | some w, some t =>
        if on CAL.CTL_AGE_EN && !exA then
          mkRat (u16At t 0 (2048 * ch + (if ch = 2 then w / 2 ^ 22 % 2 ^ 10 else w / 2 ^ (11 * ch) % 2 ^ 11))) 16384
        else 1
      | _, _ => 1
    let o : Rat := match c.table 5 with
      | some t =>
        if on CAL.CTL_OFFSET_EN && !exO && e.1 != 0 then
          bil m (fun i => (sext 16 (ofLeBytes ((t.drop (8 * (128 * (i / tilesWide m) + i % tilesWide m) + 2 * ch)).take 2)) : Rat)) x y / 2 ^ 24
        else 0
      | none => 0
    cf24 (cfVal e.1 * g * a + o)

/-- v6 of every pixel of the line (R257): the IR grid is that of the image for the port. -/
def Dev.line6 (d : Dev) (p img y : Nat) (li : LineIn) (pxs : List Nat) : List (List Nat) :=
  let m := d.mode
  let c := d.calSt p
  let ir (i : Nat) : Rat := (d.auxNat (statsBase img + 0x60000 + 0x8000 * p + 2 * i) 2 : Nat)
  pxs.zipIdx.map fun e =>
    let v5 := stage5 d.regs m p e.2 y c (li.demura.getD e.2 none) (li.stress.getD e.2 none) (li.ue.getD e.2 false) (stage4 d.regs m p y c e.1)
    if d.on (CAL.pg p) CAL.CTL_IR_EN then
      let f := bil m ir e.2 y / 16384
      v5.map fun x => cf24 (cfVal x * f)
    else v5

/-! ### C7 to C11 (R258-R264) -/

def lMax (v : Regs) (p : Nat) : Rat := mkRat (v.fld (CAL.pg p) CAL.DRIVE_FULL_NITS) 10000

/-- C7 of one channel, equation (6). -/
def driveC7 (v : Regs) (p : Nat) (c : CalSt) (ch v6 : Nat) : Nat :=
  let x := cfVal v6
  let lm := lMax v p
  let q := 4095 * pqInv (if lm < x then lm else x) / pqInv lm
  let q12 := (4096 * q).floor.toNat
  let i := min (q12 / 4096) 4094
  let f := q12 - 4096 * i
  let t := (c.table 1).getD []
  (rne (mkRat (u16At t (8192 * ch) i * (4096 - f) + u16At t (8192 * ch) (i + 1) * f : Nat) 4096)).toNat

/-- C8 of one channel of a line (R260): v6 and D per column to D per column; act x: the ACT of a listed subpixel. -/
def defectC8 (v : Regs) (p : Nat) (c : CalSt) (ch : Nat) (act : Nat → Option Nat) (v6 : List Nat) : List Nat :=
  let w := v6.length
  let gain := mkRat (v.fld (CAL.pg p) CAL.REDIST_GAIN) 128
  let share (x : Nat) : Rat :=
    if act x = some 2 then
      let both := decide (0 < x) && decide (x + 1 < w)
      cfVal (v6.getD x 0) * gain * (if both then 1 / 2 else 1)
    else 0
  v6.zipIdx.map fun e =>
    match act e.2 with
    | some _ => 0
    | none =>
      let s := (if 0 < e.2 then share (e.2 - 1) else 0) + (if e.2 + 1 < w then share (e.2 + 1) else 0)
      driveC7 v p c ch (if s = 0 then e.1 else cf24 (cfVal e.1 + s))

/-- C9, equation (7). -/
def overdriveC9 (c : CalSt) (ch prev cur : Nat) : Nat :=
  let t := (c.table 3).getD []
  let od (i j : Nat) : Nat := u16At t 0 (1089 * ch + 33 * i + j)
  let i := prev / 2048; let fi := prev % 2048
  let j := cur / 2048; let fj := cur % 2048
  let x := (2048 - fi) * (2048 - fj) * od i j + (2048 - fi) * fj * od i (j + 1) + fi * (2048 - fj) * od (i + 1) j + fi * fj * od (i + 1) (j + 1)
  min 65535 (rne (mkRat x (2 ^ 22))).toNat

/-- B8 of R263, row-major. -/
def b8 : List Nat :=
  [0, 32, 8, 40, 2, 34, 10, 42] ++ [48, 16, 56, 24, 50, 18, 58, 26] ++ [12, 44, 4, 36, 14, 46, 6, 38] ++
  [60, 28, 52, 20, 62, 30, 54, 22] ++ [3, 35, 11, 43, 1, 33, 9, 41] ++ [51, 19, 59, 27, 49, 17, 57, 25] ++
  [15, 47, 7, 39, 13, 45, 5, 37] ++ [63, 31, 55, 23, 61, 29, 53, 21]

/-- C10 (R263): mode of dither, code depth, temporal index, channel, pixel, code. -/
def ditherC10 (mode depth i ch x y code : Nat) : Nat :=
  let n := 16 - depth
  let top := 2 ^ depth - 1
  if mode = 0 then min top ((code + 2 ^ (n - 1)) / 2 ^ n)
  else
    let off := [(0, 0), (4, 4), (4, 0), (0, 4)].getD (i % 4) (0, 0)
    let c := [(0, 0), (5, 3), (2, 6)].getD ch (0, 0)
    let b := b8.getD ((y + c.2 + off.2) % 8 * 8 + (x + c.1 + off.1) % 8) 0
    let t := if n = 6 then b else b / 4
    min top (code / 2 ^ n + (if t < code % 2 ^ n then 1 else 0))

/-- The temporal index i of R263. -/
def Dev.ditherIdx (d : Dev) (p : Nat) : Nat :=
  if d.rd (CAL.pg p) CAL.CTL_DITHER = 1 then (d.frameNo * d.mode.s + d.rd SCAN.pg SCAN.POS_SLOT_NO) % 4
  else if d.on (CAL.pg p) CAL.CTL_TEMPORAL then d.rd SYNC.pg SYNC.DITH_IDX_IDX % 4 else 0

def codeDepth (v : Regs) (p : Nat) : Nat := if v.fld (CAL.pg p) CAL.CTL_DEPTH12 = 1 then 12 else 10

/-- Polarity of pixel (x, y) in frame f (R264). -/
def polarity (mode f x y : Nat) : Nat := (if mode = 0 then f else if mode = 1 then f + y else f + x + y) % 2

/-- A line as the Calender hands it on: C8 codes and output codes, R, G, B per pixel in ascending column, and whether
any v6 exceeded Lmax (R258). -/
structure LineOut where
  c8 : List Nat
  codes : List Nat
  clipped : Bool
  deriving DecidableEq, Repr

def interleave (a b c : List Nat) : List Nat := (List.range a.length).flatMap fun i => [a.getD i 0, b.getD i 0, c.getD i 0]

/-- C7 to C10 on a line's v6. -/
def Dev.lineCodes (d : Dev) (p y : Nat) (v6 : List (List Nat)) : LineOut :=
  let v := d.regs
  let c := d.calSt p
  let on (f : Fld) : Bool := d.on (CAL.pg p) f
  let defs := if on CAL.CTL_DEFECT_EN then
    (match c.table 4 with | some t => (defects t).filter fun e => e.2.1 == y | none => []) else []
  let col (ch : Nat) : List Nat := v6.map fun px => px.getD ch 0
  let c8 (ch : Nat) : List Nat :=
    defectC8 v p c ch (fun x => (defs.find? fun e => e.1 == x && e.2.2.1 == ch).map fun e => e.2.2.2) (col ch)
  let r := c8 0; let g := c8 1; let b := c8 2
  let all := interleave r g b
  let idle := d.rd (CAL.pg p) CAL.OD_IDLE_CODE
  let prev := if y = 0 then [] else c.prev
  let od := if on CAL.CTL_OD_EN then all.zipIdx.map fun e => overdriveC9 c (e.2 % 3) (prev.getD e.2 idle) e.1 else all
  let i := d.ditherIdx p
  let out := od.zipIdx.map fun e => ditherC10 (d.rd (CAL.pg p) CAL.CTL_DITHER) (codeDepth v p) i (e.2 % 3) (e.2 / 3) y e.1
  ⟨all, out, v6.any fun px => px.any fun x => decide (lMax v p < cfVal x)⟩

/-! ### Stress (R272-R279) -/

def stressK (ch : Nat) : Nat := if ch = 2 then 64 else 128
def stressMax (ch : Nat) : Nat := if ch = 2 then 1023 else 2047

/-- W_K[s] (R273), in 2^-40 h. -/
def stressW (k s : Nat) : Nat := (rne (2 ^ 42 * (rpow 2 (mkRat (s + 1) k) - rpow 2 (mkRat s k)))).toNat

/-- HK_K[s]. -/
def stressHK (k s : Nat) : Nat := sumNat ((List.range s).map (stressW k))

/-- RATE interpolated at code D, in code units (R275). -/
def stressRate (v : Regs) (p ch code : Nat) : Rat :=
  let i := min (code / 512) 127
  let f := code - 512 * i
  let r (e : Nat) : Nat := getBits (v.word (rkey AGING.pg (0x400 + 0x400 * p + 0x110 * ch + 4 * (e / 2)))) (16 * (e % 2)) 16
  mkRat (((r i : Int) * (512 - (f : Int)) + (r (i + 1) : Int) * f)) 512

/-- KT of port p at temperature T °C. -/
def stressKT (v : Regs) (p : Nat) (t : Rat) : Nat :=
  let j := (clampI ((t + 20) / 4).floor 0 31).toNat
  getBits (v.word (rkey AGING.pg (0xC00 + 0x40 * p + 4 * (j / 2)))) (16 * (j % 2)) 16

/-- Whole steps of R276: fuel bounds them by smax. -/
def stressStep (k mx : Nat) (e : Rat) (s : Nat) : Nat → Rat × Nat
  | 0 => (e, s)
  | n + 1 => if s < mx && decide (((stressW k s : Nat) : Rat) ≤ e) then stressStep k mx (e - (stressW k s : Nat)) (s + 1) n else (e, s)

/-- One code of R276: the increment and the hash rnd. -/
def stressCode (ch : Nat) (e : Rat) (rnd s : Nat) : Nat :=
  let k := stressK ch
  let mx := stressMax ch
  let q := stressStep k mx e s mx
  if q.2 < mx && decide (((rnd * stressW k q.2 : Nat) : Rat) < 2 ^ 32 * q.1) then q.2 + 1 else q.2

/-- Field of a stress word (R254). -/
def stressField (w ch : Nat) : Nat := if ch = 2 then w / 2 ^ 22 % 2 ^ 10 else w / 2 ^ (11 * ch) % 2 ^ 11

def stressWord (r g b : Nat) : Nat := r + g * 2 ^ 11 + b * 2 ^ 22

/-- The increment for code D (R276): te = base ns, added time in 1/65536 ns, its KT. -/
def stressInc (v : Regs) (p ch kt code : Nat) (te : Nat × Nat × Nat) : Rat :=
  ((te.1 * kt : Nat) + mkRat (te.2.1 * te.2.2) 65536) * stressRate v p ch code * 65536 / 3600000000000

/-- Update the stress words of line y of port p from its C8 codes (R276): words that read uncorrectable stay. Answers
saturated subpixels as well. -/
def Dev.stressLine (d : Dev) (p y : Nat) (sw : List (Option Nat)) (c8 : List Nat) (te : Nat × Nat × Nat) : Nat × Dev :=
  let v := d.regs
  let kt := d.rd AGING.pg AGING.STAT_KT_USED (i := p)
  let fr := d.frameNo
  let sl := d.rd SCAN.pg SCAN.POS_SLOT_NO
  let w := d.mode.w
  sw.zipIdx.foldl (fun (acc : Nat × Dev) e =>
    match e.1 with
    | none => (acc.1, acc.2.count AGING.pg AGING.UE_COUNT (i := p))
    | some s =>
      let new := (List.range 3).map fun ch =>
        let rnd := crc32c (leBytes 4 fr ++ leBytes 2 e.2 ++ leBytes 2 y ++ leBytes 1 (4 * sl + ch) ++ leBytes 1 p)
        stressCode ch (stressInc v p ch kt (c8.getD (3 * e.2 + ch) 0) te) rnd (stressField s ch)
      let sat := ((List.range 3).filter fun ch => new.getD ch 0 == stressMax ch).length
      (acc.1 + sat, acc.2.putItem (.stress p) (4 * (y * w + e.2)) (leBytes 4 (stressWord (new.getD 0 0) (new.getD 1 0) (new.getD 2 0)))))
    (0, d)

end Sys2Proof.Machine
end

