-- ==== Sys2Proof/Machine/Ports.lean ====
section
/-! DEFINITION. What the ports share: why emission is held off (R217, R266, R325, R347), and the metering of interrupted
and operating time (R392, R393). -/

namespace Sys2Proof.Machine

def Dev.tdlSt (d : Dev) (p : Nat) : TdlSt := mget (fun _ => TdlSt.reset) d.tdl p
def Dev.setTdl (d : Dev) (p : Nat) (x : TdlSt) : Dev := { d with tdl := mset (fun _ => TdlSt.reset) d.tdl p x }
def Dev.panelSt (d : Dev) (p : Nat) : PanelSt := mget (fun _ => PanelSt.reset) d.panel p
def Dev.setPanel (d : Dev) (p : Nat) (x : PanelSt) : Dev := { d with panel := mset (fun _ => PanelSt.reset) d.panel p x }
def Dev.panelState (d : Dev) (p : Nat) : Nat := d.rd (PANEL.pg p) HDR.PG_STAT_STATE

/-- Port p's scan domain is on. -/
def Dev.scanOn (d : Dev) (p : Nat) : Bool := d.domOn (4 + p)

/-! ### Lost tables (R266) -/

/-- Table kind k of port p reads lost: kind 0 while a bank of the demura map is LOST. -/
def Dev.kindLost (d : Dev) (p k : Nat) : Bool :=
  if k = 0 then d.mapLost (.demura p) else bit (d.rd (CAL.pg p) CAL.TBL_STAT_LOST) k

/-- Is kind k needed by the active CTL? -/
def Dev.kindNeeded (d : Dev) (p k : Nat) : Bool :=
  let on (f : Fld) : Bool := d.on (CAL.pg p) f
  match k with
  | 0 => on CAL.CTL_DEMURA_EN
  | 1 => true
  | 2 => on CAL.CTL_AGE_EN
  | 3 => on CAL.CTL_OD_EN
  | 4 => on CAL.CTL_DEFECT_EN
  | _ => on CAL.CTL_OFFSET_EN

/-- A lost kind that darkens the port: needed, without a working copy, and not neutral under LOST_POLICY. -/
def Dev.kindDark (d : Dev) (p k : Nat) : Bool :=
  d.kindNeeded p k && d.kindLost p k && (k == 0 || ((d.calSt p).table k).isNone) &&
    !(d.on (CAL.pg p) CAL.CTL_LOST_POLICY && (k == 0 || k == 2 || k == 4 || k == 5))

/-- Port p's Calender holds a working copy of every table kind that is not lost: it reads them after its scan domain has woken, before
the port next follows (R266). -/
def Dev.tablesRead (d : Dev) (p : Nat) : Bool := [1, 2, 3, 4, 5].all fun k => d.kindLost p k || ((d.calSt p).table k).isSome

def Dev.calDark (d : Dev) (p : Nat) : Bool := (List.range 6).any (d.kindDark p)

/-! ### Emission held off -/

/-- The port is dark because a lost driver group's policy is DARK (R325). -/
def Dev.groupDark (d : Dev) (p : Nat) : Bool := (d.tdlSt p).lost != 0 && d.on (TDL.pg p) TDL.CTL_GROUP_LOSS

/-- A latched crack under POLICY DARK (R347). -/
def Dev.crackDark (d : Dev) (p : Nat) : Bool :=
  d.on (PANEL.pg p) PANEL.CRK_STAT_LATCHED && d.rd (PANEL.pg p) PANEL.CRK_CTL_POLICY == 1

/-- A fill that must end before the port next emits (R253, R281), or a device rectangle that refills the slot's image
(R197). -/
def Dev.fillDark (d : Dev) (p : Nat) : Bool :=
  (d.calSt p).fill || (d.calSt p).stressFill ||
    d.rects.any fun r => r.fill && r.slot == d.rd SCAN.pg SCAN.POS_SLOT_NO

/-- A dark port that does not leave its dark state: a stress LOAD or RECONCILE (R283), or a demura copy that began while
the port was dark or on which it went dark (R268). -/
def Dev.stayDark (d : Dev) (p : Nat) : Bool :=
  (match d.aging.op with | some o => decide (o.op < 2) && o.port == p | none => false) ||
  (match (d.calSt p).load with | some l => l.target == 0 && (l.step == 5 || (l.step == 4 && d.portState p != 1)) | none => false)

/-- Port p stays dark up to a frame FLE after that (R268). -/
def Dev.stay (d : Dev) (p : Nat) : Dev := d.setPortR p { d.portR p with stay := true }

/-- At a frame FLE a port follows again whose reason to stay dark has ended. -/
def Dev.stayFle (d : Dev) : Dev := [0, 1].foldl (fun d p => d.setPortR p { d.portR p with stay := d.stayDark p }) d

/-- Port p is kept dark, since a frame FLE or the start of what keeps it so. -/
def Dev.stays (d : Dev) (p : Nat) : Bool := d.stayDark p || (d.portR p).stay

/-- Port p follows with emission held off. -/
def Dev.heldOff (d : Dev) (p : Nat) : Bool :=
  d.crackDark p || d.calDark p || d.groupDark p || d.fillDark p || d.stays p

/-- Emission of port p is held off in every slot of the frame. -/
def Dev.heldFrame (d : Dev) (p : Nat) : Bool :=
  d.crackDark p || d.calDark p || d.groupDark p || d.stays p || (d.calSt p).fill || (d.calSt p).stressFill ||
    (List.range d.mode.s).all fun s => d.rects.any fun r => r.fill && r.slot == s

/-- Dark (R217): not following, or following with emission held off for a whole frame: since its FLE. -/
def Dev.isDark (d : Dev) (p : Nat) : Bool := d.portState p != 1 || ((d.portR p).held && d.heldFrame p)

/-- A frame begins: the ports whose emission is held off (R217). -/
def Dev.heldFle (d : Dev) : Dev := [0, 1].foldl (fun d p => d.setPortR p { d.portR p with held := d.heldFrame p }) d

/-! ### Interruption (R392, R393) -/

/-- The part of [a, b) before, and after, an interval. -/
def cutSpan (s : Nat × Nat) (l : List (Nat × Nat)) : List (Nat × Nat) :=
  l.flatMap fun e =>
    if s.2 ≤ e.1 || e.2 ≤ s.1 then [e]
    else (if e.1 < s.1 then [(e.1, s.1)] else []) ++ (if s.2 < e.2 then [(s.2, e.2)] else [])

def spanLen (l : List (Nat × Nat)) : Nat := l.foldl (fun n e => n + (e.2 - e.1)) 0

/-- Charge [a, b) to account i: what it adds to the account's union, and the account after. Intervals that ended more
than a second before are let go. -/
def Dev.addSpan (d : Dev) (i a b : Nat) : Nat × Dev :=
  let old := mget (fun _ => []) d.flt.spans i
  let new := spanLen (old.foldl (fun l s => cutSpan s l) [(a, b)])
  let kept := (old.filter fun s => decide (b < s.2 + 1000000000)) ++ [(a, b)]
  (new, { d with flt := { d.flt with spans := mset (fun _ => []) d.flt.spans i kept } })

/-- Charge the interval [a, b) of ns to port p (R393): INT_x_US by what it adds to the port, INTERRUPT_NS by what it adds
to the device, and EV_INTERRUPTION, which FREEZE holds back no more than any event (R49). -/
def Dev.charge (d : Dev) (p a b : Nat) : Dev :=
  if b ≤ a then d
  else
    let x := d.addSpan p a b
    let d := x.2
    let d : Dev := if x.1 = 0 || d.frozen FAULT.pg then d
      else
        let t := mget (fun _ => 0) d.flt.portNs p + x.1
        ({ d with flt := { d.flt with portNs := mset (fun _ => 0) d.flt.portNs p t } } : Dev).wr FAULT.pg FAULT.INT_US_US (satU 32 (t / 1000)) (i := p)
    let y := d.addSpan 2 a b
    let d := { y.2 with flt := { y.2.flt with lifeIntNs := y.2.flt.lifeIntNs + y.1 } }
    if y.1 = 0 then d
    else
      let d : Dev := if d.frozen FAULT.pg then d else { d with flt := { d.flt with intNs := d.flt.intNs + y.1 } }
      d.raise FAULT.pg 1

/-- What a charge added to the device's interruption since `was` goes to the records of port p's lost groups (R325, R401). -/
def Dev.chargeLost (d : Dev) (p was : Nat) : Dev :=
  (d.openOf 0x07 p).foldl (fun d n => d.faultNs n (d.flt.lifeIntNs - was)) d

/-- ps to ns, to nearest. -/
def nsOf (ps : Nat) : Nat := (ps + 500) / 1000

/-- Charge line y of port p's raster: one line time (R392). Its start is counted back from the port's present line. -/
def Dev.chargeLine (d : Dev) (p y : Nat) : Dev :=
  let m := d.mode
  let r := d.portR p
  let back := if y ≤ r.line then r.line - y else r.line + (m.h + m.vb) - y
  let t : Rat := (r.lineT : Rat) - back * m.tLine
  let a := nsOf (if t < 0 then 0 else t.floor.toNat)
  d.charge p a (a + m.tLineNs)

/-- Port p is dark by a cause that counts as interruption (R392). -/
def Dev.intDark (d : Dev) (p : Nat) : Bool :=
  d.panelState p == 7 && ((d.portR p).dark || (d.portState p == 1 && (d.groupDark p ||
    (List.range 6).any fun k => d.kindDark p k && !(bit (d.calSt p).por k))))

/-- The device operates (R393): a port enabled, lit, and following or interrupted. -/
def Dev.operating (d : Dev) : Bool :=
  [0, 1].any fun p => d.portOn p && d.panelState p == 7 && (d.portState p == 1 || d.intDark p)

/-- The meters run up to time t (ps) of a timed raster command. -/
def Dev.meter (d : Dev) (t : Nat) : Dev :=
  let a := nsOf d.scan.now
  let b := nsOf t
  let d := if d.operating && a < b then
      let d := { d with flt := { d.flt with lifeOpNs := d.flt.lifeOpNs + (b - a) } }
      if d.frozen FAULT.pg then d else { d with flt := { d.flt with opNs := d.flt.opNs + (b - a) } }
    else d
  let d := [0, 1].foldl (fun d p =>
    if d.intDark p then
      let was := d.flt.lifeIntNs
      (d.charge p a b).onlyIf (d.groupDark p) (·.chargeLost p was)
    else d) d
  { d with scan := { d.scan with now := t } }

/-- EMIT_x goes low at once when emission is held off (R266, R325, R347). A HELD panel shows its own picture (R230), which only a crack
darkens. -/
def Dev.holdEmit (d : Dev) : Dev :=
  [0, 1].foldl (fun d p => if d.crackDark p || (d.heldOff p && d.portState p != 5) then d.emit p false else d) d

/-- Lines of port p to be programmed in the next pass whatever R208 holds. -/
def Dev.dirty (d : Dev) (p : Nat) (ys : List Nat) : Dev :=
  let c := d.calSt p
  d.setCal p { c with skip := { c.skip with dirty := (c.skip.dirty.filter fun y => !ys.contains y) ++ ys } }

/-- The next pass of port p programmes every line (R208). -/
def Dev.forceRows (d : Dev) (p : Nat) : Dev :=
  let c := d.calSt p
  d.setCal p { c with skip := { c.skip with force := true } }

end Sys2Proof.Machine
end

