-- ==== Sys2Proof/Machine/AgingOps.lean ====
section
/-! DEFINITION. Stress operations (R281-R288, R294): LOAD, RECONCILE, SNAP; validity of the stress maps; the emission time
of a slot pass and the catch-up after self-refresh (R274, R275, R278, R279). -/

namespace Sys2Proof.Machine

/-! ### LOST maps (R122) -/

/-- Map k has lost its contents: no line of it has been written since (R122). -/
def Dev.reloadStart (d : Dev) (k : ItemKind) : Dev :=
  { d with reeve := { d.reeve with reloaded := d.reeve.reloaded.filter fun e => e.1 != k } }

/-- n lines of map k from line l0 on have been loaded; with every line of a LOST map its banks are READY (R122). -/
def Dev.reload (d : Dev) (k : ItemKind) (l0 n : Nat) : Dev :=
  if !d.mapLost k then d
  else
    let new := ((List.range n).map fun i => (k, l0 + i)).filter fun e => !d.reeve.reloaded.contains e
    let d := { d with reeve := { d.reeve with reloaded := d.reeve.reloaded ++ new } }
    if (List.range d.mode.h).all fun y => d.reeve.reloaded.contains (k, y) then (d.itemReady k).reloadStart k else d

/-! ### Validity (R281) -/

def Dev.tracked (d : Dev) (p : Nat) : Bool := d.on AGING.pg (portAging p) && d.operates AGING.pg
def Dev.stressValid (d : Dev) (p : Nat) : Bool := d.on AGING.pg AGING.STAT_VALID (i := p)

/-- EV_STRESS_NOT_VALID holds while VALID is 0 on a tracked port (R281). -/
def Dev.stressCond (d : Dev) : Dev := d.cond AGING.pg 2 ([0, 1].any fun p => d.tracked p && !d.stressValid p)

def Dev.setStressValid (d : Dev) (p : Nat) (b : Bool) : Dev := (d.wr AGING.pg AGING.STAT_VALID (b2n b) (i := p)).stressCond

/-- AGING.PG_STAT.STATE (R293). -/
def Dev.agingState (d : Dev) : Dev :=
  d.wr AGING.pg HDR.PG_STAT_STATE (if d.aging.op.isSome then 2 else if d.tracked 0 || d.tracked 1 then 1 else 0)

/-! ### Snapshots (R285, R286) -/

/-- HK of every code of channel ch, in order (R273). -/
def hkTable (ch : Nat) : List Nat :=
  (List.range (stressMax ch)).foldl (fun (a : List Nat × Nat) s => (a.1 ++ [a.2 + stressW (stressK ch) s], a.2 + stressW (stressK ch) s)) ([0], 0) |>.1

/-- The largest code with HK ≤ h. -/
def codeFor (t : List Nat) (h : Rat) : Nat := (t.filter fun (x : Nat) => decide ((x : Rat) ≤ h)).length - 1

/-- The stress word of pixel (x, y), none where uncorrectable. -/
def Dev.stressAt (d : Dev) (p x y : Nat) : Option Nat :=
  let o := 4 * (y * d.mode.w + x)
  if d.itemBad (.stress p) o 4 then none else some (d.itemNat (.stress p) o 4)

/-- The pixels of coarse cell (u, v) (R285). -/
def Mode.cellPx (m : Mode) (u v : Nat) : List (Nat × Nat) :=
  ((List.range m.h).filter fun y => 540 * y / m.h == v).flatMap fun y =>
    ((List.range m.w).filter fun x => 960 * x / m.w == u).map fun x => (x, y)

def meanHK (t : List Nat) (ch : Nat) (ws : List Nat) : Rat :=
  mkRat (sumNat (ws.map fun w => t.getD (stressField w ch) 0)) ws.length

/-- The coarse words of port p, row by row, with the number of cells that have no correctable word. -/
def Dev.coarse (d : Dev) (p : Nat) : List Nat × Nat :=
  let ts := [hkTable 0, hkTable 1, hkTable 2]
  let cells := (List.range 540).flatMap fun v => (List.range 960).map fun u => (d.mode.cellPx u v).filterMap fun e => d.stressAt p e.1 e.2
  (cells.map fun ws =>
    if ws.isEmpty then 0
    else
      let c (ch : Nat) : Nat := codeFor (ts.getD ch []) (meanHK (ts.getD ch []) ch ws)
      stressWord (c 0) (c 1) (c 2), (cells.filter (·.isEmpty)).length)

def snapMagic : Nat := 0x534E5354

/-- A snapshot slot is valid (R286). -/
def Dev.snapValid (d : Dev) (p j : Nat) : Bool :=
  let b := stressSlotBase p j
  d.nvNat b 4 == snapMagic && d.nvNat (b + 4) 4 == 1 && d.nvNat (b + 0xFC) 4 == crc32c (d.nvBytes b 0xFC) &&
    d.nvNat (b + 0x28) 4 == crc32c (d.nvBytes (b + 0x100) 2073600) && !d.nvAnyBad b (0x100 + 2073600)

def Dev.snapSeq (d : Dev) (p j : Nat) : Nat := d.nvNat (stressSlotBase p j + 0x10) 4

/-- The newest slot of port p among those that satisfy q; equal SEQ choose slot 0. -/
def Dev.snapNewest (d : Dev) (p : Nat) (q : Nat → Bool) : Option Nat :=
  let a := d.snapValid p 0 && q 0
  let b := d.snapValid p 1 && q 1
  if a && b then some (if d.snapSeq p 0 < d.snapSeq p 1 then 1 else 0) else if a then some 0 else if b then some 1 else none

/-- SNAP_SEQ_x and SNAP_FRAME_x. -/
def Dev.snapShow (d : Dev) (p : Nat) : Dev :=
  match d.snapNewest p fun _ => true with
  | some j => (d.wr AGING.pg AGING.SNAP_SEQ_SEQ (d.snapSeq p j) (i := p)).wr AGING.pg AGING.SNAP_FRAME_FRAME (d.nvNat (stressSlotBase p j + 0x14) 4) (i := p)
  | none => (d.wr AGING.pg AGING.SNAP_SEQ_SEQ 0 (i := p)).wr AGING.pg AGING.SNAP_FRAME_FRAME 0 (i := p)

/-! ### Operations (R283) -/

def Dev.opErr (d : Dev) (code func : Nat) : Dev := d.err AGING.pg code 0x058 func

/-- Start operation op on port p: OP_STAT, and the page busy. During a LOAD or RECONCILE the port stays dark (R283). -/
def Dev.opStart (d : Dev) (o : StressOp) : Dev :=
  let d := d.onlyIf (decide (o.op < 2)) (·.stay o.port)
  let d := d.putWord AGING.pg 0x068 (BitVec.ofNat 32 (4 + o.op * 8 + o.port * 32))
  (({ d with aging := { d.aging with op := some o } } : Dev).agingState).busy AGING.pg true

/-- Requester r reads map k whole (R110, R285). -/
def Dev.mapRead (d : Dev) (r : Nat) (k : ItemKind) : Dev := d.unitRead r (d.itemWords k 0 (4 * d.mode.w * d.mode.h))

/-- Start a SNAP of port p (R285): the Granary reads the map, and the older slot is rewritten with its header page last. -/
def Dev.snapStart (d : Dev) (p : Nat) : Dev :=
  let d := (d.mapRead Own.GRANARY (.stress p)).nvScan (stressSlotBase p 0) 0x400000
  let j := if !d.snapValid p 0 then 0 else if !d.snapValid p 1 then 1 else if d.snapSeq p 1 < d.snapSeq p 0 then 1 else 0
  let other := 1 - j
  let seq := if d.snapValid p other then d.snapSeq p other + 1 else 1
  let c := d.coarse p
  let payload := c.1.flatMap (leBytes 4)
  let head := leBytes 4 snapMagic ++ leBytes 4 1 ++ leBytes 4 p ++ leBytes 4 d.mode.res ++ leBytes 4 seq ++ leBytes 4 d.frameNo ++
    leBytes 8 d.devtime ++ leBytes 4 (d.rd AGING.pg AGING.PANEL_TAG (i := p)) ++ leBytes 4 c.2 ++ leBytes 4 (crc32c payload) ++ List.replicate 208 0
  let b := stressSlotBase p j
  let pages := pagesOf (b + 0x100) payload ++ pagesOf b (head ++ leBytes 4 (crc32c head))
  let d := d.wr AGING.pg AGING.STAT_SNAP_DUE 0 (i := p)
  (d.opStart ⟨2, p, 0, 0, 0, 0, [], 2, d.frameNo, d.devtime, j, false⟩).addWriter 1 7 pages

/-- A SNAP of port p may start: engine free, tracked, valid, scan domain on. -/
def Dev.snapCan (d : Dev) (p : Nat) : Bool := d.aging.op.isNone && d.tracked p && d.stressValid p && d.scanOn p

/-- Waiting timed SNAPs start when they can (R285). -/
def Dev.snapDue (d : Dev) : Dev :=
  [0, 1].foldl (fun d p => if d.on AGING.pg AGING.STAT_SNAP_DUE (i := p) && d.snapCan p then d.snapStart p else d) d

/-- An operation ends: OUTCOME, CODE, EV_STRESS_OP_DONE; a waiting SNAP takes the engine (R283, R285, R60). -/
def Dev.opEnd (d : Dev) (outcome code : Nat) : Dev :=
  let d := ((d.wr AGING.pg AGING.OP_STAT_OUTCOME outcome).wr AGING.pg AGING.OP_STAT_CODE code).wr AGING.pg AGING.OP_STAT_ACTIVE 0
  let d := (({ d with aging := { d.aging with op := none } } : Dev).agingState).busy AGING.pg false
  (d.raise AGING.pg 0).snapDue

def Dev.opFail (d : Dev) (code : Nat) : Dev := (d.opErr code 15).opEnd 3 code
def Dev.opComplete (d : Dev) (late : Bool) : Dev := if late then d.opEnd 2 E.ABORT_LATE else d.opEnd 0 0

/-- A SNAP ends before its commit point, the completion of its header page (R285): its pages are dropped but for a payload page being
programmed. DEDUCED: the header page being programmed stops too, as R60 wants of what is not past its commit point; no rule completes it, R369
being of a brown-out (log entry 61). -/
def Dev.snapAway (d : Dev) : Dev :=
  let last := match d.nv.writers.head? with | some w => w.who == 1 && w.pages.length == 1 | none => false
  let d := d.orphanPages 1 false
  if last then (({ d with nv := { d.nv with writers := d.nv.writers.drop 1 } } : Dev).nvState).serveHeld.moot else d

/-- Operation o has not passed its commit point (R284, R285, R287). -/
def Dev.opEarly (d : Dev) (o : StressOp) : Bool := if o.op = 2 then d.writing 1 else o.step == 1

/-- What operation o has under way ends with it. -/
def Dev.opDrop (d : Dev) (o : StressOp) : Dev := if o.op = 2 then d.snapAway else d.endJob .stressLoad

/-- An abort, arbitrated against the commit point (R60, R294). -/
def Dev.opAbort (d : Dev) (func : Nat) : Dev :=
  match d.aging.op with
  | none => d
  | some o =>
    if d.opEarly o then ((d.opDrop o).opErr E.ABORTED func).opEnd 1 E.ABORTED
    else ({ d with aging := { d.aging with op := some { o with late := true } } } : Dev).opErr E.ABORT_LATE func

/-- OP_CTL.GO of operation op on the named port (R283). -/
def Dev.opGo (d : Dev) (who : Req) (op : Nat) : Dev :=
  let p := d.rd AGING.pg AGING.OP_CTL_PORT
  let f := d.rd AGING.pg AGING.OP_CTL_FUNC
  let src := d.rd AGING.pg AGING.OP_SRC_LO + 2 ^ 32 * d.rd AGING.pg AGING.OP_SRC_HI
  let l0 := d.rd AGING.pg AGING.OP_LINES_LINE0
  let n := d.rd AGING.pg AGING.OP_LINES_LINES
  let m := d.mode
  if d.aging.op.isSome then d.opErr E.BUSY who.code
  else if !d.tracked p || !d.scanOn p then d.opErr E.STATE who.code
  else if op < 2 && !d.isDark p then d.opErr E.STATE who.code
  else if op = 2 && !d.stressValid p then d.opErr E.STATE who.code
  else if op = 0 && (f == 3 || src % 64 != 0 || n == 0 || decide (m.h < l0 + n) || decide (4194304 < n * m.w * 4)) then d.opErr E.RANGE who.code
  else if op = 0 && (d.calSt p).load.isSome then d.opErr E.BUSY who.code
  else if op = 2 then d.snapStart p
  else
    let d := d.opStart ⟨op, p, f, src, l0, n, [], 1, 0, 0, 0, false⟩
    if op = 0 then d.fetch ⟨f, .stressLoad, src, n * m.w * 4⟩ else d

/-- A write of OP_CTL with GO: RW fields, ABORT (R60), MARK_VALID (R281), GO. -/
def Dev.opWrite (d : Dev) (a : Acc) (op : Nat) (x : Word) : Dev :=
  d.guarded a AGING.pg 0x058 fun d =>
    let d := d.storeRw AGING.pg 0x058 (setBits x 0 2 op)
    let d := if AGING.OP_CTL_ABORT.of x = 1 then d.opAbort a.who.code else d
    let d := if AGING.OP_CTL_MARK_VALID.of x = 1 then d.setStressValid (d.rd AGING.pg AGING.OP_CTL_PORT) true else d
    d.opGo a.who op

def execStressLoad (a : Acc) (x : Word) (s : State) : Out := hostWrite (.stressLoad a x) a (fun d => d.opWrite a 0 x) s
def execStressReconcile (a : Acc) (x : Word) (s : State) : Out := hostWrite (.stressReconcile a x) a (fun d => d.opWrite a 1 x) s
def execStressSnap (a : Acc) (x : Word) (s : State) : Out := hostWrite (.stressSnap a x) a (fun d => d.opWrite a 2 x) s

/-- MARK_VALID sets VALID of the port that the word names (R281). -/
def execMarkValid (a : Acc) (x : Word) (s : State) : Out :=
  hostWrite (.markValid a x) a (fun d => d.guarded a AGING.pg 0x058 fun d =>
    let d := d.storeRw AGING.pg 0x058 x
    (d.setStressValid (d.rd AGING.pg AGING.OP_CTL_PORT) true).snapDue) s

def execStressOpAbort (a : Acc) (s : State) : Out :=
  hostWrite (.stressOpAbort a) a (fun d => d.guarded a AGING.pg 0x058 fun d => d.opAbort a.who.code) s

/-- SNAP_PERIOD seconds have passed for port p (R285). -/
def execSnapPeriodExpire (p : Port) (s : State) : Out :=
  finish (fun d =>
    if d.on AGING.pg AGING.CTL_SNAP_EN && d.tracked p.val && d.stressValid p.val then
      if d.snapCan p.val then d.snapStart p.val else d.wr AGING.pg AGING.STAT_SNAP_DUE 1 (i := p.val)
    else d) s

/-- An orderly power-off of port p begins: a snapshot while SNAP_ON_OFF is 1 (R285, R340). -/
def Dev.snapOnOff (d : Dev) (p : Nat) : Dev :=
  if d.on AGING.pg AGING.CTL_SNAP_ON_OFF && d.snapCan p then d.snapStart p else d

/-- The last byte of a LOAD has arrived: its commit point; OP_CRC, and the lines go into the map (R284). -/
def execStressLoadFetchDone (s : State) : Out :=
  finish (fun d =>
    match d.aging.op with
    | some o =>
      if o.op = 0 && o.step = 1 && d.fetched .stressLoad then
        let data := (List.range (o.lines * d.mode.w * 4)).map fun i => mget memDefault o.bytes (o.src + i)
        let d := (d.wr AGING.pg AGING.OP_CRC_CRC (crc32c data)).putItem (.stress o.port) (4 * d.mode.w * o.line0) data
        ({ d with aging := { d.aging with op := some { o with step := 2, bytes := [] } } } : Dev).reload (.stress o.port) o.line0 o.lines
      else d
    | none => d) s

/-- One cell channel of RECONCILE (R287): the new codes of the cell's pixels, if the snapshot is above the map. -/
def raiseCodes (t : List Nat) (ch c : Nat) (ws : List Nat) : Option (List Nat) :=
  let mc := meanHK t ch ws
  let ms : Rat := (t.getD c 0 : Nat)
  if ws.isEmpty || decide (ms ≤ mc) then none
  else some (ws.map fun w =>
    let h : Rat := (t.getD (stressField w ch) 0 : Nat)
    codeFor t (if 0 < mc then h * ms / mc else ms))

def setStressField (w ch c : Nat) : Nat :=
  let f (k : Nat) : Nat := if k = ch then c else stressField w k
  stressWord (f 0) (f 1) (f 2)

/-- RECONCILE's map update from slot j (R287): cells raised, and the device. -/
def Dev.reconcile (d : Dev) (p j : Nat) : Nat × Dev :=
  let m := d.mode
  let ts := [hkTable 0, hkTable 1, hkTable 2]
  (List.range (960 * 540)).foldl (fun (acc : Nat × Dev) i =>
    let d := acc.2
    let px := (m.cellPx (i % 960) (i / 960)).filter fun e => (d.stressAt p e.1 e.2).isSome
    let ws := px.filterMap fun e => d.stressAt p e.1 e.2
    let sw := d.nvNat (stressSlotBase p j + 0x100 + 4 * i) 4
    let r := (List.range 3).map fun ch => raiseCodes (ts.getD ch []) ch (stressField sw ch) ws
    let new := r.zipIdx.foldl (fun (l : List Nat) e =>
      match e.1 with
      | some cs => l.zipIdx.map fun w => setStressField w.1 e.2 (cs.getD w.2 0)
      | none => l) ws
    let d := (px.zipIdx).foldl (fun d e =>
      let w := new.getD e.2 0
      if w = ws.getD e.2 0 then d else d.putItem (.stress p) (4 * (e.1.2 * m.w + e.1.1)) (leBytes 4 w)) d
    (acc.1 + (r.filter (·.isSome)).length, d)) (0, d)

/-- A stress operation ends (R283-R287); its Granary reads answer ecc. A RECONCILE passes its commit point first, once a slot has stood the
check, and raises the map. -/
def execStressOpDone (ecc : Ecc) (s : State) : Out :=
  finish (fun d =>
    match d.aging.op with
    | none => d
    | some o =>
      if o.op = 0 then if 2 ≤ o.step then (d.setStressValid o.port false).opComplete o.late else d
      else if o.op = 2 then
        if d.writing 1 then d
        else
          let b := stressSlotBase o.port o.slot
          ((d.wr AGING.pg AGING.OP_CRC_CRC (d.nvNat (b + 0x28) 4)).snapShow o.port).opComplete o.late
      else
        let p := o.port
        if o.step != 1 then (d.onlyIf (o.step == 2) (·.setStressValid p true)).opComplete o.late else
        let d := [0, 1].foldl (fun d j => (d.nvRead (stressSlotBase p j) (0x100 + 2073600) ecc).2) d
        let tag := d.rd AGING.pg AGING.PANEL_TAG (i := p)
        match d.snapNewest p fun j =>
            d.nvNat (stressSlotBase p j + 8) 4 == p && d.nvNat (stressSlotBase p j + 12) 4 == d.mode.res &&
              d.nvNat (stressSlotBase p j + 0x20) 4 == tag with
        | none => d.opFail E.STATE
        | some j =>
          let q := (d.mapRead Own.AGING (.stress p)).reconcile p j
          let d := q.2.wr AGING.pg AGING.OP_STAT_CELLS (satU 16 q.1)
          { d with aging := { d.aging with op := some { o with step := 2 } } }) s

/-- A bank of port p's stress map enters LOST (R281, R294). -/
def Dev.stressLost (d : Dev) (p : Nat) : Dev :=
  let d := d.setStressValid p false
  match d.aging.op with
  | some o => if o.op = 2 && o.port = p then (d.onlyIf (d.opEarly o) (·.snapAway)).opFail E.RETENTION_LOST else d
  | none => d

/-- An operation on port p's stress map that has not passed its commit point ends ABORTED with E_STATE (R294). -/
def Dev.stressStop (d : Dev) (p : Nat) : Dev :=
  match d.aging.op with
  | some o =>
    if o.port = p && d.opEarly o then ((d.opDrop o).opErr E.STATE 15).opEnd 1 E.STATE else d
  | none => d

/-- The Reeve places port p's stress map afresh (R281, R294): VALID clears, the map reads 0 before the port next emits, and
an operation on it before its commit point ends ABORTED with E_STATE; a later one's work is discarded. -/
def Dev.stressReplaced (d : Dev) (p : Nat) : Dev :=
  let d := d.stressStop p
  let d := match d.aging.op with
    | some o => if o.port = p && o.op < 2 then { d with aging := { d.aging with op := some { o with step := 3 } } } else d
    | none => d
  let d := d.putItem (.stress p) 0 (List.replicate (4 * d.mode.w * d.mode.h) 0)
  (d.setCal p { d.calSt p with stressFill := true }).setStressValid p false

def execStressMapFillDone (p : Port) (s : State) : Out :=
  finish (fun d => d.setCal p.val { d.calSt p.val with stressFill := false }) s

/-! ### Emission time (R274, R275, R278, R279) -/

/-- What a panel held in SR2 shows is no longer what is scanned (R279): another image was flipped to, or a rectangle passed its commit point. -/
def Dev.heldChanged (d : Dev) : Dev :=
  { d with aging := { d.aging with catchUp := d.aging.catchUp.map fun e => (e.1, e.2.map fun c => { c with changed := true }) } }

/-- The panel temperature of port p, °C: what the Sense unit reports, else the default (R275). -/
def Dev.panelTemp (d : Dev) (p : Nat) : Rat :=
  if d.on SENSE.pg SENSE.PT_VALID (i := p) then mkRat (sext 16 (d.rd SENSE.pg SENSE.PT_TEMP (i := p))) 256
  else (sext 8 (d.rd AGING.pg AGING.TEMP_DEFAULT) : Rat)

/-- TEMP_USED and KT_USED at a frame FLE (R275). TEMP_USED is S8.0; its rounding is a free choice (log entry 3). -/
def Dev.agingTemp (d : Dev) (p : Nat) : Dev :=
  let t := d.panelTemp p
  let q := d.takeRound t
  (q.2.wr AGING.pg AGING.STAT_TEMP_USED (toTwos 8 q.1) (i := p)).wr AGING.pg AGING.STAT_KT_USED (stressKT d.regs p t) (i := p)

/-- The emission time of port p's slot pass from slot s's FLE on (R274, R278, R279): ns, held time up to the frame's FLE in
1/65,536 ns and its KT. A pass with emission held off is a dark one. -/
def Dev.setTe (d : Dev) (p s : Nat) (shown : Nat) : Dev :=
  let e3 := decide (3 ≤ d.rd TITHE.pg TITHE.ECON_STAT_LEVEL)
  let n := d.rd AGING.pg AGING.CTL_ECON_N
  let skip := e3 && d.frameNo % n != 0
  let base := 5 * d.rd SYNC.pg SYNC.WIN_LEN (i := s)
  let live := d.tracked p && base != 0 && !d.isDark p && !d.heldOff p && !skip
  let put (d : Dev) (x : Nat × Nat × Nat) : Dev :=
    { d with aging := { d.aging with te := mset (fun _ => (0, 0, 0)) d.aging.te p x } }
  if !live then put d (0, 0, 0)
  else
    let t := if e3 then base * n else base
    match mget (fun _ => none) d.aging.catchUp p with
    | some c =>
      let held := d.aging.fle - c.at_
      let d := { d with aging := { d.aging with catchUp := mset (fun _ => none) d.aging.catchUp p none } }
      let q := d.takeRound (mkRat held 1000000)
      let d := q.2.wr AGING.pg AGING.CATCHUP_MS (satU 32 q.1.toNat) (i := p)
      (put d (t, held * d.rd AGING.pg AGING.SR2_DUTY_DUTY, c.kt)).onlyIf (c.changed || (!d.mode.part && shown != c.img)) (·.raise AGING.pg 3)
    | none => put d (t, 0, 0)

end Sys2Proof.Machine
end

