-- ==== Sys2Proof/Machine/CalLoad.lean ====
section
/-! DEFINITION. Calibration maps and tables (R253, R259, R265-R271): loads, lost kinds, the working copies, and the fill
of a map placed afresh. -/

namespace Sys2Proof.Machine

/-- AUX offset of slot k of port x's tables (R265). -/
def tblBase (p k : Nat) : Nat := 0x400000 + p * 0x80000 + k * 0x40000

/-- Offset within a slot, and size, of table kind 1 to 5. -/
def tblOff (kind : Nat) : Nat := [0, 0x0, 0x6000, 0x9000, 0xC000, 0x10000].getD kind 0
def tblSize (kind : Nat) : Nat := [0, 24576, 10240, 6534, 16384, 69632].getD kind 0

def Dev.tblSel (d : Dev) (p kind : Nat) : Nat := d.rd (CAL.pg p) CAL.TBL_STAT_SEL / 2 ^ (kind - 1) % 2

/-- A defect list satisfies R259 up to its first END. -/
def defectsOk (t : List Byte) : Bool :=
  let l := defects t
  let key (e : Nat × Nat × Nat × Nat) : Nat := e.2.1 * 2 ^ 15 + e.1 * 4 + e.2.2.1
  l.all (fun e => e.2.2.1 != 3 && e.2.2.2 != 3) && (l.zip (l.drop 1)).all fun e => decide (key e.1 < key e.2)

/-- CAL_x.PG_STAT.STATE (R269). -/
def Dev.calState (d : Dev) (p : Nat) : Nat :=
  if (d.calSt p).load.isSome then 3 else if d.portState p == 0 then 0 else if d.calDark p then 2 else 1

def Dev.setLoad (d : Dev) (p : Nat) (l : Option CalLoad) : Dev := d.setCal p { d.calSt p with load := l }

def Dev.calErr (d : Dev) (p code func : Nat) : Dev := d.err (CAL.pg p) code 0x05C func

/-- The Scan engine's hold on D3 for a table write (R226, R267). -/
def Dev.tblWrite (d : Dev) (p : Nat) (b : Bool) : Dev :=
  ({ d with scan := { d.scan with tblWrite := mset (fun _ => false) d.scan.tblWrite p b } } : Dev).letGo

/-- A load ends: OUTCOME, CODE, EV_CAL_LOAD_DONE (R267, R60). -/
def Dev.calEnd (d : Dev) (p outcome code : Nat) : Dev :=
  let pg := CAL.pg p
  let d := ((d.wr pg CAL.LOAD_STAT_OUTCOME outcome).wr pg CAL.LOAD_STAT_CODE code).wr pg CAL.LOAD_STAT_ACTIVE 0
  ((d.setLoad p none).busy pg false |>.tblWrite p false).raise pg 0

def Dev.calFail (d : Dev) (p code : Nat) : Dev := (d.calErr p code 15).calEnd p 3 code

/-- An abort, arbitrated against the commit point (R60, R271). -/
def Dev.calAbort (d : Dev) (p func : Nat) : Dev :=
  match (d.calSt p).load with
  | none => d
  | some l =>
    if l.step < 4 then (((d.endJob (.calLoad p)).calErr p E.ABORTED func)).calEnd p 1 E.ABORTED
    else (d.setLoad p (some { l with late := true })).calErr p E.ABORT_LATE func

/-- A non-seamless change of RES or S on port p (R271): a load before its commit point ends ABORTED with E_STATE. -/
def Dev.calModeChange (d : Dev) (p : Nat) : Dev :=
  match (d.calSt p).load with
  | some l => if l.step < 4 then ((d.endJob (.calLoad p)).calErr p E.STATE 15).calEnd p 1 E.STATE else d
  | none => d

/-- LOAD_CTL.GO (R267). -/
def Dev.calGo (d : Dev) (who : Req) (p : Nat) : Dev :=
  let pg := CAL.pg p
  let t := d.rd pg CAL.LOAD_CTL_TARGET
  let f := d.rd pg CAL.LOAD_CTL_FUNC
  let src := d.rd pg CAL.LOAD_SRC_LO_HA + 2 ^ 32 * d.rd pg CAL.LOAD_SRC_HI_HA
  let l0 := d.rd pg CAL.LOAD_LINES_LINE0
  let n := d.rd pg CAL.LOAD_LINES_LINES
  let m := d.mode
  let stressOn := match d.aging.op with | some o => decide (o.op < 2) && o.port == p | none => false
  if (d.calSt p).load.isSome || stressOn then d.calErr p E.BUSY who.code
  else if !d.scanOn p || !d.operates pg then d.calErr p E.STATE who.code
  else if t > 5 || f = 3 || src % 64 != 0 || (t = 0 && (n == 0 || decide (m.h < l0 + n) || decide (4194304 < n * m.w * 4))) then
    d.calErr p E.RANGE who.code
  else
    let d := d.putWord pg 0x064 (BitVec.ofNat 32 (4 + t * 16 + d.rd pg CAL.LOAD_STAT_FRAME * 2 ^ 16))
    let d := (d.setLoad p (some ⟨t, f, src, l0, n, [], 1, false⟩)).busy pg true
    d.fetch ⟨f, .calLoad p, src, if t = 0 then n * m.w * 4 else tblSize t⟩

def execCalLoadGo (a : Acc) (p : Port) (x : Word) (s : State) : Out :=
  hostWrite (.calLoadGo a p x) a (fun d => d.guarded a (CAL.pg p.val) 0x05C fun d =>
    let d := d.storeRw (CAL.pg p.val) 0x05C x
    let d := if CAL.LOAD_CTL_ABORT.of x = 1 then d.calAbort p.val a.who.code else d
    d.calGo a.who p.val) s

def execCalLoadAbort (a : Acc) (p : Port) (s : State) : Out :=
  hostWrite (.calLoadAbort a p) a (fun d => d.guarded a (CAL.pg p.val) 0x05C fun d => d.calAbort p.val a.who.code) s

def CalLoad.data (l : CalLoad) (m : Mode) : List Byte :=
  (List.range (if l.target = 0 then l.lines * m.w * 4 else tblSize l.target)).map fun i => mget memDefault l.bytes (l.src + i)

/-- The working copy of a kind. -/
def Dev.setTable (d : Dev) (p kind : Nat) (t : List Byte) : Dev :=
  let c := d.calSt p
  d.setCal p { c with work := (c.work.filter fun e => e.1 != kind) ++ [(kind, t)] }

/-- The Calender reads table kind k from AUX at a swap (R266): an uncorrectable word leaves it the working copy it had, and the kind lost.
Where AUX cannot be read the copy is the load buffer's. -/
def Dev.swapRead (d : Dev) (p k : Nat) (data : List Byte) : Dev :=
  let off := tblBase p (d.tblSel p k) + tblOff k
  if !d.itemUp .aux then d.setTable p k data
  else
    let ws := d.itemWords .aux off (tblSize k)
    let d := d.unitRead (Own.CAL_A + p) ws
    if ws.any d.isBad then
      let d := d.wr (CAL.pg p) CAL.TBL_STAT_LOST (d.rd (CAL.pg p) CAL.TBL_STAT_LOST ||| 2 ^ k)
      (d.count (CAL.pg p) CAL.UE_CNT_COUNT).holdEmit
    else d.setTable p k (d.itemBytes .aux off (tblSize k))

/-- The commit point (R267): a table's SEL flips with its working copy, and the kind is no longer lost; demura lines are
copied into the map. `frame`: the first frame that uses the new content; `wasDark`: the port was dark. -/
def Dev.calCommit (d : Dev) (p frame : Nat) (wasDark : Bool) : Dev :=
  match (d.calSt p).load with
  | some l =>
    if l.step != 3 then d
    else
      let pg := CAL.pg p
      let data := l.data d.mode
      let d := (d.wr pg CAL.LOAD_STAT_FRAME frame).setLoad p (some { l with step := if wasDark then 5 else 4, bytes := [] })
      let d := d.forceRows p
      let d := d.onlyIf (wasDark && l.target == 0) (·.stay p)
      if l.target = 0 then (d.putItem (.demura p) (4 * d.mode.w * l.line0) data).reload (.demura p) l.line0 l.lines
      else
        let sel := d.rd pg CAL.TBL_STAT_SEL
        let bitV := 2 ^ (l.target - 1)
        let d := d.wr pg CAL.TBL_STAT_SEL (sel ^^^ bitV)
        let lost := d.rd pg CAL.TBL_STAT_LOST
        let d := d.wr pg CAL.TBL_STAT_LOST (if bit lost l.target then lost - 2 ^ l.target else lost)
        let c := d.calSt p
        let d := d.setCal p { c with por := if bit c.por l.target then c.por - 2 ^ l.target else c.por }
        let d := if l.target = 4 then d.wr pg CAL.TBL_STAT_DEFECTS (defects data).length else d
        d.swapRead p l.target data
  | none => d

/-- The source has arrived (R267 steps 1 to 3): LOAD_CRC, the defect list's check, the table written into its inactive
slot (while D3 is on); a dark port's commit point follows at once, also when the port goes dark before its frame FLE (DEDUCED; log entry 61). -/
def execCalLoadFetchDone (p : Port) (s : State) : Out :=
  finish (fun d =>
    let p := p.val
    match (d.calSt p).load with
    | some l =>
      if l.step = 3 && d.isDark p then d.calCommit p (d.frameNo + 1) true
      else if l.step != 1 || !d.fetched (.calLoad p) || (l.target != 0 && !d.domOn 3) then d
      else
        let data := l.data d.mode
        let d := d.wr (CAL.pg p) CAL.LOAD_CRC_CRC (crc32c data)
        if l.target = 4 && !defectsOk data then d.calFail p E.RANGE
        else
          let d := if l.target = 0 then d else d.putItem .aux (tblBase p (1 - d.tblSel p l.target) + tblOff l.target) data
          let d := (d.setLoad p (some { l with step := 3 })).tblWrite p false
          if d.isDark p then d.calCommit p (d.frameNo + 1) true else d
    | none => d) s

/-- The done state (R267 step 6). -/
def execCalLoadDone (p : Port) (s : State) : Out :=
  finish (fun d =>
    match (d.calSt p.val).load with
    | some l => if l.step < 4 then d else if l.late then d.calEnd p.val 2 E.ABORT_LATE else d.calEnd p.val 0 0
    | none => d) s

/-- The Calender has read its tables (R266): a kind not lost gets its working copy; one whose read meets an uncorrectable
word is lost and keeps the copy it had. AUX can be read by then. The cells answer ecc. -/
def execTableReadDone (p : Port) (ecc : Ecc) (s : State) : Out :=
  finish (fun d =>
    let p := p.val
    if !d.scanOn p || !d.itemUp .aux then d
    else [1, 2, 3, 4, 5].foldl (fun d k =>
      if d.kindLost p k then d
      else
        let off := tblBase p (d.tblSel p k) + tblOff k
        let q := (wordsOf off (tblSize k)).foldl (fun (acc : Bool × Dev) w =>
          let r := acc.2.eccRead (Own.CAL_A + p) (acc.2.itemDA .aux (8 * w) / 8 * 8) 8 ecc
          (acc.1 || r.1, r.2)) (false, d)
        let d := q.2
        if q.1 then
          let d := d.wr (CAL.pg p) CAL.TBL_STAT_LOST (d.rd (CAL.pg p) CAL.TBL_STAT_LOST ||| 2 ^ k)
          (d.count (CAL.pg p) CAL.UE_CNT_COUNT).holdEmit
        else d.setTable p k (d.itemBytes .aux off (tblSize k))) d) s

/-- The images' records are lost with AUX (R122, R195): in FULL mode the images are composed again. DEDUCED: a COMPLETE one, which
cannot become eligible without its record, is dropped (log entry 23). -/
def Dev.recordsLost (d : Dev) : Dev :=
  let d := (List.range 8).foldl (fun d k =>
    let d := if d.imgState k = 2 then d.dropImage k else d
    d.setImg k { d.img k with curve := false, plan := false }) d
  d.askPass

/-- AUX enters LOST (R195, R266, R271): every table kind reads lost; working copies stay. -/
def Dev.auxLost (d : Dev) : Dev :=
  let d := d.onlyIf (!d.mode.part) (·.recordsLost)
  ([0, 1].foldl (fun d p => d.wr (CAL.pg p) CAL.TBL_STAT_LOST (d.rd (CAL.pg p) CAL.TBL_STAT_LOST ||| 0x3E)) d).holdEmit

/-- A demura map placed afresh is filled with the neutral word before the port next emits (R253). -/
def Dev.demuraReplaced (d : Dev) (p : Nat) : Dev :=
  let d := d.putItem (.demura p) 0 ((List.range (d.mode.w * d.mode.h)).flatMap fun _ => leBytes 4 0x20080200)
  d.setCal p { d.calSt p with fill := true }

def execDemuraFillDone (p : Port) (s : State) : Out :=
  finish (fun d => d.setCal p.val { d.calSt p.val with fill := false }) s

/-- A placement run, with the fills of the maps it places afresh (R253, R281, R131). -/
def Dev.placeFill (d : Dev) : Dev :=
  let old := d.reeve.items
  let d := d.place
  (freshItems old d.reeve.items).foldl (fun d k =>
    match k with
    | .demura p => d.demuraReplaced p
    | .stress p => d.stressReplaced p
    | _ => d) d

end Sys2Proof.Machine
end

