-- ==== Sys2Proof/Machine/Sync.lean ====
section
/-! DEFINITION. Genlock and camera slots (13_genlock_slots): reference edges (R235, R236), the lock loop (R237, R238),
emission windows (R243), SYNC_OUT (R245), dither index (R246). Times are in ps. -/

namespace Sys2Proof.Machine

def Dev.lock (d : Dev) : Nat := d.rd SYNC.pg SYNC.LOCK_STAT_STATE
def Dev.nE (d : Dev) : Nat := d.rd SYNC.pg SYNC.SRC_CTL_DIV + 1
def Dev.refValid (d : Dev) : Bool := d.on SYNC.pg SYNC.LOCK_STAT_REF_VALID
def Dev.phasePs (d : Dev) : Rat := (d.rd SYNC.pg SYNC.PHASE_OFFSET * 5000 : Nat)

/-- Enter a lock state (R237): STATE, FRAMES, EV_SYNC_LOCKED and EV_SYNC_UNLOCKED, EV_SYNC_HOLDOVER. -/
def Dev.setLock (d : Dev) (st : Nat) : Dev :=
  let was := d.lock
  if was = st then d else
  let d := ((d.wr SYNC.pg SYNC.LOCK_STAT_STATE st).wr SYNC.pg HDR.PG_STAT_STATE st).wr SYNC.pg SYNC.LOCK_STAT_FRAMES 0
  let d := { d with sync := { d.sync with good := 0 } }
  let d := if st = 2 then d.raise SYNC.pg 0 else if was = 2 then d.raise SYNC.pg 1 else d
  d.cond SYNC.pg 2 (st == 3)

/-- The reference becomes valid or not; HOLDOVER and ACQUIRE follow (R236, R237). -/
def Dev.setRef (d : Dev) (ok : Bool) : Dev :=
  let d := d.wr SYNC.pg SYNC.LOCK_STAT_REF_VALID (b2n ok)
  let d := if ok then d else d.trimOnRef
  if d.src = 0 then d
  else if ok then (if d.lock = 3 && (d.scan.run || (d.rd SCAN.pg SCAN.SR_STAT_STATE != 2 && !d.scan.exiting)) then d.setLock 1 else d)
  else d.setLock 3

/-- Tracked frame period: the mean of the last valid spacings over N_E, nominal when none (R237). -/
def Dev.trackPeriod (d : Dev) : Rat :=
  match d.sync.period with
  | some p => p
  | none => d.mode.tFrame

/-- A spacing within ±1,000 ppm of N_E × T_frame of the active mode (R236). -/
def Dev.spacingOk (d : Dev) (sp : Nat) : Bool :=
  let nom : Rat := d.nE * d.mode.tFrame
  let dev := (sp : Rat) - nom
  decide ((if dev < 0 then -dev else dev) ≤ nom / 1000)

/-- The reference is valid (R236): under PTM while PTM_STAT.VALID is 1, else by the last two edges. DEDUCED: in FREE, which takes no
edge from outside, it is not (log entry 65). -/
def Dev.refOk (d : Dev) : Bool :=
  if d.src = 2 then d.on HOSTIF.pg HOSTIF.PTM_STAT_VALID
  else if d.src = 1 then (match d.sync.lastSp with | some sp => d.spacingOk sp | none => false)
  else false

/-- Spacings measured so far no longer serve. -/
def Dev.forgetPeriod (d : Dev) : Dev := { d with sync := { d.sync with period := none, spacings := [] } }

/-- A reference edge at time t (R235-R237): counted, its spacing judged, and tracked while the reference is valid (R248). -/
def Dev.refEdge (d : Dev) (t : Nat) : Dev :=
  let d := d.countWrap SYNC.pg SYNC.EDGE_CNT_COUNT
  match d.sync.lastEdge with
  | none => { d with sync := { d.sync with lastEdge := some t } }
  | some l =>
    let sp := t - l
    let d := { d with sync := { d.sync with lastEdge := some t, lastSp := some sp } }
    let ok := d.spacingOk sp
    let d := if ok && d.refOk then
        let l8 := (sp :: d.sync.spacings).take 8
        let per := sumRat (l8.map fun (x : Nat) => (x : Rat)) / l8.length / d.nE
        let ppm := rne ((per / d.mode.tFrame - 1) * 10000000)
        let d := { d with sync := { d.sync with spacings := l8, period := some per } }
        d.stat SYNC.pg SYNC.PERIOD_ERR_PPM (toTwos 16 (satS 16 ppm))
      else d
    let d := d.cond SYNC.pg 3 (!ok)
    d.setRef d.refOk

/-- A GENLOCK_IN edge (R235): of the selected polarity with SRC GENLOCK_IN it is a reference edge; a rising edge is also
the GENLOCK wake source (R83); a running SYNCDLY calibration takes its position (R359). `pos` is the edge's place
against the sampling grid. -/
def execGenlockEdge (rising : Bool) (t : Nat) (pos : Int) (s : State) : Out :=
  finish (fun d =>
    let d := if rising then d.fireWake 1 else d
    let sel := rising == (d.rd SYNC.pg SYNC.SRC_CTL_EDGE == 0)
    if d.src = 1 && sel then
      let d := d.refEdge t
      if d.trimTakes then { d with sync := { d.sync with edges := d.sync.edges ++ [pos] } } else d
    else d) s

/-- The reference edge of PTM nearest to time t (R235): host time EPOCH + k × N_E × T_frame, rounded to the nearest ns (a tie: free, log
entry 3), in DEVTIME by the latest PTM offset. DEDUCED: times of edges are times of DEVTIME; from the offset goes what discipline
has since removed (log entry 65). -/
def Dev.ptmEdge (d : Dev) (t : Nat) : Nat × Dev :=
  let epoch : Nat := d.rd SYNC.pg SYNC.PTM_EPOCH_LO_NS + 2 ^ 32 * d.rd SYNC.pg SYNC.PTM_EPOCH_HI_NS
  let ofs : Rat := (d.tm.ofs : Rat) + (d.tm.slew : Rat) / 50
  let per : Rat := d.nE * d.mode.tFrame / 1000
  let k := rne ((mkRat t 1000 + ofs - (epoch : Rat)) / per)
  let x := (epoch : Rat) + k * per
  let q : Int × Dev := if 2 * (x - x.floor) = 1 then d.takeRound x else (rne x, d)
  ((((q.1 : Rat) - ofs) * 1000).floor.toNat, q.2)

/-- Host time reaches EPOCH + k × N_E × T_frame (R235), at about t. -/
def execPtmReferenceEdge (t : Nat) (s : State) : Out :=
  finish (fun d => if d.src = 2 then let q := d.ptmEdge t; q.2.refEdge q.1 else d) s

/-- No edge within 1.5 × N_E × T_frame (R236): HOLDOVER. -/
def execReferenceMissing (s : State) : Out :=
  finish (fun d =>
    if d.src = 0 then d
    else (({ d with sync := { d.sync with lastSp := none } } : Dev)).setRef (d.src == 2 && d.refOk)) s

/-- Under PTM the reference follows PTM_STAT.VALID (R236), without it at nominal period (R248). -/
def Dev.ptmRef (d : Dev) : Dev :=
  if d.src != 2 then d else (if d.refOk then d else d.forgetPeriod).setRef d.refOk

/-- A successful dialogue at host time `host` ns (R75, R241): VALID; with DISCIPLINE 1 the offset is recorded and DEVTIME steps
forward by more than 1 ms at once, else the offset is slewed away. AGE_MS counts from here (R68). -/
def Dev.ptmDone (d : Dev) (host : Nat) : Dev :=
  let d := { d with host := { d.host with ptmReq := false } }
  let d := (d.wr HOSTIF.pg HOSTIF.PTM_STAT_VALID 1).ptmCond
  let o : Int := (host : Int) - d.devtime
  let d := if !d.on SYNC.pg SYNC.DISC_CTL_DISCIPLINE then { d with tm := { d.tm with ofs := o - d.tm.slew / 50 } }
    else
      let d := d.wr SYNC.pg SYNC.DEVTIME_OFS_NS (satS32 o)
      if 1000000 < o then ({ d with tm := { d.tm with ns := d.tm.ns + o.toNat, slew := 0, ofs := 0 } } : Dev).raise SYNC.pg 4
      else { d with tm := { d.tm with slew := o * 50, ofs := 0 } }
  ({ d with host := { d.host with ptmAt := some d.devtime } } : Dev).ptmRef

def execPtmDialogueDone (host : Nat) (s : State) : Out := finish (fun d => if d.host.ptmReq then d.ptmDone host else d) s

/-- No dialogue for 4 × PERIOD_MS (R75): VALID clears and DEVTIME runs free. -/
def execPtmValidLost (s : State) : Out :=
  finish (fun d =>
    let d := { d.wr HOSTIF.pg HOSTIF.PTM_STAT_VALID 0 with tm := { d.tm with slew := 0, ofs := d.tm.ofs + d.tm.slew / 50 } }
    d.ptmCond.ptmRef) s

/-! ### At a frame FLE -/

/-- Sync values whose change re-acquires (R237, R239): SRC, EDGE, DIV, PHASE and the mode. -/
def Dev.syncSeen (d : Dev) : List Nat :=
  [d.src, d.rd SYNC.pg SYNC.SRC_CTL_EDGE, d.nE, d.rd SYNC.pg SYNC.PHASE_OFFSET, (d.word SCAN.pg 0x040).toNat]

/-- Phase error of an FLE at time t against the reference edge of its frame, its own or a virtual one, ps, and whether the frame is
anchored (R235, R237). -/
def Dev.phaseErr (d : Dev) (t : Nat) : Rat × Bool :=
  match d.sync.lastEdge with
  | none => (0, false)
  | some l =>
    let T := d.trackPeriod
    let x : Rat := (t : Rat) - d.phasePs - l
    let n := rne (x / T)
    (x - n * T, n % (d.nE : Int) == 0)

/-- The correction of the blank that begins at this FLE, whole core clocks (R238): negative shortens. -/
def Dev.acquireCorr (d : Dev) (e : Rat) : Rat :=
  let m := d.mode
  let T := d.trackPeriod
  let delay := -e - (-e / T).floor * T
  let x := if T - delay ≤ (m.vb / 2 : Nat) * m.tLine then delay - T
    else min delay ((ceilDiv (m.h + m.vb) 12 : Nat) * m.tLine)
  (rne (x / 1000) : Rat) * 1000

/-- What a change of SRC, EDGE, DIV or the mode leaves of the measurements (R236, R237): a new source or polarity starts afresh, another
N_E × T_frame needs new spacings. Answers whether what re-acquires has changed. -/
def Dev.syncChange (d : Dev) : Bool × Dev :=
  let was := d.sync.seen
  let now := d.syncSeen
  if was == now then (false, d)
  else
    let d := { d with sync := { d.sync with seen := now } }
    let d := if was.take 2 != now.take 2 then
        ({ d with sync := { d.sync with lastEdge := none, lastSp := none } } : Dev).forgetPeriod
      else if was.getD 2 0 != now.getD 2 0 || was.getD 4 0 % 32 != now.getD 4 0 % 32 then d.forgetPeriod else d
    let ok := d.refOk
    (true, (d.wr SYNC.pg SYNC.LOCK_STAT_REF_VALID (b2n ok)).onlyIf (!ok) (·.trimOnRef))

/-- Values move to active with no FLE (R51, R55, R237): FREE, or HOLDOVER without a valid reference, or ACQUIRE where it is to be
acquired. -/
def Dev.lockIdle (d : Dev) : Dev :=
  let ch := d.syncChange
  let d := ch.2
  if d.src = 0 then d.setLock 0 else if !d.refValid then d.setLock 3 else if ch.1 || d.lock = 0 || d.lock = 3 then d.setLock 1 else d

/-- The lock loop at a frame FLE at time t (R237-R239), and DITH_IDX (R246), which counts on under FREEZE (R49). -/
def Dev.lockAtFle (d : Dev) (t : Nat) : Dev :=
  let ch := d.syncChange
  let changed := ch.1
  let d := ch.2
  let d := ({ d with sync := { d.sync with corr := 0 } } : Dev).count SYNC.pg SYNC.LOCK_STAT_FRAMES
  let dith (d : Dev) := d.wr SYNC.pg SYNC.DITH_IDX_IDX (d.rd SYNC.pg SYNC.DITH_IDX_IDX + 1)
  if d.src = 0 then
    let d := d.setLock 0
    dith { d with sync := { d.sync with tE := (t : Rat) - d.phasePs } }
  else
    let d := if changed || d.lock = 0 then d.setLock (if d.refValid then 1 else 3)
      else if d.lock = 3 && d.refValid then d.setLock 1 else d
    let q := d.phaseErr t
    let d := d.onlyIf q.2 (·.stat SYNC.pg SYNC.PHASE_ERR_NS (satS32 (rne (q.1 / 1000))))
    let abs := if q.1 < 0 then -q.1 else q.1
    let d := { d with sync := { d.sync with
      tE := if d.sync.lastEdge.isSome then (t : Rat) - d.phasePs - q.1 else d.sync.tE + d.trackPeriod
      anchor := if q.2 then 0 else d.sync.anchor + 1 } }
    let d := if d.lock = 1 then
        let good := if q.2 then (if abs ≤ 10000 then d.sync.good + 1 else 0) else d.sync.good
        let d := { d with sync := { d.sync with good := good } }
        if 2 ≤ good then d.setLock 2 else { d with sync := { d.sync with corr := d.acquireCorr q.1 } }
      else if d.lock = 2 then
        if q.2 && 100000 < abs then d.setLock 1
        else { d with sync := { d.sync with corr := clampR (-q.1) (-50000) 50000 } }
      else d
    d.onlyIf (d.lock == 2 && q.2) dith

/-! ### Windows and markers (R243, R245) -/

/-- Start a pulse of SYNC_OUTn. -/
def Dev.pulse (d : Dev) (n : Nat) : Dev :=
  { d with sync := { d.sync with pulse := mset (fun _ => false) d.sync.pulse n true } }

/-- Markers at the FLE of slot s (R245). -/
def Dev.markFle (d : Dev) (s : Nat) : Dev :=
  [0, 1].foldl (fun d n =>
    let f := d.rd SYNC.pg SYNC.SO_CTL_FUNC (i := n)
    if (f = 1 && s = 0) || (f = 2 && bit (d.rd SYNC.pg SYNC.SO_CTL_MASK (i := n)) s) then d.pulse n else d) d

/-- The level of SYNC_OUTn (R245); in SR2 markers but FUNC 0 and 5 have stopped. -/
def Dev.syncOut (d : Dev) (n : Nat) : Bool :=
  let f := d.rd SYNC.pg SYNC.SO_CTL_FUNC (i := n)
  let on := match f with
    | 3 => d.sync.openWin.any fun w => bit (d.rd SYNC.pg SYNC.SO_CTL_MASK (i := n)) w.slot
    | 5 => d.lock == 2
    | 0 => false
    | _ => mget (fun _ => false) d.sync.pulse n
  on != d.on SYNC.pg SYNC.SO_CTL_INVERT (i := n)

/-- A pulse on GSYNC_x. -/
def Dev.gsync (d : Dev) (p : Nat) : Dev := d.setPortR p { d.portR p with gsync := (d.portR p).gsync + 1 }

def Dev.rolling (d : Dev) : Bool := d.on SYNC.pg SYNC.SRC_CTL_EMISSION
def Dev.latchOn (d : Dev) (p : Nat) : Bool := d.on SYNC.pg (if p = 0 then SYNC.SRC_CTL_LATCH_A else SYNC.SRC_CTL_LATCH_B)

/-- Slot s's window as the frame that runs has it (R242): none for an unlit slot. -/
def Dev.winNow (d : Dev) (s : Nat) : Option Win :=
  if d.rd SYNC.pg SYNC.WIN_LEN (i := s) = 0 then none else some ⟨s, d.rolling, d.latchOn 0, d.latchOn 1, false⟩

def Win.latch (w : Win) (p : Nat) : Bool := if p = 0 then w.latchA else w.latchB

/-- Port p emits in window w: it follows, its panel is LIT, and emission is not held off, and a latched panel holds a slot
image (R217, R243, R339). -/
def Dev.emits (d : Dev) (p : Nat) (w : Win) : Bool :=
  d.portState p == 1 && d.panelState p == 7 && !d.heldOff p && (w.rolling || !w.latch p || (d.portR p).latched)

/-- A window opens: EMIT_x high on each emitting port; ROLLING starts the panel's row gating by GSYNC_x (R243). -/
def Dev.openWindow (d : Dev) (w : Win) : Dev :=
  let d := { d with sync := { d.sync with openWin := d.sync.openWin ++ [w] } }
  [0, 1].foldl (fun d p =>
    if d.emits p w then (if w.rolling then d.gsync p else d).emit p true else d) d

/-- No window is open or waits. -/
def Dev.closeWindows (d : Dev) : Dev := { d with sync := { d.sync with openWin := [], waitOpen := [], lastWin := none } }

/-- Words whose change brings new windows (R248). -/
def Dev.winWords (d : Dev) : List Word :=
  (d.word SYNC.pg 0x040 &&& 0x700) :: (List.range 8).map fun i => d.word SYNC.pg (0x04C + 4 * i)

/-- A frame ends at its FLE: its last window may still be to open, with its own values (R242); `ran`: the raster ran through it. -/
def Dev.winsEnd (d : Dev) (ran : Bool) : Dev :=
  let s := d.mode.s - 1
  let last := if ran && !d.sync.opened.contains s then d.winNow s else none
  { d with sync := { d.sync with
    lastWin := last.map fun w => { w with old := true }
    openWin := d.sync.openWin.map fun w => { w with old := true }
    opened := [] } }

/-- The values of the frame that begins are active. -/
def Dev.winsBegin (d : Dev) : Dev :=
  { d with sync := { d.sync with winSeen := d.winWords, winNew := d.sync.winSeen != d.winWords } }

/-- A window of the running frame's slot s is due (R242, R243): in ROLLING from its own pass on, in GLOBAL after it. -/
def Dev.winDue (d : Dev) (w : Win) : Bool :=
  let cur := d.rd SCAN.pg SCAN.POS_SLOT_NO
  (if w.rolling then decide (w.slot ≤ cur) else decide (w.slot < cur)) && !d.sync.opened.contains w.slot

/-- Slot s's window opens at t_E + WIN_START (R243): first the frame before's last one, in ROLLING within the blank. A new window finds the
frame before's last one still open and opens at its close (R248); windows of the same values overlap. -/
def execWindowOpen (sl : Fin 4) (s : State) : Out :=
  finish (fun d =>
    let cur := d.rd SCAN.pg SCAN.POS_SLOT_NO
    let old := d.sync.lastWin.filter fun w => w.slot == sl.val && cur == 0 && (!w.rolling || d.on SCAN.pg SCAN.POS_BLANK)
    if !d.scan.run then d
    else match old, d.winNow sl.val with
      | some w, _ => ({ d with sync := { d.sync with lastWin := none } } : Dev).openWindow w
      | none, some w =>
        if !d.winDue w then d
        else
          let d := { d with sync := { d.sync with opened := d.sync.opened ++ [w.slot] } }
          if d.sync.winNew && d.sync.openWin.any (·.old) then { d with sync := { d.sync with waitOpen := d.sync.waitOpen ++ [w] } }
          else d.openWindow w
      | none, none => d) s

/-- Without the first element for which q holds. -/
def dropFirst {α : Type} (q : α → Bool) : List α → List α
  | [] => []
  | x :: l => if q x then l else x :: dropFirst q l

/-- The oldest open window of the slot closes: with none left EMIT_x is low for the non-emission interval (R243), unless the panel is held
in SR2 (R230). A window that still waits ends without having opened. -/
def execWindowClose (sl : Fin 4) (s : State) : Out :=
  finish (fun d =>
    let q (w : Win) : Bool := w.slot == sl.val
    if !d.sync.openWin.any q then { d with sync := { d.sync with waitOpen := dropFirst q d.sync.waitOpen } }
    else
      let d := { d with sync := { d.sync with openWin := dropFirst q d.sync.openWin } }
      let d := if d.sync.openWin.isEmpty then
          [0, 1].foldl (fun d p => if d.portState p = 5 then d else d.emit p false) d else d
      if d.sync.openWin.any (·.old) then d
      else d.sync.waitOpen.foldl (fun d w => d.openWindow w) { d with sync := { d.sync with waitOpen := [] } }) s

/-- A TRIGGER marker pulses (R245). -/
def execSyncOutTrigger (n : Fin 2) (s : State) : Out :=
  finish (fun d => if d.rd SYNC.pg SYNC.SO_CTL_FUNC (i := n.val) = 4 && d.scan.run then d.pulse n.val else d) s

/-- The pulse ends: the idle level (R245). -/
def execSyncOutPulseEnd (n : Fin 2) (s : State) : Out :=
  finish (fun d => { d with sync := { d.sync with pulse := mset (fun _ => false) d.sync.pulse n.val false } }) s

end Sys2Proof.Machine
end

