-- ==== Sys2Proof/Machine/Tdl.lean ====
section
/-! DEFINITION. The driver link and the Watermark (17_panel_link): spans and rates (R310, R313, R314), training (R321,
R322, R326), lane failure, failover and lost groups (R323-R325), STATUS polls and driver-side violations (R318, R327),
compares and resends (R328, R329), FWM (R330). -/

namespace Sys2Proof.Machine

/-! ### Spans and rates (R310, R313, R314) -/

def groupsOn (v : Regs) (p : Nat) : List Nat := (List.range 12).filter fun k => bit (v.fld (TDL.pg p) TDL.GROUPS_EN) k

/-- The spans of the enabled groups at width w: group, COL0, NCOL. -/
def spansOf (v : Regs) (p w : Nat) : List (Nat × Nat × Nat) :=
  let gs := groupsOn v p
  let n := gs.length
  if v.fld (TDL.pg p) TDL.CTL_SPAN_AUTO = 1 then
    gs.zipIdx.map fun e =>
      (e.1, e.2 * (w / n) + min e.2 (w % n), w / n + (if e.2 < w % n then 1 else 0))
  else gs.map fun k => (k, v.fld (TDL.pg p) TDL.GROUP_SPAN_COL0 (i := k), v.fld (TDL.pg p) TDL.GROUP_SPAN_NCOL (i := k))

/-- The spans tile columns 0 to w - 1 with widths of 1 to 2,048. -/
def spansOk (v : Regs) (p w : Nat) : Bool :=
  let l := spansOf v p w
  let q := l.foldl (fun (a : Bool × Nat) e => (a.1 && e.2.1 == a.2 && decide (1 ≤ e.2.2 ∧ e.2.2 ≤ 2048), e.2.1 + e.2.2)) (true, 0)
  q.1 && q.2 == w

/-- N_LINE of a span. -/
def nLine (depth ncol : Nat) : Nat := ceilDiv (96 + 8 * ceilDiv (3 * depth * ncol) 8) 128

/-- C of R314: blocks per line window at a RATE code. -/
def laneCap (m : Mode) (rate : Nat) : Nat := (mkRat 999 1000 * m.tLine * mkRat (27 * 2 ^ rate) 4000 / 132).floor.toNat

/-- The rate is allowed for port p (R314). -/
def rateOk (v : Regs) (m : Mode) (p rate : Nat) : Bool :=
  (spansOf v p m.w).all fun e => decide (nLine (codeDepth v p) e.2.2 ≤ laneCap m rate)

/-- The lowest allowed rate of port p (R305). -/
def lowRate (v : Regs) (m : Mode) (p : Nat) : Option Nat := [0, 1, 2].find? fun r => rateOk v m p r

def laneLow (p : Nat) : Fld := if p = 0 then TITHE.ECON_STAT_LANE_LOW_A else TITHE.ECON_STAT_LANE_LOW_B

/-- The lane rate in use on port p: the programmed one, or E4's override (R305). -/
def Dev.rateUsed (d : Dev) (p : Nat) : Nat :=
  let r := d.rd (TDL.pg p) TDL.CTL_RATE
  if d.on TITHE.pg (laneLow p) then (lowRate d.regs d.mode p).getD r else r

/-! ### State of the link -/

def Dev.tdlState (d : Dev) (p : Nat) : Nat := d.rd (TDL.pg p) HDR.PG_STAT_STATE
def Dev.setTdlState (d : Dev) (p st : Nat) : Dev := d.wr (TDL.pg p) HDR.PG_STAT_STATE st
def Dev.lanesFailed (d : Dev) (p : Nat) : Nat := d.rd (TDL.pg p) TDL.LANE_STAT_FAILED

/-- EV_GROUP_LOST holds while a group is lost (R325). -/
def Dev.setLost (d : Dev) (p lost : Nat) : Dev :=
  ((d.setTdl p { d.tdlSt p with lost := lost }).cond (TDL.pg p) 2 (lost != 0)).holdEmit

/-- Training starts (R321): 1 full, 2 short form, 3 RESTORE beside the running picture (R326). -/
def Dev.startTrain (d : Dev) (p kind : Nat) : Dev :=
  let d := d.trimOnTrain p
  let d := d.setTdl p { d.tdlSt p with train := kind, trained := kind == 3 && (d.tdlSt p).trained, ret := none }
  let d := (d.wr (TDL.pg p) TDL.TRAIN_STAT_ACTIVE 1).wr (TDL.pg p) TDL.TRAIN_STAT_PHASE 1
  if kind = 3 then d else d.setTdlState p 1

/-- Lane mask of the enabled groups. -/
def laneMask (v : Regs) (p : Nat) : Nat := (groupsOn v p).foldl (fun m k => m + 3 * 4 ^ k) 0

/-- The groups lost by a training's outcome (R322): both lanes failed, or an IDENT that cannot take the mode. -/
def lostGroups (v : Regs) (p failed mismatch : Nat) : Nat :=
  (groupsOn v p).foldl (fun m k => if bit mismatch k || (failed / 4 ^ k % 4 == 3) then m + 2 ^ k else m) 0

/-- Where a running training stands when it is looked at (R321): its phases' times are bounds, so the phase is a free value that never
falls (log entry 3). -/
def Dev.trainOn (d : Dev) (p : Nat) : Dev :=
  let n := d.rd (TDL.pg p) TDL.TRAIN_STAT_PHASE
  let q := d.takeNat (4 - n)
  q.2.wr (TDL.pg p) TDL.TRAIN_STAT_PHASE (n + q.1)

/-- The largest of a lane's EYE values over presets 0 to 7, ties to the lower preset (R321). -/
def bestPreset (eye : List Nat) : Nat := (List.range 8).foldl (fun b i => if eye.getD b 0 < eye.getD i 0 then i else b) 0

/-- What IDENT's DATA1 says of group k (R317, R322): a rate, depth or NCOL that the port asks for and the group cannot take. -/
def Dev.identBad (d : Dev) (p : Nat) (e : Nat × Nat × Nat) (x : Nat) : Bool :=
  decide (x % 4 < d.rateUsed p) || !bit x (if codeDepth d.regs p = 12 then 2 else 3) || decide (x / 2 ^ 16 % 2 ^ 16 < e.2.2)

/-- The groups whose IDENT shows such a thing. -/
def Dev.identMask (d : Dev) (p : Nat) (ident : List (Option Nat)) : Nat :=
  (spansOf d.regs p d.mode.w).foldl (fun m e =>
    match ident.getD e.1 none with
    | some x => if d.identBad p e x then m + 2 ^ e.1 else m
    | none => m) 0

/-- The preset that a lane is left with (R321, R326): FFE_PRESET without a sweep; none where the training leaves it: the short form, and a
RESTORE of other lanes. -/
def Dev.presetKept (d : Dev) (p old lane swept : Nat) : Option Nat :=
  let kind := (d.tdlSt p).train
  if kind = 2 || !bit (laneMask d.regs p) lane || (kind = 3 && !bit old lane) then none
  else some (if d.on (TDL.pg p) TDL.CTL_FFE_FIXED then d.rd (TDL.pg p) TDL.CTL_FFE_PRESET else swept)

/-- Records of class `cls` at place `loc` on port p that still recover end in the given state. -/
def Dev.endPortFault (d : Dev) (cls p loc state : Nat) : Dev :=
  ((d.openOf cls p).filter fun n => (d.faultWord n 4).toNat == loc).foldl (fun d n => d.faultEnd n state 0) d

/-- New lost groups get a GROUP_LOST record; restored ones end theirs (R322, R325). -/
def Dev.relost (d : Dev) (p lost : Nat) : Dev :=
  let old := (d.tdlSt p).lost
  let d := (List.range 12).foldl (fun d k =>
    if bit lost k && !bit old k then d.fault { cls := 0x07, port := p, state := 1, loc := k }
    else if bit old k && !bit lost k then d.endPortFault 0x07 p k 0 else d) d
  d.setLost p lost

/-- The link is no longer trained; a training in progress is cut short and ends ABORTED (R60, log entry 40). -/
def Dev.trainCut (d : Dev) (p : Nat) : Dev :=
  let x := d.tdlSt p
  let d := if x.train = 0 then d else d.wr (TDL.pg p) TDL.TRAIN_STAT_OUTCOME 1
  (d.setTdl p { x with train := 0, trained := false, fails := [], ret := none, cast := none }).wr (TDL.pg p) TDL.TRAIN_STAT_ACTIVE 0

/-! ### Charging (R392) -/

/-- The port emits in the running pass (R392). -/
def Dev.emitsPass (d : Dev) (p : Nat) : Bool :=
  match d.winNow (d.rd SCAN.pg SCAN.POS_SLOT_NO) with
  | some w => d.emits p w
  | none => false

def Dev.chargeIf (d : Dev) (p y : Nat) : Dev := if d.emitsPass p then d.chargeLine p y else d

/-- The active lines from line a of the raster up to, and not with, line b. -/
def linesFrom (m : Mode) (a b : Nat) : List Nat :=
  ((List.range ((b + (m.h + m.vb) - a) % (m.h + m.vb))).map fun i => (a + i) % (m.h + m.vb)).filter fun y => decide (y < m.h)

/-- Lines that a group took from row memory (R324): each counts one line time and is programmed in the next pass; and the interruption
that this added. -/
def Dev.rowLines (d : Dev) (p : Nat) (ys : List Nat) : Nat × Dev :=
  let was := d.flt.lifeIntNs
  let d := (ys.foldl (fun d y => d.chargeIf p y) d).dirty p ys
  (d.flt.lifeIntNs - was, d)

/-- A failover that comes to no switch (R324): its record ends as STATE says, with the lines from the one it was decided in up to the
present one, which came from row memory. -/
def Dev.failoverEnd (d : Dev) (p : Nat) (f : Failover) (state : Nat) : Dev :=
  let m := d.mode
  let q := d.rowLines p (linesFrom m ((f.line + (m.h + m.vb) - 4) % (m.h + m.vb)) (d.portR p).line)
  q.2.faultEnd f.recNo state q.1

/-! ### The end of a training -/

/-- Lanes that a RESTORE has trained come back (R326). -/
def Dev.lanesBack (d : Dev) (p : Nat) (r : Return) : Dev :=
  let d := d.wr (TDL.pg p) TDL.LANE_STAT_FAILED (d.lanesFailed p &&& (r.lanes ^^^ 0xFFFFFF))
  ((d.relost p r.lost).setTdl p { (d.relost p r.lost).tdlSt p with ret := none }).raise (TDL.pg p) 5

/-- Training ends (R322, R326): lanes, lost groups, presets, TRAIN_STAT, EV_TDL_TRAIN_DONE. Answers whether it COMPLETED. A RESTORE trains
only the pairs with a failed lane, and the others' groups stay as they were; its lanes come back at the line that SET_LANES names, four
lines on as in R324 (DESIGN CHOICE: R326 names no line; log entry 66), or at once where no raster runs. -/
def Dev.trainEnd (d : Dev) (p : Nat) (t : TrainIn) : Bool × Dev :=
  let pg := TDL.pg p
  let x := d.tdlSt p
  let old := d.lanesFailed p
  let mask := laneMask d.regs p
  let failed := (t.failed &&& mask) &&& (if x.train = 3 then old else 0xFFFFFF)
  let back := if x.train = 3 then old &&& mask &&& (failed ^^^ 0xFFFFFF) else 0
  let now := if x.train = 3 then old &&& (back ^^^ 0xFFFFFF) else failed
  let trained (k : Nat) : Bool := bit (lostGroups d.regs p 0 0xFFF) k && (x.train != 3 || old / 4 ^ k % 4 != 0)
  let mismatch := (List.range 12).foldl (fun m k => if trained k then m else clearBit m k) (d.identMask p t.ident)
  let keep := if x.train = 3 then (List.range 12).foldl (fun m k => if trained k then clearBit m k else m) x.lost else 0
  let lost := lostGroups d.regs p now mismatch ||| keep
  let ok := lost = 0 || !d.on pg TDL.CTL_GROUP_LOSS
  let code := if ok then 0 else if mismatch != 0 then E.STATE else E.TIMEOUT
  let d := (List.range 24).foldl (fun d n =>
    match d.presetKept p old n (bestPreset (t.eyes.getD n [])) with
    | some e => d.wr pg TDL.FFE_USED e (i := n / 8) (j := n % 8)
    | none => d) d
  let d := (d.wr pg TDL.TRAIN_STAT_ACTIVE 0).wr pg TDL.TRAIN_STAT_OUTCOME (if ok then 0 else 3)
  let d := ((d.wr pg TDL.TRAIN_STAT_CODE code).wr pg TDL.TRAIN_STAT_US (satU 16 t.us)).wr pg TDL.TRAIN_STAT_PHASE (if ok then 3 else t.phase)
  let d := if ok then d else d.err pg code 0x050 15
  let d := if x.train = 3 then d else x.fails.foldl (fun d f => d.failoverEnd p f 0) d
  let d := d.setTdl p { d.tdlSt p with train := 0, trained := ok, silent := 0, bcLost := (d.tdlSt p).bcLost && !ok, fails := if x.train = 3 then x.fails else [] }
  let d := if x.train != 3 then ((d.wr pg TDL.LANE_STAT_FAILED now).relost p lost).setTdlState p (if ok then 2 else 4)
    else if back = 0 then d.relost p lost
    else if d.scan.run then
      let d := d.relost p (x.lost ||| lost)
      d.setTdl p { d.tdlSt p with ret := some ⟨((d.portR p).line + 4) % (d.mode.h + d.mode.vb), back, lost⟩ }
    else d.lanesBack p ⟨0, back, lost⟩
  let d := if ok && d.on TRIM.pg TRIM.AUTO_AFTER_TRAIN && bit (d.rd TRIM.pg TRIM.AUTO_EN) p then d.setDue p true else d
  (ok, d.raise pg 0)

/-! ### Lane failure (R323-R325) -/

/-- A failover on the group is under way. -/
def TdlSt.failing (x : TdlSt) (g : Nat) : Option Failover := x.fails.find? fun f => f.grp == g

/-- A lane of a running port has failed, by source src of R323: a failover is decided, four lines ahead; when the other
lane of the pair has failed too, the group is lost (R325), with what it took from row memory since the decision. -/
def Dev.failLane (d : Dev) (p lane src : Nat) : Dev :=
  let g := lane / 2
  let x := d.tdlSt p
  if d.tdlState p != 2 || bit (d.lanesFailed p) lane || !bit (laneMask d.regs p) lane || bit x.lost g then d
  else
    let line := (d.portR p).line
    let sl := d.rd SCAN.pg SCAN.POS_SLOT_NO
    let recOf (st : Nat) : FaultRec := { cls := 0x06, port := p, state := st, detail := src, loc := lane, line := line, slot := sl }
    match x.failing g with
    | some f =>
      if f.lane = lane then d
      else
        let d := (d.failoverEnd p f 2).fault (recOf 2)
        let d := d.wr (TDL.pg p) TDL.LANE_STAT_FAILED (d.lanesFailed p ||| (3 * 4 ^ g))
        (d.setTdl p { d.tdlSt p with fails := (d.tdlSt p).fails.filter fun e => e.grp != g }).relost p (x.lost ||| 2 ^ g)
    | none =>
      if bit (d.lanesFailed p) (2 * g + 1 - lane % 2) then
        let d := (d.fault (recOf 2)).wr (TDL.pg p) TDL.LANE_STAT_FAILED (d.lanesFailed p ||| 2 ^ lane)
        d.relost p (x.lost ||| 2 ^ g)
      else
        let n := d.flt.wr
        let d := d.fault (recOf 1)
        d.setTdl p { d.tdlSt p with fails := (d.tdlSt p).fails ++ [⟨g, lane, (line + 4) % (d.mode.h + d.mode.vb), n⟩] }

/-- The effective line of a failover (R324): the lane is marked, and the group's lines from the first corrupted window on
came from row memory. -/
def Dev.failoverSwitch (d : Dev) (p g first : Nat) : Dev :=
  let x := d.tdlSt p
  match x.failing g with
  | none => d
  | some f => if d.tdlState p != 2 then d else
    let q := d.rowLines p (linesFrom d.mode first f.line)
    let d := q.2
    let d := d.setTdl p { d.tdlSt p with fails := (d.tdlSt p).fails.filter fun e => e.grp != g }
    let d := d.wr (TDL.pg p) TDL.LANE_STAT_FAILED (d.lanesFailed p ||| 2 ^ f.lane)
    let d := (d.count (TDL.pg p) TDL.FAILOVER_CNT_COUNT).raise (TDL.pg p) 1
    d.faultEnd f.recNo 0 q.1

def execFailoverSwitch (p : Port) (g : Fin 12) (first : Nat) (s : State) : Out :=
  finish (fun d => d.failoverSwitch p.val g.val first) s

/-! ### Violations and polls (R318, R327) -/

/-- A driver-side violation of row n of R327 by group g. -/
def Dev.drvViolation (d : Dev) (p g row : Nat) : Dev :=
  let d := (d.count (TDL.pg p) TDL.BC_VIOL_COUNT).raise (TDL.pg p) 3
  d.fault { cls := 0x10, port := p, detail := row, loc := g }

def getC (l : List (Nat × Nat)) (k : Nat) : Nat := mget (fun _ => 0) l k
def setC (l : List (Nat × Nat)) (k v : Nat) : List (Nat × Nat) := mset (fun _ => 0) l k v

/-- One lane of a STATUS: consecutive polls with LOCK 0 (source 3) and with FAIL_LINES CRC failures (source 4). -/
def Dev.statusLane (d : Dev) (p lane : Nat) (lock : Bool) (crc : Nat) : Dev :=
  let d := if crc = 0 then d else d.count (TDL.pg p) TDL.LANE_ERR_DRV_CRC crc (i := lane)
  let x := d.tdlSt p
  let a := if lock then 0 else getC x.lockLow lane + 1
  let b := if d.rd WMARK.pg WMARK.CTL_FAIL_LINES ≤ crc then getC x.crcBad lane + 1 else 0
  let d := d.setTdl p { x with lockLow := setC x.lockLow lane a, crcBad := setC x.crcBad lane b }
  if x.bcLost then d
  else
    let d := if 2 ≤ a then d.failLane p lane 3 else d
    if 2 ≤ b then d.failLane p lane 4 else d

/-- A STATUS response of group g (R317, R323). -/
def Dev.statusIn (d : Dev) (p g : Nat) (d0 d1 : Nat) : Dev :=
  let x := d.tdlSt p
  let d := d.setTdl p { x with
    miss := setC x.miss g 0
    clear := if bit d0 3 then x.clear ||| 2 ^ g else x.clear
    hold := if bit d0 4 then x.hold ||| 2 ^ g else x.hold }
  (d.statusLane p (2 * g) (bit d0 0) (d1 % 2 ^ 16)).statusLane p (2 * g + 1) (bit d0 1) (d1 / 2 ^ 16 % 2 ^ 16)

/-- The polls of group g that R323 wants consecutive are broken off: this one brought no STATUS. -/
def Dev.pollBroken (d : Dev) (p g : Nat) : Dev :=
  let x := d.tdlSt p
  let off (l : List (Nat × Nat)) := setC (setC l (2 * g) 0) (2 * g + 1) 0
  d.setTdl p { x with lockLow := off x.lockLow, crcBad := off x.crcBad }

/-- A poll of group g brought no valid STATUS: three in a row are a violation (R327). -/
def Dev.pollMissed (d : Dev) (p g : Nat) : Dev :=
  let d := d.pollBroken p g
  let x := d.tdlSt p
  let n := getC x.miss g + 1
  let d := d.setTdl p { x with miss := setC x.miss g n, silent := x.silent + 1 }
  if n = 3 then d.drvViolation p g 4 else d

/-- No valid RSP for 64 consecutive slots (R327). -/
def execBackChannelLost (p : Port) (s : State) : Out :=
  finish (fun d =>
    if (d.tdlSt p.val).bcLost || decide ((d.tdlSt p.val).silent < 64) then d
    else (d.setTdl p.val { d.tdlSt p.val with bcLost := true }).drvViolation p.val 15 5) s

/-! ### The Watermark (R328-R330) -/

def Dev.wmOn (d : Dev) (p : Nat) : Bool := d.operates WMARK.pg && d.on WMARK.pg (if p = 0 then WMARK.CTL_EN_A else WMARK.CTL_EN_B)

/-- The Watermark checks (R333): a compared port has a line out whose windows are still to be judged. -/
def Dev.wmChecking (d : Dev) : Bool := [0, 1].any fun p => d.wmOn p && d.tdlState p == 2 && !(d.tdlSt p).carried.isEmpty

/-- The CRC-32C of a window's blocks (R328): each of 132 bits, header first, zero-extended to 17 bytes. -/
def blocksCrc (l : List Nat) : Nat := crc32c (l.flatMap fun b => leBytes 17 (b % 2 ^ 132))

/-- The two CRCs of a lane's window agree. -/
def crcsAgree (x : Sampled) : Bool := blocksCrc x.fed == blocksCrc x.got

/-- The lane's sampler trim is valid. -/
def Dev.sampValid (d : Dev) (p lane : Nat) : Bool := d.on TRIM.pg TRIM.SAMP_VALID (i := lane) (k := p)

def Dev.unchecked (d : Dev) : Bool := d.rd WMARK.pg WMARK.UNCHECKED_LANES (i := 0) != 0 || d.rd WMARK.pg WMARK.UNCHECKED_LANES (i := 1) != 0

/-- A pass is not MATCHED (R330): the running one, or the one that has ended, in FWM_x_INFO where it stands there. -/
def Dev.unmatched (d : Dev) (p : Nat) (old : Bool) : Dev :=
  let x := d.tdlSt p
  if !old then d.setTdl p { x with matched := false }
  else if x.shown then d.wr WMARK.pg WMARK.FWM_INFO_MATCHED 0 (i := p) else d

/-- A lane whose trim is not valid: UNCHECKED, and the pass is not MATCHED (R328, R330). -/
def Dev.noteUnchecked (d : Dev) (p lane : Nat) (old : Bool) : Dev :=
  let d := d.wr WMARK.pg WMARK.UNCHECKED_LANES (d.rd WMARK.pg WMARK.UNCHECKED_LANES (i := p) ||| 2 ^ lane) (i := p)
  (d.unmatched p old).cond WMARK.pg 2 true

def marksOf (x : TdlSt) (lane : Nat) : List Bool := mget (fun _ => []) x.marks lane

/-- One lane's compare: its mark among the last 64, and source 1 of R323. -/
def Dev.laneCompare (d : Dev) (p lane : Nat) (ok : Bool) : Dev :=
  let x := d.tdlSt p
  let l := ((!ok) :: marksOf x lane).take 64
  let d := d.setTdl p { x with marks := mset (fun _ => []) x.marks lane l }
  if !ok && d.rd WMARK.pg WMARK.CTL_POLICY = 2 && decide (d.rd WMARK.pg WMARK.CTL_FAIL_LINES ≤ (l.filter id).length) then
    d.failLane p lane 1
  else d

/-- A mismatch of a lane in the window of a line (R329): count, LAST, event, the record of the line's pass, the charge. -/
def Dev.wmMismatch (d : Dev) (p lane line slot : Nat) (old : Bool) : Dev :=
  let d := d.count WMARK.pg WMARK.MISMATCH_COUNT (i := p)
  let last := BitVec.ofNat 32 (lane + p * 32 + line * 64 + slot * 2 ^ 19)
  let d := (d.onlyIf (!d.frozen WMARK.pg) (·.putWord WMARK.pg 0x054 last)).raise WMARK.pg 0
  let was := d.flt.lifeIntNs
  let d := if d.rd WMARK.pg WMARK.CTL_POLICY = 0 then d else (d.chargeIf p line).dirty p [line]
  let ns := d.flt.lifeIntNs - was
  let x := d.tdlSt p
  let d := d.unmatched p old
  match if old then x.wmLast else x.wmRec with
  | some n =>
    let w := (d.faultWord n 0).toNat
    (d.onlyIf (d.inRing n) (·.putFault n 0 (w % 2 ^ 16 + satU 16 (w / 2 ^ 16 + 1) * 2 ^ 16))).faultNs n ns
  | none =>
    let n := d.flt.wr
    let d := d.fault { cls := 0x08, port := p, state := 1, detail := 1, loc := lane, line := line, slot := slot, ns := ns }
    d.setTdl p (if old then { d.tdlSt p with wmLast := some n } else { d.tdlSt p with wmRec := some n })

/-- Queue a resend of the pair's line on the lane that matched (R329): one in flight per pair. -/
def Dev.resend (d : Dev) (p lane : Nat) : Dev :=
  let x := d.tdlSt p
  let g := lane / 2
  if 1 ≤ d.rd WMARK.pg WMARK.CTL_POLICY && !(x.resend.any fun e => e.grp == g) then
    let ncol := (((spansOf d.regs p d.mode.w).find? fun e => e.1 == g).map fun e => e.2.2).getD 0
    let d := d.setTdl p { x with resend := x.resend ++ [⟨g, lane, nLine (codeDepth d.regs p) ncol⟩] }
    (d.count WMARK.pg WMARK.RESENT_COUNT (i := p)).raise WMARK.pg 1
  else d

/-- The Watermark compares a window of pair g whose line carried a LINE packet (R328): for each lane the blocks fed and sampled (none: the
lane carried nothing). A lane without a valid trim is not compared. The line is resent on a lane that matched (R329). -/
def Dev.wmCompare (d : Dev) (p g line slot : Nat) (lo hi : Option Sampled) : Dev :=
  match if d.wmOn p then (d.tdlSt p).carried.find? fun e => e.line == line && e.slot == slot else none with
  | none => d
  | some e =>
    let one (d : Dev) (lane : Nat) (r : Option Sampled) : Dev × Option Bool :=
      match r with
      | none => (d, none)
      | some x =>
        if d.sampValid p lane then ((d.laneCompare p lane (crcsAgree x)).onlyIf (!crcsAgree x) (·.wmMismatch p lane line slot e.old), some (crcsAgree x))
        else (d.noteUnchecked p lane e.old, none)
    let a := one d (2 * g) lo
    let b := one a.1 (2 * g + 1) hi
    if a.2 == some false && b.2 == some true then b.1.resend p (2 * g + 1)
    else if a.2 == some true && b.2 == some false then b.1.resend p (2 * g) else b.1

def execWmCompare (p : Port) (g : Fin 12) (line : Nat) (slot : Fin 4) (lo hi : Option Sampled) (s : State) : Out :=
  finish (fun d => d.wmCompare p.val g.val line slot.val lo hi) s

/-- The mismatch record of the pass before is final (R401). -/
def Dev.wmLastEnd (d : Dev) (p : Nat) : Dev :=
  let x := d.tdlSt p
  match x.wmLast with
  | some n => (d.setTdl p { x with wmLast := none }).faultEnd n 0 0
  | none => d

/-- A line window later (R328): lines whose windows must have been compared are let go, two line times after they ended; with the last
of a pass that has ended its record is final. -/
def Dev.wmAge (d : Dev) (p : Nat) : Dev :=
  let x := d.tdlSt p
  let l := (x.carried.map fun e => { e with age := e.age + 1 }).filter fun e => decide (e.age ≤ 3)
  let d := d.setTdl p { x with carried := l }
  if l.any (·.old) then d else d.wmLastEnd p

/-- A pass ends: FWM is published (R330); its mismatch record stays open while lines of it are still to be compared (R401). -/
def Dev.wmPassEnd (d : Dev) (p frame slot : Nat) (emitted : Bool) : Dev :=
  let d := d.wmLastEnd p
  let x := d.tdlSt p
  let show_ := emitted && !d.frozen WMARK.pg
  let d := if show_ then
      let d := d.wr WMARK.pg WMARK.FWM_CRC (x.fwm ^^^ 0xFFFFFFFF) (i := p)
      let d := (d.wr WMARK.pg WMARK.FWM_INFO_FRAME frame (i := p)).wr WMARK.pg WMARK.FWM_INFO_SLOT slot (i := p)
      (d.wr WMARK.pg WMARK.FWM_INFO_MATCHED (b2n x.matched) (i := p)).wr WMARK.pg WMARK.FWM_INFO_COMPLETE (b2n x.complete) (i := p)
    else d
  let d := d.setTdl p { d.tdlSt p with
    fwm := 0xFFFFFFFF, complete := true, matched := true, wmRec := none, wmLast := x.wmRec, shown := show_
    carried := x.carried.map fun e => { e with old := true } }
  d.onlyIf x.carried.isEmpty (·.wmLastEnd p)

/-- The code bytes of a span's LINE packet: stream bytes 8 onward up to the CRC (R313). -/
def codeBytes (depth : Nat) (codes : List Nat) : List Byte :=
  leBytes (ceilDiv (depth * codes.length) 8) ((codes.zipIdx).foldl (fun n e => n + e.1 * 2 ^ (depth * e.2)) 0)

/-- The LINE packets of line y go out (R313, R315, R330): FWM takes each span's code bytes, but for a lost group's, which no lane carries. -/
def Dev.sendLine (d : Dev) (p y : Nat) (codes : List Nat) : Dev :=
  let x := d.tdlSt p
  let depth := codeDepth d.regs p
  let sp := (spansOf d.regs p d.mode.w).filter fun e => !bit x.lost e.1
  d.setTdl p { x with
    fwm := sp.foldl (fun r e => (codeBytes depth ((codes.drop (3 * e.2.1)).take (3 * e.2.2))).foldl (crcByte 0x82F63B78) r) x.fwm
    carried := ⟨y, d.slotNo, 0, false⟩ :: x.carried }

/-- The broadcasts of self-refresh (R331). -/
def holdCmd : TdlCmd := { op := 0x06, grp := 15, a0 := 0, a1 := 0, asked := 0, src := 0, rsp := false }
def resumeCmd : TdlCmd := { op := 0x07, grp := 15, a0 := 0, a1 := 0, asked := 0, src := 0, rsp := false }

/-- SET_LANES goes to group g in the window of line y: the two after the one that a failover was decided in (R324), or that a RESTORE
ended in (R326). -/
def Dev.setLanesNow (d : Dev) (p y g : Nat) : Bool :=
  let m := d.mode
  let due (line : Nat) : Bool := [2, 3].any fun k => (y + k) % (m.h + m.vb) == line
  ((d.tdlSt p).fails.any fun f => f.grp == g && due f.line) ||
    match (d.tdlSt p).ret with
    | some r => r.lanes / 4 ^ g % 4 != 0 && due r.line
    | none => false

/-- What a line window carries beside a LINE packet, SYNC or resend (R315): the BIAS block of a slot FLE, a CLEAR, the group that a command
addresses, a broadcast of self-refresh. -/
structure Extra where
  bias : Bool
  clear : Bool
  cmd : Option Nat
  cast : Bool
  deriving DecidableEq, Repr

/-- The window's spare positions carry resends on (R315, R329): blank windows but a SYNC block and the BIAS block of a slot FLE, programmed
ones what the packet leaves of the resend's lane; a CLEAR comes first, then CMD blocks on the pair's lower or surviving lane, SET_LANES on
the one that survives. A resend whose
last blocks go out is in flight until this window ends. -/
def Dev.resendOn (d : Dev) (p y : Nat) (sent : Bool) (i : Extra) : Dev :=
  let x := d.tdlSt p
  let cap := laneCap d.mode (d.rateUsed p)
  let depth := codeDepth d.regs p
  let sp := spansOf d.regs p d.mode.w
  d.setTdl p { x with resend := x.resend.filterMap fun e =>
    let n := ((sp.find? fun z => z.1 == e.grp).map fun z => nLine depth z.2.2).getD 0
    let single := d.lanesFailed p / 4 ^ e.grp % 4 != 0
    let line := if sent then (if single then n else (n + 1 - e.lane % 2) / 2) else 1 + b2n i.bias
    let lower := single || e.lane % 2 == 0
    let lanes := d.setLanesNow p y e.grp && (match x.failing e.grp with | some f => e.lane != f.lane | none => lower)
    let used := line + b2n i.clear + b2n lanes + (if lower then b2n (i.cmd == some e.grp || i.cmd == some 15) + b2n i.cast else 0)
    if e.left = 0 then none else some { e with left := e.left - (cap - used) } }

/-! ### Commands to drivers (R319) -/

def Dev.tdlErr (d : Dev) (p code func : Nat) : Dev := d.err (TDL.pg p) code 0x060 func

/-- CMD_GO with opcode op: refused with E_STATE, E_BUSY, E_RANGE for an opcode the host may not send, tested in R319's order; else it is
sent in the next line window. -/
def Dev.tdlGo (d : Dev) (who : Req) (p op : Nat) : Dev :=
  let pg := TDL.pg p
  if d.tdlState p != 2 || !d.operates pg then d.tdlErr p E.STATE who.code
  else if d.on pg TDL.RSP_STAT_BUSY then d.tdlErr p E.BUSY who.code
  else if !([1, 2, 4, 5].contains op) then d.tdlErr p E.RANGE who.code
  else
    let c : TdlCmd := { op := op, grp := d.rd pg TDL.CMD_OP_GROUP, a0 := d.rd pg TDL.CMD_ARG0_ARG, a1 := d.rd pg TDL.CMD_ARG1_ARG, asked := 0, src := 0, rsp := d.on pg TDL.CMD_OP_RSP_REQ }
    (d.wr pg TDL.RSP_STAT_BUSY 1).setTdl p { d.tdlSt p with cmd := some c }

/-- CMD_GO.GO while CMD_OP.OPCODE names op; with another opcode this command does not arise. -/
def Dev.tdlCmd (d : Dev) (a : Acc) (p op : Nat) : Dev :=
  if d.rd (TDL.pg p) TDL.CMD_OP_OPCODE != op then d
  else d.guarded a (TDL.pg p) 0x060 fun d => d.tdlGo a.who p op

def execTdlCmdIdent (a : Acc) (p : Port) (s : State) : Out := hostWrite (.tdlCmdIdent a p) a (fun d => d.tdlCmd a p.val 1) s
def execTdlCmdStatus (a : Acc) (p : Port) (s : State) : Out := hostWrite (.tdlCmdStatus a p) a (fun d => d.tdlCmd a p.val 2) s
def execTdlCmdWriteReg (a : Acc) (p : Port) (s : State) : Out := hostWrite (.tdlCmdWriteReg a p) a (fun d => d.tdlCmd a p.val 4) s
def execTdlCmdReadReg (a : Acc) (p : Port) (s : State) : Out := hostWrite (.tdlCmdReadReg a p) a (fun d => d.tdlCmd a p.val 5) s

/-- The command ends: RSP_STAT, EV_TDL_CMD_DONE (R319). -/
def Dev.tdlCmdEnd (d : Dev) (p result code op : Nat) : Dev :=
  let d := d.putWord (TDL.pg p) 0x064 (BitVec.ofNat 32 (result * 2 + code * 16 + op * 256))
  (d.setTdl p { d.tdlSt p with cmd := none }).raise (TDL.pg p) 4

/-- A command whose link goes down, or that INIT takes the path from, ends without its response (R319: TIMEOUT). -/
def Dev.tdlCmdDrop (d : Dev) (p : Nat) : Dev :=
  match (d.tdlSt p).cmd with
  | some c => d.tdlCmdEnd p 1 0 c.op
  | none => d

/-- RETRAIN (R321): refused with E_STATE unless the port is dark. -/
def execTdlRetrain (a : Acc) (p : Port) (s : State) : Out :=
  hostWrite (.tdlRetrain a p) a (fun d => d.guarded a (TDL.pg p.val) 0x04C fun d =>
    if d.isDark p.val && d.operates (TDL.pg p.val) then d.startTrain p.val 1 else d.err (TDL.pg p.val) E.STATE 0x04C a.who.code) s

/-- RESTORE (R326), beside the running picture. -/
def execTdlRestore (a : Acc) (p : Port) (s : State) : Out :=
  hostWrite (.tdlRestore a p) a (fun d => d.guarded a (TDL.pg p.val) 0x04C fun d => if d.tdlState p.val = 2 && d.operates (TDL.pg p.val) then d.startTrain p.val 3 else d) s

end Sys2Proof.Machine
end

