-- ==== Sys2Proof/Machine/Panel.lean ====
section
/-! DEFINITION. Panel power, bias and the crack loop (18_panel_power_bias): the power-on sequence (R337-R339), power-off
and fault power-off (R340, R341), VNEG (R344), the crack loop (R346, R347), and their coincidences (R351). -/

namespace Sys2Proof.Machine

/-- Port p's panel changes state; leaving LIT ends the measurements that the regression may take together (R356). -/
def Dev.setPanelState (d : Dev) (p st : Nat) : Dev :=
  (d.onlyIf (d.panelState p == 7 && st != 7) (·.clearAcc p)).wr (PANEL.pg p) HDR.PG_STAT_STATE st
def Dev.seqUse (d : Dev) (p k : Nat) : Bool := decide (k < 6) && d.on (PANEL.pg p) PANEL.SEQ_USE (i := k)

/-- RAIL_STAT of both pages shows the shared levels (R336, R349); in factory test every RAIL_EN is low (R27). -/
def Dev.showRails (d : Dev) : Dev :=
  let en := if d.pwr.testMode then 0 else d.pwr.rails % 64
  [0, 1].foldl (fun d p => d.putWord (PANEL.pg p) 0x0CC (BitVec.ofNat 32 (en + d.pwr.railPg % 16 * 64))) d

def Dev.setRails (d : Dev) (n : Nat) : Dev := ({ d with pwr := { d.pwr with rails := n } } : Dev).showRails

/-! ### VNEG (R344) -/

/-- Port p demands VNEG and its VREFs: from ANALOG up to step 4 of power-off. -/
def Dev.biasOn (d : Dev) (p : Nat) : Bool := mget (fun _ => false) d.pwr.bias p

/-- PUMP_ON follows the demand and the analogue domains, and stays off in factory test (R27); EV_VNEG_UV holds while REG is 0 and the pump runs. Both pages
show the one regulator. -/
def Dev.vnegFollow (d : Dev) : Dev :=
  let on := (d.biasOn 0 || d.biasOn 1) && (d.domOn 6 || d.domOn 7) && !d.pwr.testMode
  [0, 1].foldl (fun d p =>
    let d := d.wr (PANEL.pg p) PANEL.VNEG_STAT_PUMP_ON (b2n on)
    let d := if on then d else (d.wr (PANEL.pg p) PANEL.VNEG_STAT_REG 0).wr (PANEL.pg p) PANEL.VNEG_STAT_OC 0
    (d.cond (PANEL.pg p) 7 (on && !d.on (PANEL.pg p) PANEL.VNEG_STAT_REG)).cond (PANEL.pg p) 6 (d.on (PANEL.pg p) PANEL.VNEG_STAT_OC)) d

def Dev.setBias (d : Dev) (p : Nat) (b : Bool) : Dev :=
  (({ d with pwr := { d.pwr with bias := mset (fun _ => false) d.pwr.bias p b } } : Dev).moot).vnegFollow

/-- The BIAS block of a slot FLE of port p (R315, R316, R345): sent while the link runs; none from a restarting port, whose windows are
not at its FLE, nor in SR2. -/
def Dev.sendBias (d : Dev) (p : Nat) : Dev :=
  if d.tdlState p != 2 || d.portState p == 2 || d.portState p == 5 then d
  else
    let pg := PANEL.pg p
    let mode := d.rd (CAL.pg p) CAL.CTL_BB_MODE
    let en := d.on pg PANEL.PANEL_CFG_BB_EN && d.panelState p == 7 && d.on pg PANEL.VNEG_STAT_REG
    d.setPanel p { d.panelSt p with biasBlk := some ⟨en, mode, polarity mode d.frameNo 0 0, d.frameNo⟩ }

/-! ### Power-off (R340, R341) -/

/-- A power-off ends (R340 step 6): OFF and EV_PANEL_OFF, or FAULT. The lifetime counters are brought up to date (R403). -/
def Dev.powerOffEnd (d : Dev) (p : Nat) : Dev :=
  let x := d.panelSt p
  let d := d.setPanel p { x with wait := .none, fault := false, redo := false, cleared := false }
  if x.fault then (d.setPanelState p 9).cond (PANEL.pg p) 3 true else ((d.setPanelState p 0).raise (PANEL.pg p) 1).lifeUpdate

/-- Step 5: the rail of step k, if in use and driven, drops and its OFF_DELAY starts; else the step below. -/
def Dev.dropRail (d : Dev) (p : Nat) : Nat → Dev
  | 0 => d.powerOffEnd p
  | n + 1 =>
    let r := d.rd (PANEL.pg p) PANEL.SEQ_RAIL (i := n)
    if d.seqUse p n && bit d.pwr.rails r then
      (d.setRails (clearBit d.pwr.rails r)).setPanel p { d.panelSt p with wait := .offDelay, idx := n }
    else d.dropRail p n

/-- Steps 3 and 4 (R340): BIAS blocks carry EN 0 and the lanes go idle, PRST_x_N low; GCLK_x stops 10 µs later, when it ran. A fault power-off
has no step 3 (R341): `idle` is false, and the link stays as it is. -/
def Dev.prstLow (d : Dev) (p : Nat) (idle : Bool) : Dev :=
  let d := if idle then ((d.tdlCmdDrop p).setTdlState p 0).trainCut p else d
  let d := if idle then d.setPanel p { d.panelSt p with biasBlk := (d.panelSt p).biasBlk.map fun b => { b with en := false } } else d
  let d := d.setPanel p { d.panelSt p with prst := false }
  if (d.panelSt p).gclk then d.setPanel p { d.panelSt p with wait := .gclk } else d.dropRail p 6

/-- Power-off from the step reached: EMIT_x low and, while SNAP_ON_OFF is 1, a snapshot (step 1); `clear` asks for step 2's CLEAR (R340). -/
def Dev.powerDown (d : Dev) (p : Nat) (clear fault : Bool) : Dev :=
  let d := ((d.snapOnOff p).emit p false).setPanelState p 8
  let d := d.setPanel p { d.panelSt p with fault := fault, redo := false, cleared := false, clearDue := false }
  if clear && d.on (PANEL.pg p) PANEL.PANEL_CFG_OFF_CLEAR && d.tdlState p = 2 then
    (d.setTdl p { d.tdlSt p with clear := 0 }).setPanel p { d.panelSt p with wait := .offClear, clearDue := true }
  else d.prstLow p (!fault)

/-- A failure of power-on (R337): RESULT FAILED, EV_PANEL_PWR_FAIL, power-off from the step reached without its CLEAR. -/
def Dev.powerFail (d : Dev) (p code : Nat) : Dev :=
  let pg := PANEL.pg p
  let d := ((d.wr pg PANEL.PWR_STAT_RESULT 2).wr pg PANEL.PWR_STAT_CODE code).raise pg 2
  d.powerDown p false false

/-- A fault power-off (R341): PRST_x_N low at once; EV_RAIL_FAULT holds from FAULT on (R390) until OFF is written. During a power-off it
only turns the end into FAULT and skips the CLEAR (R351). -/
def Dev.faultOff (d : Dev) (p : Nat) : Dev :=
  if d.panelState p = 8 then
    let x := d.panelSt p
    let d := d.setPanel p { x with fault := true }
    if x.wait = .offClear then d.prstLow p true else d
  else if d.panelState p = 0 || d.panelState p = 9 then d
  else (d.setPanel p { d.panelSt p with prst := false }).powerDown p false true

/-! ### Power-on (R337) -/

/-- ANALOG: the VREFs, the pump's demand and GCLK_x. -/
def Dev.toAnalog (d : Dev) (p : Nat) : Dev :=
  let d := (d.setPanelState p 2).setPanel p { d.panelSt p with wait := .analog, gclk := true, vref := true }
  d.setBias p true

/-- Step k of RAILS_UP, or ANALOG after the last. -/
def Dev.runStep (d : Dev) (p k : Nat) : Dev :=
  if d.seqUse p k then
    let pg := PANEL.pg p
    let d := (d.setRails (d.pwr.rails ||| 2 ^ d.rd pg PANEL.SEQ_RAIL (i := k))).wr pg PANEL.PWR_STAT_STEP k
    let low := d.on pg PANEL.SEQ_PG_WAIT (i := k) && !bit d.pwr.railPg (d.rd pg PANEL.SEQ_PG (i := k))
    d.setPanel p { d.panelSt p with idx := k, wait := if low then .pg else .onDelay }
  else d.toAnalog p

/-- TRAIN (R337 step 4). -/
def Dev.toTrain (d : Dev) (p : Nat) : Dev :=
  ((d.setPanelState p 4).setPanel p { d.panelSt p with wait := .none }).startTrain p 1

/-- CLEAR (R337 step 6). -/
def Dev.toClear (d : Dev) (p : Nat) : Dev :=
  ((d.setPanelState p 6).setTdl p { d.tdlSt p with clear := 0 }).setPanel p { d.panelSt p with wait := .clear, cleared := false, clearDue := true }

/-- INIT entry n: sent through the command path; after the last, STATUS of every enabled group (R337 step 5). -/
def Dev.initEntry (d : Dev) (p n : Nat) : Dev :=
  let pg := PANEL.pg p
  if n < 16 && d.on pg PANEL.INIT_VALID (i := n) then
    let g := d.rd pg PANEL.INIT_GROUP (i := n)
    let c : TdlCmd := { op := 4, grp := g, a0 := d.rd pg PANEL.INIT_ADDR (i := n), a1 := d.rd pg PANEL.INIT_DATA (i := n), asked := 0, src := n + 1, rsp := g != 15 }
    let d := (d.tdlCmdDrop p).wr (TDL.pg p) TDL.RSP_STAT_BUSY 1
    (d.setTdl p { d.tdlSt p with cmd := some c }).setPanel p { d.panelSt p with wait := .init, idx := n }
  else d.setPanel p { d.panelSt p with wait := .status, seen := 0 }

def Dev.toInit (d : Dev) (p : Nat) : Dev := (d.setPanelState p 5).initEntry p 0

/-- Port p's training has ended: the panel goes on from TRAIN, or runs INIT or CLEAR again after a change of the port
(R337, R351); a training that fails then fails the power-on too. -/
def Dev.panelTrained (d : Dev) (p : Nat) (ok : Bool) (code : Nat) : Dev :=
  let st := d.panelState p
  if st = 4 then if ok then d.toInit p else d.powerFail p code
  else if (d.panelSt p).redo then
    let d := d.setPanel p { d.panelSt p with redo := false }
    if st != 5 && st != 6 then d
    else if !ok then d.powerFail p code
    else if st = 5 then d.toInit p else d.toClear p
  else d

/-- The answer to an INIT entry: OK goes on, anything else fails (R337). -/
def Dev.initAnswer (d : Dev) (p n : Nat) (ok : Bool) : Dev :=
  if d.panelState p != 5 then d else if ok then d.initEntry p (n + 1) else d.powerFail p E.STATE

/-- A STATUS of group g has been taken: INIT's round, CLEAR's and power-off's acknowledgements (R337, R340). -/
def Dev.panelStatus (d : Dev) (p g : Nat) : Dev :=
  let all := d.rd (TDL.pg p) TDL.GROUPS_EN
  let x := d.panelSt p
  let cleared := !x.clearDue && (d.tdlSt p).clear &&& all == all
  match x.wait with
  | .status =>
    let d := d.setPanel p { x with seen := x.seen ||| 2 ^ g }
    if (d.panelSt p).seen &&& all == all then d.toClear p else d
  | .clear => if cleared then d.setPanel p { x with wait := .none, cleared := true } else d
  | .offClear => if cleared then d.prstLow p true else d
  | _ => d

/-- LIT at a frame FLE (R337 step 7). ON_10US counts 10 µs units; its rounding is a free choice (log entry 3). -/
def Dev.panelLit (d : Dev) (p : Nat) : Dev :=
  if d.panelState p = 6 && (d.panelSt p).cleared && !(d.panelSt p).redo then
    let pg := PANEL.pg p
    let q := d.takeRound (mkRat (d.devtime - (d.panelSt p).onAt) 10000)
    let d := (q.2.setPanelState p 7).wr pg PANEL.PWR_STAT_RESULT 1
    ((d.wr pg PANEL.PWR_STAT_ON_10US (satU 16 q.1.toNat)).setPanel p { d.panelSt p with cleared := false }).raise pg 0
  else d

/-! ### The host's commands (R338, R340) -/

/-- PWR_CTL.OFF (R340); the sequence of R33, once begun, is its own (R351). -/
def Dev.panelOff (d : Dev) (p : Nat) : Dev :=
  let pg := PANEL.pg p
  let st := d.panelState p
  if st = 0 || st = 8 || d.pwr.seqOff.isSome then d
  else if st = 9 then ((d.setPanelState p 0).cond pg 3 false).raise pg 1
  else
    let d := if st < 7 then d.wr pg PANEL.PWR_STAT_RESULT 3 else d
    let sr2 := d.portState p == 5
    d.powerDown p (!sr2) false

/-- PWR_CTL.ON (R337, R338); with OFF in the same word it acts as OFF alone (R340). -/
def Dev.panelOn (d : Dev) (who : Req) (p : Nat) : Dev :=
  let pg := PANEL.pg p
  if d.panelState p != 0 then d.err pg E.STATE 0x040 who.code
  else if !d.onPll (4 + p) then d.err pg E.CLOCK_NOT_READY 0x040 who.code
  else if !d.portOn p || !d.operates pg then d.err pg E.STATE 0x040 who.code
  else
    let d := d.putWord pg 0x044 (BitVec.ofNat 32 (d.rd pg PANEL.PWR_STAT_ON_10US * 2 ^ 16))
    let x := d.panelSt p
    let d := (d.setPanelState p 1).setPanel p { PanelSt.reset with onAt := d.devtime, pready := x.pready, outs := x.outs, ins := x.ins }
    d.runStep p 0

def execPanelOn (a : Acc) (p : Port) (x : Word) (s : State) : Out :=
  hostWrite (.panelOn a p x) a (fun d => d.guarded a (PANEL.pg p.val) 0x040 fun d =>
    if PANEL.PWR_CTL_OFF.of x = 1 then d.panelOff p.val else d.panelOn a.who p.val) s

def execPanelOff (a : Acc) (p : Port) (s : State) : Out :=
  hostWrite (.panelOff a p) a (fun d => d.guarded a (PANEL.pg p.val) 0x040 fun d => d.panelOff p.val) s

/-! ### Waits of the sequencer -/

/-- RAIL_PGn reads high: the steps that wait for it start their ON_DELAY. -/
def execRailPgRise (n : Fin 4) (s : State) : Out :=
  finish (fun d =>
    let d := ({ d with pwr := { d.pwr with railPg := d.pwr.railPg ||| 2 ^ n.val } } : Dev).showRails
    [0, 1].foldl (fun d p =>
      let x := d.panelSt p
      if x.wait = .pg && d.rd (PANEL.pg p) PANEL.SEQ_PG (i := x.idx) == n.val then d.setPanel p { x with wait := .onDelay } else d) d) s

/-- An ON_DELAY or OFF_DELAY of port p's sequence ends. -/
def execSeqDelayExpire (p : Port) (s : State) : Out :=
  finish (fun d =>
    let x := d.panelSt p.val
    match x.wait with
    | .onDelay => d.runStep p.val (x.idx + 1)
    | .offDelay => d.dropRail p.val x.idx
    | _ => d) s

/-- A wait expires (R337, R340): power-on fails with E_TIMEOUT; in power-off the CLEAR's is recorded and the sequence goes
on. -/
def execSeqWaitTimeout (p : Port) (s : State) : Out :=
  finish (fun d =>
    match (d.panelSt p.val).wait with
    | .pg | .analog | .pready | .clear => d.powerFail p.val E.TIMEOUT
    | .offClear => (d.wr (PANEL.pg p.val) PANEL.PWR_STAT_CODE E.TIMEOUT).prstLow p.val true
    | _ => d) s

/-- Every enabled VREF has settled and VNEG is in regulation (R337 step 2). -/
def execAnalogReady (p : Port) (s : State) : Out :=
  finish (fun d =>
    if (d.panelSt p.val).wait = .analog && d.on (PANEL.pg p.val) PANEL.VNEG_STAT_REG then
      d.setPanel p.val { d.panelSt p.val with wait := .prst } else d) s

/-- PRST_DELAY ends: PRST_x_N high, RESET; then PREADY_x, or training at once (R337 steps 3, 4). -/
def execPrstDelayExpire (p : Port) (s : State) : Out :=
  finish (fun d =>
    let x := d.panelSt p.val
    if x.wait = .prst then
      let d := (d.setPanelState p.val 3).setPanel p.val { x with prst := true, wait := .pready }
      if !d.on (PANEL.pg p.val) PANEL.PANEL_CFG_PREADY_USE || x.pready then d.toTrain p.val else d
    else d) s

def execPreadyRise (p : Port) (s : State) : Out :=
  finish (fun d =>
    let x := d.panelSt p.val
    let d := d.setPanel p.val { x with pready := true }
    if x.wait = .pready && d.on (PANEL.pg p.val) PANEL.PANEL_CFG_PREADY_USE then d.toTrain p.val else d) s

/-- 10 µs after PRST_x_N fell: GCLK_x stops, the VREFs and the demand on VNEG end (R340 step 4), and the rails drop. -/
def execGclkStop (p : Port) (s : State) : Out :=
  finish (fun d =>
    let x := d.panelSt p.val
    if x.wait = .gclk then
      let d := (d.setPanel p.val { x with gclk := false, vref := false }).setBias p.val false
      d.dropRail p.val 6
    else d) s

/-! ### Losses (R341) -/

/-- RAIL_PGn reads low for more than 10 µs: a fault of each port with a passed step that waits on it; the sequence of R33 takes no
part in it (R351). -/
def execRailPgLoss (n : Fin 4) (s : State) : Out :=
  finish (fun d =>
    let d := ({ d with pwr := { d.pwr with railPg := clearBit d.pwr.railPg n.val } } : Dev).showRails
    [0, 1].foldl (fun d p =>
      let pg := PANEL.pg p
      let x := d.panelSt p
      let st := d.panelState p
      let mine := d.pwr.seqOff.isNone && (List.range 6).any fun k => d.seqUse p k && d.on pg PANEL.SEQ_PG_WAIT (i := k) && d.rd pg PANEL.SEQ_PG (i := k) == n.val &&
        bit d.pwr.rails (d.rd pg PANEL.SEQ_RAIL (i := k)) && !(st == 1 && x.wait == .pg && x.idx == k)
      if mine then d.faultOff p else d) d) s

def execPreadyLoss (p : Port) (s : State) : Out :=
  finish (fun d =>
    let d := d.setPanel p.val { d.panelSt p.val with pready := false }
    if d.panelState p.val = 7 && d.on (PANEL.pg p.val) PANEL.PANEL_CFG_PREADY_USE && d.pwr.seqOff.isNone then
      (d.raise (PANEL.pg p.val) 4).faultOff p.val
    else d) s

/-! ### VNEG and the crack loop (R344, R346, R347) -/

/-- VNEG enters or leaves regulation; the measured magnitude in mV. -/
def execVnegRegChange (reg : Bool) (mv : Nat) (s : State) : Out :=
  finish (fun d =>
    ([0, 1].foldl (fun d p =>
      (d.wr (PANEL.pg p) PANEL.VNEG_STAT_REG (b2n (reg && d.on (PANEL.pg p) PANEL.VNEG_STAT_PUMP_ON))).wr (PANEL.pg p) PANEL.VNEG_STAT_MV (satU 16 mv)) d).vnegFollow) s

def execVnegOvercurrent (oc : Bool) (s : State) : Out :=
  finish (fun d =>
    ([0, 1].foldl (fun d p =>
      d.wr (PANEL.pg p) PANEL.VNEG_STAT_OC (b2n (oc && d.on (PANEL.pg p) PANEL.VNEG_STAT_PUMP_ON))) d).vnegFollow) s

/-- COUNT consecutive readings out of the window latch a crack, and its policy acts (R347, R351). The PWR_STAT.CODE of a
power-on it ends is not stated: a free value (log entry 3). -/
def Dev.latchCrack (d : Dev) (p : Nat) : Dev :=
  let pg := PANEL.pg p
  let d := ((d.wr pg PANEL.CRK_STAT_LATCHED 1).count pg PANEL.CRK_STAT_FAULTS).cond pg 5 true
  if d.rd pg PANEL.CRK_CTL_POLICY = 2 then
    let st := d.panelState p
    let d := if 1 ≤ st && st ≤ 6 then
        let q := d.takeNat 256
        ((q.2.wr pg PANEL.PWR_STAT_RESULT 2).wr pg PANEL.PWR_STAT_CODE q.1).raise pg 2
      else d
    d.faultOff p
  else d.holdEmit

/-- The converter's code of a loop resistance in ohms (R44): 12 bits over 20 kΩ, 4.88 Ω the step, full scale above. DEDUCED: the
nearest code, by which the 1 kΩ of R347 reads 205 (log entry 61). -/
def crkCode (r : Rat) : Nat := min 4095 (rna (r * 4096 / 20000)).toNat

/-- A measurement of port p's crack loop (R346), from the resistances of its 16 conversions, averaged and rounded to nearest
(DEDUCED: half up; log entry 61): in SR2, on whatever port, only the one at its exit, where a reading out of the window counts as COUNT
of them. -/
def execCrackMeasure (p : Port) (code : List Rat) (s : State) : Out :=
  finish (fun d =>
    let pg := PANEL.pg p.val
    let sr2 := d.portState p.val == 5 || d.rd SCAN.pg SCAN.SR_STAT_STATE == 2
    if !d.on pg PANEL.CRK_CTL_EN || !d.domOn (6 + p.val) || (sr2 && !d.scan.exiting) then d
    else
      let code := (rna (mkRat (sumNat (code.map crkCode)) code.length)).toNat
      let out := decide (code < d.rd pg PANEL.CRK_LIM_LO ∨ d.rd pg PANEL.CRK_LIM_HI < code)
      let n := d.rd pg PANEL.CRK_CTL_COUNT
      let d := (d.wr pg PANEL.CRK_STAT_CODE code).wr pg PANEL.CRK_STAT_OUT (b2n out)
      let x := d.panelSt p.val
      let outs := if out then (if sr2 then max n (x.outs + 1) else x.outs + 1) else 0
      let d := d.setPanel p.val { x with outs := outs, ins := if out then 0 else x.ins + 1 }
      if n ≤ outs && !d.on pg PANEL.CRK_STAT_LATCHED then d.latchCrack p.val else d) s

/-- CRK_CLEAR (R347): dropped with E_STATE unless the last COUNT readings lay in the window. -/
def execCrkClear (a : Acc) (p : Port) (s : State) : Out :=
  hostWrite (.crkClear a p) a (fun d => d.guarded a (PANEL.pg p.val) 0x040 fun d =>
    let pg := PANEL.pg p.val
    if d.rd pg PANEL.CRK_CTL_COUNT ≤ (d.panelSt p.val).ins then (d.wr pg PANEL.CRK_STAT_LATCHED 0).cond pg 5 false
    else d.err pg E.STATE 0x040 a.who.code) s

end Sys2Proof.Machine
end

