-- ==== Sys2Proof/Machine/Trim.lean ====
section
/-! DEFINITION. The Trim unit (19_calibration): starting, aborting and committing the four calibrations (R352-R355,
R357-R359), what makes an instance due (R360). -/

namespace Sys2Proof.Machine

/-! ### Committing (R354) -/

/-- Write a field into its target: the active value and, for an RWS field, the shadow value, a check in progress and a
pending capture, so that no later commit undoes it. -/
def Dev.forceField (d : Dev) (key lo w v : Nat) : Dev :=
  let pg := key / 0x1000
  let off := key % 0x1000
  let set (r : Regs) : Regs := r.put key (setBits (r.word key) lo w v)
  let d := { d with regs := set d.regs }
  if getBits (rwsBits pg off) lo w = 0 then d
  else
    let d := { d with sh := set d.sh }
    match pageGroup pg with
    | some g =>
      let x := d.grp g.num
      d.setGrp g.num { x with check := x.check.map (fun c => { c with copy := set c.copy }), pend := x.pend.map fun c => { c with copy := set c.copy } }
    | none => d

/-- The temperature an instance goes by, °C (R360): the die's for SAMPLER and SYNCDLY, port x's panel temperature as R275
takes it for VREF and CURMODEL. -/
def Dev.trimTemp (d : Dev) (cal p : Nat) : Rat :=
  if cal = 1 || cal = 2 then d.panelTemp p else mkRat (sext 16 (d.rd SENSE.pg SENSE.DIE_TEMP_TEMP)) 256

/-- The TEMP field of an instance's quality register. -/
def trimTempFld (cal : Nat) : Fld :=
  if cal = 0 then TRIM.SAMP_Q_TEMP else if cal = 1 then TRIM.VREF_Q_TEMP else if cal = 2 then TRIM.CURM_Q_TEMP else TRIM.SYNC_Q_TEMP

/-- Record the present temperature, S8.0: its rounding is a free choice (log entry 3). -/
def Dev.stampTemp (d : Dev) (r : TrimRun) : Dev :=
  let q := d.takeRound (d.trimTemp r.cal r.port)
  q.2.wr TRIM.pg (trimTempFld r.cal) (toTwos 8 (satS 8 q.1)) (i := if r.cal = 3 then 0 else r.port)

/-- The commit point: every result value, the quality register, and what hangs on them (R354, R357, R358). -/
def Dev.trimCommit (d : Dev) (r : TrimRun) : Dev :=
  let trimWas := d.rd (PANEL.pg r.port) PANEL.VREF_TRIM (i := r.vref)
  let d := (r.writes.foldl (fun d w => d.forceField w.1 w.2.1 w.2.2.1 w.2.2.2) d).stampTemp r
  let d := if r.cal = 1 && d.rd (PANEL.pg r.port) PANEL.VREF_TRIM (i := r.vref) != trimWas then d.clearAcc r.port else d
  let d := if r.cal = 2 then d.wr TITHE.pg TITHE.CORR_CORR 0x4000 (i := r.port) else d
  d.trimEnd r 0 0

/-- At a frame FLE a computed result is committed (R354). -/
def Dev.trimAtFle (d : Dev) : Dev :=
  match d.trim.run with
  | some r => if r.ready then d.trimCommit r else d
  | none => d

/-- Port x stops being dark during a VREF run without FORCE (R364). -/
def Dev.trimDark (d : Dev) : Dev :=
  match d.trim.run with
  | some r => if r.cal = 1 && !r.force && !r.ready && !d.isDark r.port then d.trimFail r E.STATE else d
  | none => d

/-! ### Starting (R353) -/

/-- Port p's panel is in a state in which its VREFs are driven (R343): from ANALOG up to step 4 of power-off. -/
def Dev.vrefState (d : Dev) (p : Nat) : Bool :=
  decide (2 ≤ d.panelState p ∧ d.panelState p ≤ 7) || (d.panelState p == 8 && (d.panelSt p).wait == .offClear)

/-- The input state a calibration requires (R355, R357-R359). -/
def Dev.trimStateBad (d : Dev) (cal p vref : Nat) (force : Bool) : Bool :=
  match cal with
  | 0 => d.tdlState p != 2
  | 1 => !d.vrefState p || !d.on (PANEL.pg p) PANEL.VREF_EN (i := vref) || (!d.isDark p && !force)
  | 2 => d.rd TITHE.pg TITHE.ISNS_FS_MA (i := p) == 0 || d.panelState p != 7
  | _ => d.src != 1 || !d.refValid

/-- Lanes a SAMPLER run sweeps: neither failed nor idle (R355). -/
def Dev.sweepLanes (d : Dev) (p : Nat) : List Nat :=
  (List.range 24).filter fun l => bit (laneMask d.regs p) l && !bit (d.lanesFailed p) l

def Dev.trimStart (d : Dev) (r : TrimRun) : Dev :=
  let d := d.putWord TRIM.pg 0x044 (BitVec.ofNat 32
    (4 + r.cal * 8 + r.port * 64 + b2n r.auto * 128 + d.rd TRIM.pg TRIM.RUN_STAT_FRAME * 2 ^ 16))
  let d := { d with trim := { d.trim with run := some r }, sync := { d.sync with edges := [] } }
  (d.wr TRIM.pg HDR.PG_STAT_STATE 1).busy TRIM.pg true

/-- ABORT before the commit point ends the run ABORTED (R60). -/
def Dev.trimAbort (d : Dev) (func : Nat) : Dev :=
  match d.trim.run with
  | some r => (d.trimErr E.ABORTED func).trimEnd r 1 E.ABORTED
  | none => d

/-- RUN_CTL with GO and calibration cal. -/
def Dev.trimGo (d : Dev) (a : Acc) (cal : Nat) (x : Word) : Dev :=
  d.guarded a TRIM.pg 0x040 fun d =>
    let x := setBits x 0 3 cal
    let vref := TRIM.RUN_CTL_VREF_SEL.of x
    let p := TRIM.RUN_CTL_PORT.of x
    let force := TRIM.RUN_CTL_FORCE.of x == 1
    let d := if TRIM.RUN_CTL_ABORT.of x = 1 then d.trimAbort a.who.code else d
    let d := if vref < 5 then d.storeRw TRIM.pg 0x040 x else d
    if d.trim.run.isSome then d.trimErr E.BUSY a.who.code
    else if 5 ≤ vref then d.trimErr E.RANGE a.who.code
    else if d.trimStateBad cal p vref force || !d.operates TRIM.pg || !d.domOn 1 then d.trimErr E.STATE a.who.code
    else d.trimStart ⟨cal, p, vref, force, false, false, [], d.sweepLanes p⟩

def execTrimSamplerGo (a : Acc) (x : Word) (s : State) : Out := hostWrite (.trimSamplerGo a x) a (fun d => d.trimGo a 0 x) s
def execTrimVrefGo (a : Acc) (x : Word) (s : State) : Out := hostWrite (.trimVrefGo a x) a (fun d => d.trimGo a 1 x) s
def execTrimCurmodelGo (a : Acc) (x : Word) (s : State) : Out := hostWrite (.trimCurmodelGo a x) a (fun d => d.trimGo a 2 x) s
def execTrimSyncdlyGo (a : Acc) (x : Word) (s : State) : Out := hostWrite (.trimSyncdlyGo a x) a (fun d => d.trimGo a 3 x) s

def execTrimAbort (a : Acc) (s : State) : Out :=
  hostWrite (.trimAbort a) a (fun d => d.guarded a TRIM.pg 0x040 fun d => d.trimAbort a.who.code) s

/-- Calibration and port of an instance. -/
def instCal (i : Nat) : Nat × Nat :=
  if i < 2 then (0, i) else if i = 2 then (3, 0) else if i < 5 then (2, i - 3) else (1, i - 5)

/-- An instance starts by itself (R360): due, the lowest due instance that may be tried, no run active, the unit operating (R49) and
D1 on (R86). It takes RUN_CTL's VREF_SEL, and no FORCE; an input state that does not hold fails it. -/
def execTrimAutoStart (inst : Fin 7) (s : State) : Out :=
  finish (fun d =>
    let due := d.rd TRIM.pg TRIM.DUE_DUE
    let may (i : Nat) : Bool := bit due i && decide (mget (fun _ => 0) d.trim.retry i ≤ d.devtime)
    if d.halted || !d.operates TRIM.pg || !d.domOn 1 || d.trim.run.isSome || !may inst.val || (List.range inst.val).any may then d
    else
      let c := instCal inst.val
      let vref := d.rd TRIM.pg TRIM.RUN_CTL_VREF_SEL
      let r : TrimRun := ⟨c.1, c.2, vref, false, true, false, [], d.sweepLanes c.2⟩
      let d := d.trimStart r
      if d.trimStateBad c.1 c.2 vref false then d.trimFail r E.STATE else d) s

/-! ### Results -/

/-- A computed result: its values, its quality values, and whether it is plausible. -/
structure TrimOut where
  writes : List (Nat × Nat × Nat × Nat)
  quality : List (Nat × Nat × Nat × Nat)
  ok : Bool

/-- Write v to element (i, k) of a field, as a commit write. -/
def Fld.result (f : Fld) (pg v : Nat) (i : Nat := 0) (k : Nat := 0) : Nat × Nat × Nat × Nat := (f.key pg i k, f.lo, f.w, v)

/-- Runs of good points in a mask of 64: start and length; circular for PHASE. A whole circle may start anywhere. -/
def goodRuns (mask : Nat) (circ : Bool) : List (Nat × Nat) :=
  let ok (i : Nat) : Bool := bit mask (i % 64) && (circ || decide (i < 64))
  if circ && (List.range 64).all ok then (List.range 64).map fun i => (i, 64)
  else (List.range 64).filterMap fun i =>
    if ok i && !(if circ then ok (i + 63) else decide (0 < i) && ok (i - 1)) then
      some (i, ((List.range 64).find? fun n => !ok (i + n)).getD 64) else none

/-- The longest run; among equal ones a free choice (log entry 3). -/
def Dev.longest (d : Dev) (l : List (Nat × Nat)) : (Nat × Nat) × Dev :=
  let top := l.foldl (fun n e => max n e.2) 0
  let best := l.filter fun e => e.2 == top
  match best with
  | [] => ((0, 0), d)
  | [e] => (e, d)
  | _ => let q := d.takeNat best.length; (best.getD q.1 (0, 0), q.2)

/-- One lane of a SAMPLER run (R355): PHASE, THRESH, eye width and height. -/
def Dev.laneEye (d : Dev) (phase thresh : Nat) : (Nat × Nat × Nat × Nat) × Dev :=
  let q := d.longest (goodRuns phase true)
  let r := q.2.longest (goodRuns thresh false)
  (((q.1.1 + q.1.2 / 2) % 64, r.1.1 + (r.1.2 - 1) / 2, q.1.2, r.1.2), r.2)

/-- SAMPLER (R355): the error-free points of each swept lane's PHASE and THRESH sweeps. With no lane to sweep the quality
figures, and among equal ones the LANE, are free (log entry 3). -/
def Dev.samplerOut (d : Dev) (r : TrimRun) (sweep : List (Nat × Nat × Nat)) : TrimOut × Dev :=
  let lanes := r.lanes.filter fun l => !bit (d.lanesFailed r.port) l
  let q := lanes.foldl (fun (acc : List (Nat × Nat × Nat × Nat × Nat) × Dev) l =>
    let e := ((sweep.find? fun x => x.1 == l).map (·.2)).getD (0, 0)
    let y := acc.2.laneEye e.1 e.2
    (acc.1 ++ [(l, y.1)], y.2)) ([], d)
  let eyes := q.1
  let minW := eyes.foldl (fun n e => min n e.2.2.2.1) 64
  let minH := eyes.foldl (fun n e => min n e.2.2.2.2) 64
  let worst := eyes.filter fun e => e.2.2.2.1 == minW
  let f := q.2.takeNat (2 ^ 20)
  let none := eyes.isEmpty
  let lane := if none then f.1 / 2 ^ 14 % 24 else (worst.getD (f.1 % worst.length) (0, 0, 0, 0, 0)).1
  let p := r.port
  let ok := decide (d.rd TRIM.pg TRIM.SAMP_LIM_MIN_W ≤ minW) && decide (d.rd TRIM.pg TRIM.SAMP_LIM_MIN_H ≤ minH)
  let w := eyes.flatMap fun e =>
    [TRIM.SAMP_PHASE.result TRIM.pg e.2.1 e.1 p, TRIM.SAMP_THRESH.result TRIM.pg e.2.2.1 e.1 p, TRIM.SAMP_VALID.result TRIM.pg 1 e.1 p]
  let ql := [TRIM.SAMP_Q_MIN_W.result TRIM.pg (if none then f.1 % 128 else minW) p,
    TRIM.SAMP_Q_MIN_H.result TRIM.pg (if none then f.1 / 128 % 128 else minH) p, TRIM.SAMP_Q_LANE.result TRIM.pg lane p]
  (⟨w, ql, ok⟩, f.2)

/-- The regression of R356: a, c, and the residual's square over mm²; none where the statistics do not suffice. -/
def Dev.regression (d : Dev) (p : Nat) : Option (Rat × Rat × Rat × Rat) :=
  let x := d.regAcc p
  let n : Rat := (x.n : Nat)
  if x.n = 0 || x.n < d.rd TRIM.pg TRIM.REGRESS_MIN_PASSES then none
  else
    let mp := x.p / n
    let mm := x.m / n
    let vp := x.pp / n - mp * mp
    let sp : Rat := mkRat (d.rd TRIM.pg TRIM.REGRESS_MIN_SPREAD) 100
    if vp ≤ 0 || decide (vp < sp * sp * mp * mp) then none
    else
      let a := (x.pm / n - mp * mm) / vp
      let c := mm - a * mp
      let v := x.mm / n - a * (x.pm / n) - c * mm
      some (a, c, if v < 0 then 0 else v, mm)

/-- RES in 0.01 per cent, and whether res ≤ RES_MAX. With no measured current at all the spec states no residual: a free
value (log entry 3). -/
def Dev.residual (d : Dev) (v mm : Rat) : (Nat × Bool) × Dev :=
  if mm = 0 then let q := d.takeNat 65536; let r := q.2.takeBool; ((q.1, r.1), r.2)
  else
    let mx : Rat := (d.rd TRIM.pg TRIM.REGRESS_RES_MAX : Nat)
    ((satU 16 (nearSqrt (v * 100000000 / (mm * mm))), decide (v * 1000000 ≤ mx * mx * mm * mm)), d)

/-- VREF (R358) and CURMODEL (R357). -/
def Dev.regressOut (d : Dev) (r : TrimRun) (a c v mm : Rat) : TrimOut × Dev :=
  let p := r.port
  let q := d.residual v mm
  if r.cal = 2 then
    let ok := decide (1 / 2 ≤ a) && decide (a < 2) && decide (0 ≤ c) && decide (c ≤ 65535) && q.1.2
    (⟨[TITHE.MODEL_GAIN.result TITHE.pg (rne (16384 * a)).toNat p, TITHE.MODEL_OFFSET.result TITHE.pg (rne c).toNat p],
      [TRIM.CURM_Q_RES.result TRIM.pg q.1.1 p], ok⟩, q.2)
  else
    let e := a / mkRat (d.rd TRIM.pg TRIM.VREF_CFG_A_NOM (i := p)) 16384 - 1
    let vs : Rat := mkRat (sext 16 (d.rd TRIM.pg TRIM.VREF_CFG_VSENS (i := p))) 256
    let t : Int := (d.rd (PANEL.pg p) PANEL.VREF_TRIM (i := r.vref) : Int) - rne (vs * e)
    let ok := decide ((if e < 0 then -e else e) ≤ 1 / 4) && decide (0 ≤ t) && decide (t ≤ 255) && q.1.2
    (⟨[PANEL.VREF_TRIM.result (PANEL.pg p) t.toNat r.vref], [TRIM.VREF_Q_RES.result TRIM.pg q.1.1 p], ok⟩, q.2)

/-- SYNCDLY (R359), from the edges taken. -/
def Dev.syncdlyOut (d : Dev) (es : List Int) : TrimOut × Dev :=
  let p0 := es.getD 0 0
  let offs := es.map fun e => (e - p0 + 32) % 64 - 32
  let m : Rat := (p0 : Rat) + mkRat (offs.foldl (· + ·) 0) es.length
  let hi := offs.foldl max 0
  let lo := offs.foldl min 0
  let j : Rat := ((hi - lo : Int) : Rat) * (625 / 8)
  let q := d.takeNear (j / 10)
  let tap := (((d.rd SYNC.pg SYNC.IN_DLY_TAPS : Int) + 32 - rne m) % 64).toNat
  let ok := decide (j ≤ (100 * d.rd TRIM.pg TRIM.SYNC_CFG_JIT_MAX : Nat)) && decide (j < 2500)
  (⟨[SYNC.IN_DLY_TAPS.result SYNC.pg tap, TRIM.SYNC_Q_TAP.result TRIM.pg tap], [TRIM.SYNC_Q_JITTER.result TRIM.pg q.1.toNat], ok⟩, q.2)

/-- The result is computed: implausible (R353), or it waits for its commit point, which follows at once for a dark port
and without a raster (R354). -/
def Dev.trimResult (d : Dev) (r : TrimRun) (o : TrimOut) : Dev :=
  if !o.ok then
    let d := (o.quality.foldl (fun d w => d.forceField w.1 w.2.1 w.2.2.1 w.2.2.2) d).stampTemp r
    ((d.trimErr E.IMPLAUSIBLE 15).trimEnd r 3 E.IMPLAUSIBLE).raise TRIM.pg 1
  else
    let r := { r with ready := true, writes := o.writes ++ o.quality }
    let wait := if r.cal = 3 then d.scan.run else !d.isDark r.port
    if wait then { d with trim := { d.trim with run := some r } } else d.trimCommit r

/-- The measurement of the running calibration ends: `sweep` gives each lane's error-free PHASE and THRESH points, `idle`
whether a lane of an enabled group went to electrical idle during the sweep (R355). A brown-out has cut the run short (R362). -/
def execTrimResultReady (sweep : List (Nat × Nat × Nat)) (idle : Bool) (s : State) : Out :=
  finish (fun d =>
    match d.trim.run with
    | none => d
    | some r =>
      if r.ready || d.halted then d
      else if r.cal = 0 then
        if idle then d.trimFail r E.STATS else let q := d.samplerOut r sweep; q.2.trimResult r q.1
      else if r.cal = 3 then
        let n := d.rd TRIM.pg TRIM.SYNC_CFG_EDGES
        if d.sync.edges.length < n then d else let q := d.syncdlyOut (d.sync.edges.take n); q.2.trimResult r q.1
      else if r.cal = 1 && !r.force && !d.isDark r.port then d.trimFail r E.STATE
      else match d.regression r.port with
        | none => d.trimFail r E.STATS
        | some (a, c, v, mm) => let q := d.regressOut r a c v mm; q.2.trimResult r q.1) s

/-- Too few edges in time (R359). -/
def execSyncdlyEdgeTimeout (s : State) : Out :=
  finish (fun d =>
    match d.trim.run with
    | some r => if r.cal = 3 && !r.ready && decide (d.sync.edges.length < d.rd TRIM.pg TRIM.SYNC_CFG_EDGES) then d.trimFail r E.STATS else d
    | none => d) s

/-- Temperatures move (R360): an instance whose AUTO bit is set becomes due when its own has moved by TRIM_DT since its
quality register's TEMP, or that is unset. -/
def Dev.trimDue (d : Dev) : Dev :=
  (List.range 7).foldl (fun d i =>
    if !bit (d.rd TRIM.pg TRIM.AUTO_EN) i then d
    else
      let c := instCal i
      let t := d.rd TRIM.pg (trimTempFld c.1) (i := if c.1 = 3 then 0 else c.2)
      let x := d.trimTemp c.1 c.2 - (sext 8 t : Rat)
      if t = 0x80 || decide ((d.rd TRIM.pg TRIM.AUTO_TRIM_DT : Rat) ≤ if x < 0 then -x else x) then d.setDue i true else d) d

end Sys2Proof.Machine
end

