-- ==== Sys2Proof/Machine/SelfRefresh.lean ====
section
/-! DEFINITION. Self-refresh (R225-R231, R234, R331, R279): what SCAN shows, idling, SR1 and SR2 entry and exit. -/

namespace Sys2Proof.Machine

def Dev.srState (d : Dev) : Nat := d.rd SCAN.pg SCAN.SR_STAT_STATE
def Dev.srReq (d : Dev) : Nat := d.rd SCAN.pg SCAN.SR_CTL_REQ
def Dev.enabledPorts (d : Dev) : List Nat := if d.on SCAN.pg SCAN.CTL_RUN then [0, 1].filter d.portOn else []

/-- SCAN.PG_STAT.STATE and SR_STAT.ENTRY_PENDING (R230, R233). -/
def Dev.showScan (d : Dev) : Dev :=
  let st := d.srState
  let d := d.wr SCAN.pg HDR.PG_STAT_STATE
    (if d.scan.entering then 3 else if d.scan.exiting then 5 else if st = 2 then 4 else if !d.scan.run then 0
     else if d.scan.modeDark then 6 else if st = 1 then 2 else 1)
  d.wr SCAN.pg SCAN.SR_STAT_ENTRY_PENDING (b2n (d.srReq == 2 && st != 2 && !d.scan.exiting && d.on SCAN.pg SCAN.CTL_RUN))

def Dev.setSr (d : Dev) (st : Nat) : Dev := (d.wr SCAN.pg SCAN.SR_STAT_STATE st).showScan

/-- A commit of some group is pending. -/
def Dev.commitPending (d : Dev) : Bool := [0, 1, 2, 3].any fun g => (d.grp g).pend.isSome

/-- A pass or a rectangle waits for D3 (R231). -/
def Dev.needD3 (d : Dev) : Bool := d.couch.passReq || d.couch.pass.isSome || !d.rects.isEmpty || (d.grp 0).pend.isSome

/-- The Scan engine's votes on D3 and on the scan domains (R226). -/
def Dev.scanVote (d : Dev) (d3 ports : Bool) : Dev :=
  ({ d with scan := { d.scan with d3Vote := d3, portVote := ports } } : Dev).letGo

/-- SR1 ends: D3 is voted again (R228). -/
def Dev.srLeave1 (d : Dev) : Dev :=
  if d.srState = 1 && d.scan.run then (({ d with scan := { d.scan with idle := 0 } } : Dev).scanVote true true).setSr 0 else d

/-- The domains that an SR2 exit holds: D3 when a pass or rectangle waits, the scan and bias domains of the enabled ports, and the
memory groups (R80, R231). -/
def Dev.exitHolds (d : Dev) (n : Nat) : Bool :=
  (n == 3 && d.scan.d3Vote) || (d.enabledPorts.any fun p => n == 4 + p || n == 6 + p) || (decide (8 ≤ n) && d.hold n)

/-- An SR2 exit is refused (R92, R231). -/
def Dev.exitRefused (d : Dev) (code : Nat) : Dev := if d.scan.exiting then (d.err SCAN.pg code 0x044 15).raise SCAN.pg 5 else d

/-- What stands in the way of an exit that starts, or that asks for D3 too (R231). -/
def Dev.exitJudge (d : Dev) : Dev :=
  if (List.range 16).any fun n => d.exitHolds n && d.dom n == 8 then d.exitRefused E.STATE
  else if d.on CLOCK.pg CLOCK.OSC_STAT_FIRC_FAILED then d.exitRefused E.CLOCK_NOT_READY
  else d

/-- SR2 exit starts (R231): the enabled ports' domains voted, D3 too when a pass or rectangle waits. -/
def Dev.srExit (d : Dev) : Dev :=
  let d := { d with scan := { d.scan with exiting := true, exitNext := false, exitAt := d.devtime } }
  ((d.setSr 3).scanVote d.needD3 true).exitJudge

/-- A trigger of SR2 exit; during entry it waits for its end (R234), during an exit it may ask for D3. -/
def Dev.srLeave2 (d : Dev) : Dev :=
  if d.scan.entering then { d with scan := { d.scan with exitNext := true } }
  else if d.scan.exiting then (if !d.scan.d3Vote && d.needD3 then (d.scanVote true true).exitJudge else d)
  else if d.srState = 2 then d.srExit else d

/-- A rectangle has been posted (R228, R231). -/
def Dev.srPost (d : Dev) : Dev := d.srLeave1.srLeave2

/-- A commit of group g has been accepted (R228, R231). -/
def Dev.srCommit (d : Dev) (g : Nat) : Dev := (if g = 0 then d.srLeave1 else d).srLeave2

/-- Wake source n, enabled, fires: its map names D3, or D4 or D5 (R228, R231; log entry 58). -/
def Dev.srWake (d : Dev) (n : Nat) : Dev :=
  let h := if n = 0 then d.rd MOOT.pg MOOT.WAKE_MAP0_DOMS else d.rd MOOT.pg MOOT.WAKE_MAP_DOMS (i := n - 1)
  if bit (d.word MOOT.pg 0x088).toNat n then
    let d := if bit h 3 then d.srLeave1 else d
    if bit h 4 || bit h 5 then d.srLeave2 else d
  else d

/-- What ends SR1 or SR2 holds: the causes of R228 and R231, judged on the state. -/
def Dev.srCause1 (d : Dev) : Bool := d.srReq == 0 || (d.grp 0).pend.isSome || !d.rects.isEmpty || bit (d.rd MOOT.pg MOOT.WAKE_HOLD_DOMS) 3
def Dev.srCause2 (d : Dev) : Bool :=
  decide (d.srReq < 2) || d.commitPending || !d.rects.isEmpty ||
    bit (d.rd MOOT.pg MOOT.WAKE_HOLD_DOMS) 4 || bit (d.rd MOOT.pg MOOT.WAKE_HOLD_DOMS) 5

def execSr1Exit (s : State) : Out := finish (fun d => if d.srCause1 then d.srLeave1 else d) s
def execSr2ExitTrigger (s : State) : Out := finish (fun d => if d.srCause2 then d.srLeave2 else d) s

/-- A write of SR_CTL (R229, R233). -/
def execSrReqWrite (a : Acc) (x : Word) (s : State) : Out :=
  hostWrite (.srReqWrite a x) a (fun d => d.guarded a SCAN.pg 0x048 fun d =>
    let req := SCAN.SR_CTL_REQ.of x
    if req = 3 || SCAN.SR_CTL_IDLE_FRAMES.of x = 0 then d.err SCAN.pg E.RANGE 0x048 a.who.code
    else if req = 2 && sr2Bad d.regs then d.err SCAN.pg E.STATE 0x048 a.who.code
    else
      let d := (d.putWord SCAN.pg 0x048 (mux 0xFF03 x (d.word SCAN.pg 0x048))).showScan
      let d := if req = 0 then d.srLeave1 else d
      if req < 2 then d.srLeave2 else d) s

/-! ### Entry (R227, R230) -/

/-- The idle condition, but for a G_COMPOSE capture at this FLE (R227). -/
def Dev.idleNow (d : Dev) : Bool :=
  !d.couch.passReq && d.couch.pass.isNone && d.rects.isEmpty &&
    (List.range 8).all fun k => !(d.imgState k == 1 || (d.imgState k == 2 && !d.mode.part))

def Dev.restores (d : Dev) (n : Nat) : Bool := bit (d.word CLOCK.pg 0x04C).toNat n

/-- SR2's conditions but the idle count (R230). -/
def Dev.sr2Can (d : Dev) : Bool :=
  d.srReq == 2 && !d.commitPending && d.restores 3 &&
    d.enabledPorts.all fun p => d.portState p == 1 && d.panelState p == 7 && d.restores (4 + p)

/-- At a frame FLE: SR_STAT.IDLE, and entry into SR1 or towards SR2. `captured`: a G_COMPOSE capture moved to active. -/
def Dev.srAtFle (d : Dev) (captured : Bool) : Dev :=
  let idle := d.idleNow && !captured
  let n := if idle then d.scan.idle + 1 else 0
  let d := { d.wr SCAN.pg SCAN.SR_STAT_IDLE (b2n idle) with scan := { d.scan with idle := n } }
  if !d.scan.run || d.scan.entering || d.scan.exiting || d.srState ≥ 2 || decide (n < d.rd SCAN.pg SCAN.SR_CTL_IDLE_FRAMES) || n = 0 then d.showScan
  else if d.sr2Can then
    let d := { d with scan := { d.scan with entering := true } }
    (d.enabledPorts.foldl (fun d p => d.forceRows p) d).setSr 3
  else if d.srState = 0 && decide ((1 : Nat) ≤ d.srReq) && d.restores 3 then (d.scanVote false true).setSr 1
  else d.showScan

/-- Entry is abandoned: a port stopped following in the final pass (R234). -/
def Dev.srAbandon (d : Dev) : Dev :=
  ({ d with scan := { d.scan with entering := false, exitNext := false } } : Dev).setSr (if d.scan.d3Vote then 0 else 1)

/-- The port PLLs stop with SR2, whatever PLL_EN and other voters hold (R225); a domain on one goes to FIRC (DEDUCED, from R94, with no
unlock to report; log entry 58). -/
def Dev.portPllsOff (d : Dev) : Dev :=
  let d := (d.wr CLOCK.pg CLOCK.OSC_STAT_PORTA_LOCK 0).wr CLOCK.pg CLOCK.OSC_STAT_PORTB_LOCK 0
  [4, 5].foldl (fun d n =>
    let r := d.domRec n
    if d.dom n = 4 then d.setDom n 3 else if d.dom n = 6 && r.prev = 4 then d.setDomRec n { r with prev := 3 } else d) d

/-- One frame after entry began (R230): the ports HELD with EMIT_x high, HOLD sent (R331), the reference stopped, the votes
withdrawn, what ageing needs recorded (R279). -/
def Dev.srHold (d : Dev) : Dev :=
  let ps := d.enabledPorts
  let d := ps.foldl (fun d p =>
    let d := (d.setPortState p 5).emit p (!d.crackDark p)
    let c : CatchUp := ⟨d.devtime, d.rd AGING.pg AGING.STAT_KT_USED (i := p), d.rd COUCH.pg COUCH.SHOWN_IMG (j := 0), false⟩
    let d := { d with aging := { d.aging with catchUp := mset (fun _ => none) d.aging.catchUp p (some c) } }
    let x := d.tdlSt p
    (d.setTdl p { x with hold := 0, trained := false, train := 0, cast := some holdCmd }).setTdlState p 3) d
  let d := if d.src = 0 then d else d.setLock 3
  let next := d.scan.exitNext
  let d := { d.closeWindows with scan := { d.scan with run := false, entering := false, idle := 0 } }
  let d := ((d.setSr 2).portPllsOff.scanVote false false).raise SCAN.pg 3
  if next then d.srExit else d

/-- A group has not reported HOLDING within 1 ms of the broadcast (R331). -/
def execHoldTimeout (s : State) : Out :=
  finish (fun d =>
    [0, 1].foldl (fun d p =>
      if d.portState p = 5 && d.tdlState p = 3 then
        (groupsOn d.regs p).foldl (fun d g => if bit (d.tdlSt p).hold g then d else d.raise (TDL.pg p) 3) d
      else d) d) s

/-! ### Exit (R231) -/

/-- No bank of the FRAME and MAPS regions is being verified or zeroed. -/
def Dev.framesUp (d : Dev) : Bool :=
  d.reeve.items.all fun it =>
    match it.kind with
    | .image _ _ | .demura _ | .stress _ | .aux => it.banks.all fun b => decide (5 ≤ d.bankState b)
    | _ => true

/-- Resume training starts on each held, lit port whose domain is on its PLL once the banks stand (R231, R331). -/
def Dev.resumeTrain (d : Dev) : Dev :=
  if !d.scan.exiting || !d.framesUp then d
  else d.enabledPorts.foldl (fun d p =>
    if d.portState p = 5 && d.onPll (4 + p) && d.panelState p = 7 && d.tdlState p = 3 && !d.on CLOCK.pg CLOCK.OSC_STAT_FIRC_FAILED then
      d.startTrain p 2 else d) d

/-- The slot's shown image cannot be shown: a bank of it was LOST since it was made, or it is being filled (R197, R231). -/
def Dev.slotReady (d : Dev) (s : Nat) : Bool :=
  if d.mode.part then d.imgState s == 3 && !(d.img s).lost && !d.rects.any fun r => r.fill && r.slot == s
  else (List.range 2).any fun b =>
    let k := 2 * s + b
    (d.imgState k == 3 && !(d.img k).lost) || d.eligible k

/-- Port p may follow from this frame FLE: clock, FIRC, banks, tables, link. -/
def Dev.mayFollow (d : Dev) (p : Nat) : Bool :=
  d.onPll (4 + p) && !d.on CLOCK.pg CLOCK.OSC_STAT_FIRC_FAILED && d.framesUp && d.tablesRead p && d.slotReady 0 && !d.stayDark p && ((d.tdlSt p).trained || d.panelState p != 7)

/-- The held ports that follow from this frame FLE, which ends the exit (R231): none while a domain that the exit holds still wakes or is
FAILED, or another enabled port's clock or training is still to come. -/
def Dev.srFollows (d : Dev) : List Nat :=
  let held := d.enabledPorts.filter fun p => d.portState p == 5
  if !d.scan.exiting then held.filter d.mayFollow
  else if (List.range 16).any (fun n => d.exitHolds n && !d.domOn n) then []
  else if held.all (fun p => d.mayFollow p || (d.onPll (4 + p) && d.tdlState p == 4)) then held.filter d.mayFollow else []

/-- A held port follows again: every line programmed, EMIT_x back to its windows (R231). -/
def Dev.srFollow (d : Dev) (p : Nat) : Dev :=
  let d := ((d.setPortState p 1).emit p false).forceRows p
  d.setPortR p { d.portR p with follow := false, dark := false, latched := false }

/-- At a frame FLE after SR2 (R231): ports follow; SR1 or SR0, EV_SR_EXIT, EXIT_US. A change of mode that has taken every held
port into MODE_DARK ends the exit too. -/
def Dev.srExitAtFle (d : Dev) : Dev :=
  let ps := d.srFollows
  let d := ps.foldl (fun d p => d.srFollow p) d
  if !d.scan.exiting || (ps.isEmpty && d.enabledPorts.any fun p => d.portState p == 5) then d
  else
    let q := d.takeRound (mkRat (d.devtime - d.scan.exitAt) 1000)
    let d := q.2.wr SCAN.pg SCAN.SR_STAT_EXIT_US (satU 16 q.1.toNat)
    let d := { d with scan := { d.scan with exiting := false, idle := 0 } }
    let sr1 : Bool := decide ((1 : Nat) ≤ d.srReq) && !d.scan.d3Vote && !d.needD3
    let d := if sr1 then d else d.scanVote true true
    (d.setSr (if sr1 then 1 else 0)).raise SCAN.pg 4

/-- RUN goes to 0: no self-refresh (R219, R232). -/
def Dev.srStop (d : Dev) : Dev :=
  let d := { d with scan := { d.scan with entering := false, exiting := false, exitNext := false, idle := 0 } }
  (d.setSr 0).scanVote true true

end Sys2Proof.Machine
end

