-- ==== Sys2Proof/Machine/Rect.lean ====
section
/-! DEFINITION. Partial updates (11_partial_updates): posts, aborts, composing, windows, copies and done entries of the
rectangle queue (R196-R211). -/

namespace Sys2Proof.Machine

/-! ### Pixels of items -/

/-- Pixel (x, y) of an item laid out as an image (R167). -/
def Dev.kindPx (d : Dev) (k : ItemKind) (x y : Nat) : Nat :=
  let pair := d.itemNat k (d.mode.pairOff (x / 2) y) 9
  if x % 2 = 0 then pair % 2 ^ 36 else pair / 2 ^ 36

/-- Write pixels of line y from column x on. -/
def Dev.putRow (d : Dev) (k : ItemKind) (x y : Nat) (pxs : List Nat) : Dev :=
  let l := (if x % 2 = 1 then [d.kindPx k (x - 1) y] else []) ++ pxs
  let x0 := x - x % 2
  let l := if l.length % 2 = 1 then l ++ [d.kindPx k (x0 + l.length) y] else l
  d.putItem k (d.mode.pairOff (x0 / 2) y) (linePairs l)

/-- Write the rows of a rectangle. -/
def Dev.putRows (d : Dev) (k : ItemKind) (x y : Nat) (rows : List (List Nat)) : Dev :=
  rows.zipIdx.foldl (fun d e => d.putRow k x (y + e.2) e.1) d

/-! ### Geometry (R199) -/

def Rect.tiles (r : Rect) : List (Nat × Nat) :=
  (List.range ((r.y + r.h - 1) / 256 - r.y / 256 + 1)).flatMap fun j =>
    (List.range ((r.x + r.w - 1) / 256 - r.x / 256 + 1)).map fun i => (r.x / 256 + i, r.y / 256 + j)

/-- Footprints share a tile. -/
def Rect.dependent (a b : Rect) : Bool := a.tiles.any fun t => b.tiles.contains t

def Rect.inside (r : Rect) (x y : Nat) : Bool := decide (r.x ≤ x ∧ x < r.x + r.w ∧ r.y ≤ y ∧ y < r.y + r.h)

/-- Pixel areas intersect, in one slot. -/
def Rect.meets (a b : Rect) : Bool :=
  a.slot == b.slot && decide (a.x < b.x + b.w ∧ b.x < a.x + a.w ∧ a.y < b.y + b.h ∧ b.y < a.y + a.h)

def Rect.covers (a b : Rect) : Bool := decide (a.x ≤ b.x ∧ b.x + b.w ≤ a.x + a.w ∧ a.y ≤ b.y ∧ b.y + b.h ≤ a.y + a.h)

def Rect.lines (r : Rect) : List Nat := (List.range r.h).map (r.y + ·)

/-! ### The queue -/

/-- A done entry is written (R210); the ring's index moves whatever FREEZE holds (log entry 21). -/
def Dev.doneEntry (d : Dev) (tag outcome cause code frame : Nat) : Dev :=
  let n := d.rd RECTQ.pg RECTQ.DONE_CNT_COUNT
  let e := n % 256
  let d := d.putWord RECTQ.pg (0x800 + 8 * e) (BitVec.ofNat 32 (tag + outcome * 2 ^ 16 + cause * 2 ^ 18 + code * 2 ^ 24))
  let d := d.putWord RECTQ.pg (0x804 + 8 * e) (BitVec.ofNat 32 frame)
  (d.wr RECTQ.pg RECTQ.DONE_CNT_COUNT (n + 1)).raise RECTQ.pg 0

/-- The repair that a device rectangle carries out (R397). -/
def Dev.repairOf (d : Dev) (r : Rect) : Option Repair :=
  if r.own && !r.fill then d.repair.tiles.find? fun t => t.phase == 1 && t.img == r.slot && t.col * 256 == r.x && t.row * 256 == r.y else none

/-- A repair ends: its records' STATE. -/
def Dev.repairEnd (d : Dev) (t : Repair) (state : Nat) : Dev :=
  t.recs.foldl (fun d e => d.faultEnd e.1 state 0)
    { d with repair := { d.repair with tiles := d.repair.tiles.filter fun x => x != t } }

/-- A rectangle before its commit point ends ABORTED (R206, R207, R196, R211). -/
def Dev.rectAborted (d : Dev) (r : Rect) (cause code func off : Nat) : Dev :=
  let d := if r.st = 1 then d.leaveCouch else d
  let d := d.setRects (d.rects.filter fun x => x != r)
  let d := match d.repairOf r with | some t => d.repairEnd t 0 | none => d
  (d.err RECTQ.pg code off func).doneEntry r.tag 1 cause code d.frameNo

/-! ### Posts and aborts -/

def Rect.make (tag slot x y w h : Nat) (own fill : Bool) : Rect := ⟨tag, slot, x, y, w, h, own, 0, false, false, 0, fill⟩

/-- The device posts a rectangle (R197). -/
def Dev.postOwn (d : Dev) (slot x y w h : Nat) (fill : Bool) : Dev :=
  d.setRects (d.rects ++ [Rect.make 0xFFFF slot x y w h true fill])

/-- The device refills slot s. -/
def Dev.postFill (d : Dev) (s : Nat) : Dev := (d.postOwn s 0 0 d.mode.w d.mode.h true).holdEmit

/-- POST.GO (R200, R207); an accepted post ends self-refresh (R228, R231). -/
def Dev.rectPost (d : Dev) (who : Req) : Dev :=
  let f (x : Fld) := d.rd RECTQ.pg x
  let r := Rect.make (f RECTQ.RECT_CTL_TAG) (f RECTQ.RECT_CTL_SLOT) (f RECTQ.RECT_XY_X) (f RECTQ.RECT_XY_Y) (f RECTQ.RECT_WH_W)
    (f RECTQ.RECT_WH_H) false false
  let m := d.mode
  let e (c : Nat) := d.err RECTQ.pg c 0x050 who.code
  if !m.part || !d.operates RECTQ.pg then e E.STATE
  else if r.w = 0 || r.h = 0 || decide (m.w < r.x + r.w) || decide (m.h < r.y + r.h) || decide (m.s ≤ r.slot) || r.tag = 0xFFFF then e E.RANGE
  else if 256 ≤ d.rects.length then e E.BUSY
  else if d.rects.any fun x => x.tag == r.tag then e E.STATE
  else
    let d := if f RECTQ.RECT_CTL_REPLACE = 1 then
        (d.rects.filter fun o => !o.own && o.st != 4 && o.meets r && r.covers o).foldl
          (fun d o => d.rectAborted o 1 E.ABORTED who.code 0x050) d
      else d
    (d.setRects (d.rects ++ [r])).srPost

def execRectPost (a : Acc) (s : State) : Out :=
  hostWrite (.rectPost a) a (fun d => d.guarded a RECTQ.pg 0x050 fun d => d.rectPost a.who) s

/-- An abort of one rectangle, arbitrated against its commit point (R206). -/
def Dev.rectAbort (d : Dev) (r : Rect) (func : Nat) : Dev :=
  if r.st = 4 then (d.setRect r { r with late := true }).err RECTQ.pg E.ABORT_LATE 0x054 func
  else d.rectAborted r 0 E.ABORTED func 0x054

def execRectAbort (a : Acc) (tag : Fin 65536) (s : State) : Out :=
  hostWrite (.rectAbort a tag) a (fun d => d.guarded a RECTQ.pg 0x054 fun d =>
    if tag.val = 0xFFFF then d.err RECTQ.pg E.RANGE 0x054 a.who.code
    else match d.rects.find? fun r => r.tag == tag.val && !r.own with
      | some r => d.rectAbort r a.who.code
      | none => d.err RECTQ.pg E.STATE 0x054 a.who.code) s

/-- ABORT.ALL passes device rectangles by (R206). -/
def execRectAbortAll (a : Acc) (s : State) : Out :=
  hostWrite (.rectAbortAll a) a (fun d => d.guarded a RECTQ.pg 0x054 fun d =>
    (d.rects.filter fun r => !r.own).foldl (fun d r => d.rectAbort r a.who.code) d) s

/-- Rectangles not past their commit point end with E_STATE on a mode change (R196). -/
def Dev.rectsEnd (d : Dev) : Dev := (d.rects.filter fun r => r.st != 4).foldl (fun d r => d.rectAborted r 2 E.STATE 15 0x050) d

/-- They end, the display images staying: one that was being filled is filled again (R197). -/
def Dev.rectsStop (d : Dev) : Dev :=
  let fills := (d.rects.filter fun r => r.fill && r.st != 4).map (·.slot)
  fills.foldl (fun d s => d.postFill s) d.rectsEnd

/-- A bank of slot s's display image is LOST (R211). -/
def Dev.rectsLost (d : Dev) (s : Nat) : Dev :=
  ((d.rects.filter fun r => r.slot == s && r.st != 4).foldl (fun d r => d.rectAborted r 0 E.RETENTION_LOST 15 0x050) d).postFill s

/-! ### Composing (R201, R202) -/

/-- The bank bytes a source with values u is read from, if any: its own extent, or its LAYER cache. -/
def Dev.srcBytes (d : Dev) (u : Regs) (m : Nat) : Option (Nat → Bool) :=
  let e := srcExtent u m
  if lf u m MOULD.LAYER_CTL_SRC_LOC = 1 then some fun x => decide (e.1 ≤ 8 * (x / 8) ∧ 8 * (x / 8) < e.2)
  else (d.reeve.caches.find? fun c => c.layer == m && c.filled && c.src == srcFields u m).map fun c =>
    let ws := d.itemWords .layer c.off (e.2 - e.1)
    fun x => ws.contains (x / 8)

/-- A source u of layer m, off a bank or a cache, has read the cells (R110, R160): newly uncorrectable words, the log of those met, and a
fetch error where one is needed, from the first of the lines named on; answers the lines left. DEDUCED: an uncorrectable word of a LAYER
cache is one of its layer's source (log entry 62). -/
def Dev.srcRead (d : Dev) (v : Regs) (m : Nat) (u : Regs) (lines : List Nat) (ecc : Ecc) : List Nat × Dev :=
  match (if offScreen u m d.mode.w d.mode.h then none else d.srcBytes u m) with
  | none => (lines, d)
  | some inside =>
    let d := d.eccMeet inside ecc
    match d.bank.bad.filter fun w => inside (8 * w), lines with
    | [], _ => (lines, d)
    | _, [] => ([], d)
    | bad, l :: rest => (rest, (bad.foldl (fun d w => d.ueLog Own.COUCH (8 * w) false) d).fetchError v m l)

/-- The sources in use have been read: a new one, and the held one that a fallback has taken up (R160, R161). -/
def Dev.bankReads (d : Dev) (v : Regs) (errs : List (Fin 12 × Nat)) (ecc : Ecc) : Dev :=
  (List.range 12).foldl (fun d m =>
    let lines := (errs.filter fun x => x.1.val == m).map (·.2)
    match (d.layer m).use with
    | .fresh =>
      let q := d.srcRead v m v lines ecc
      match (d.layer m).failLine.isSome || (q.2.layer m).failLine.isSome, q.2.usedVals v m with
      | true, some hv => (q.2.srcRead v m hv q.1 ecc).2
      | _, _ => q.2
    | .held => match (d.heldOf v m).map (·.2) with
      | some hv => (d.srcRead v m hv lines ecc).2
      | none => d
    | _ => d) d

/-- The Couch composes the earliest QUEUED rectangle whose earlier dependent ones have all ended (R201). -/
def nextRect : List Rect → List Rect → Option Rect
  | _, [] => none
  | before, r :: l => if r.st = 0 && !(before.any fun b => b.dependent r) then some r else nextRect (before ++ [r]) l

/-- The values a rectangle composes with: those active now, and ENABLE of the mould pages as the last frame FLE had it (R149). DEDUCED:
without a raster, as it is now (log entry 63). -/
def Dev.fleVals (d : Dev) : Regs :=
  if !d.scan.run || d.scan.starting then d.regs
  else (List.range 12).foldl (fun v m =>
    let k := rkey (MOULD.pg m) 0x004
    v.put k (setBits (v.word k) 0 1 (b2n (bit d.couch.enables m)))) d.regs

/-- The Couch, free and with D3 on ON_PLL (R209), starts a rectangle with the G_COMPOSE values now active; readiness, fallbacks
and releases apply (R202). -/
def Dev.rectStart (d : Dev) : Dev :=
  if !d.onPll 3 || !d.operates COUCH.pg || d.couch.pass.isSome || !d.mode.part || !([.stage, .aux, .layer].all fun k => d.itemUp k) then d
  else match nextRect [] d.rects with
    | none => d
    | some r =>
      if !d.itemUp (.image r.slot 0) then d
      else
        let p : Pass := { vals := d.fleVals, slot := r.slot, waitSlot := false, img := some r.slot, frame := d.frameNo, supersede := [],
                          bufs := [], rect := true }
        let d := ({ d with couch := { d.couch with pass := some p } } : Dev).setRect r { r with st := 1 }
        let d := d.wr COUCH.pg HDR.PG_STAT_STATE 1
        d.startLayers p.vals r.slot

def execRectComposeStart (s : State) : Out := finish (fun d => d.rectStart) s

/-- The pixel of slot image k with rectangle r in place. -/
def Dev.withRect (d : Dev) (r : Rect) (x y : Nat) : Nat := if r.inside x y then d.kindPx .stage x y else d.imgPx r.slot x y

/-- Pixels of tile (c, l) of size n of the mode's picture, in order. -/
def tileOf (m : Mode) (n c l : Nat) (f : Nat → Nat → Nat) : List Nat :=
  ((List.range n).filter fun j => decide (l * n + j < m.h)).flatMap fun j =>
    ((List.range n).filter fun i => decide (c * n + i < m.w)).map fun i => f (c * n + i) (l * n + j)

/-- The 64 × 64 tiles of a footprint, with their records. -/
def Dev.rectTiles (d : Dev) (r : Rect) : List (Nat × List Nat) :=
  let m := d.mode
  r.tiles.flatMap fun t => ((List.range 16).filter fun i =>
      decide (64 * (4 * t.1 + i % 4) < m.w) && decide (64 * (4 * t.2 + i / 4) < m.h)).map fun i =>
    let c := 4 * t.1 + i % 4
    let l := 4 * t.2 + i / 4
    (l * tilesWide m + c, tileRecord (tileOf m 64 c l (d.withRect r)))

/-- The plan and curve in force for slot s on port p: what the Calender holds while it scans the slot, else the image's
records (log entry 22). -/
def Dev.inForce (d : Dev) (p s : Nat) : Curve × PlanRec :=
  let r := d.getPlan s p
  if d.rd SCAN.pg SCAN.POS_SLOT_NO = s || !bit r.flags 0 then ((d.calSt p).curve, (d.calSt p).plan) else (d.getCurve s, r)

/-- A port's prediction with the rectangle in place exceeds its plan (R205, R296). -/
def Dev.rectOver (d : Dev) (r : Rect) : Bool :=
  let new := d.rectTiles r
  let tiles := (d.getTiles r.slot).zipIdx.map fun e => ((new.find? fun t => t.1 == e.2).map (·.2)).getD e.1
  [0, 1].any fun p => let f := d.inForce p r.slot; overPlan d.regs d.mode p f.2 f.1 tiles

/-- A layer of the running compose has reads outstanding, or still to be issued. -/
def Dev.layerReads (d : Dev) : Bool :=
  let q (j : Job) : Bool := match j with | .layer _ => true | _ => false
  d.host.reads.any (fun x => q x.job) || d.host.todo.any fun x => q x.job

/-- Staging ends (R139, R202): STAGED, or HELD when a port's prediction exceeds the plan in force (R205). -/
def execRectStaged (c : Met) (ecc : Ecc) (s : State) : Out :=
  finish (fun d =>
    match d.couch.pass, d.rects.find? fun r => r.st == 1 with
    | some p, some r =>
      if !d.waiters.isEmpty || d.layerReads || !d.cachesUp then d
      else
        let d := d.bankReads p.vals c.errs ecc
        let d := d.putRows .stage r.x r.y (d.composeRect p.vals r.slot r.x r.y r.w r.h)
        let d := (d.composeEnd p.vals p.slot c (r.w * r.h)).endPass
        let exceeds := d.rectOver r
        let d := d.setRect r { r with st := if exceeds then 3 else 2 }
        d.onlyIf exceeds (·.raise RECTQ.pg 1)
    | _, _ => d) s

/-! ### Copies (R203-R205) -/

/-- At the commit point the slot's statistics take the rectangle in (R204); a fill, the whole image's, makes them anew (R180, R197). -/
def Dev.rectStats (d : Dev) (r : Rect) : Dev :=
  let m := d.mode
  let k := r.slot
  let base := statsBase k
  let recs := d.rectTiles r
  let crcs := r.tiles.map fun t => (t.2 * ceilDiv m.w 256 + t.1, tileCrc (tileOf m 256 t.1 t.2 (d.withRect r)))
  let area := r.lines.flatMap fun y => (List.range r.w).map fun i => (r.x + i, y)
  let old := area.map fun e => histBin (d.imgPx k e.1 e.2)
  let new := area.map fun e => histBin (d.kindPx .stage e.1 e.2)
  let hist := (List.range 1024).map fun b =>
    (if r.fill then 0 else d.auxNat (base + 4 * b) 4 - (old.filter (· == b)).length) + (new.filter (· == b)).length
  let d := d.putItem .aux base (hist.flatMap (leBytes 4))
  let d := crcs.foldl (fun d e => d.putAux (base + 0x1000 + 4 * e.1) 4 e.2) d
  let d := recs.foldl (fun d t => d.putItem .aux (base + 0x2000 + 32 * t.1) (t.2.flatMap (leBytes 4))) d
  let n := ceilDiv m.w 256 * ceilDiv m.h 256
  d.wr COUCH.pg COUCH.IMG_CRC (crc32c ((List.range n).flatMap fun j => leBytes 4 (d.auxNat (base + 0x1000 + 4 * j) 4))) (i := k)

/-- The copier moves the area from STAGE into the display image; the lines are to be programmed again (R208). -/
def Dev.rectCopy (d : Dev) (r : Rect) : Dev :=
  let d := d.unitRead Own.COUCH (r.lines.flatMap fun y =>
    d.itemWords .stage (d.mode.pairOff (r.x / 2) y) (9 * ((r.x + r.w + 1) / 2 - r.x / 2)))
  let d := r.lines.foldl (fun d y => d.putRow (d.mode.imgKind r.slot) r.x y ((List.range r.w).map fun i => d.kindPx .stage (r.x + i) y)) d
  [0, 1].foldl (fun d p => d.dirty p r.lines) d

/-- The commit point (R204). AHEAD the copy precedes the pass's fetch; BEHIND it follows it, and has ended at RECT_DONE. The rectangles
past theirs stand first, in the order in which the copier takes them. -/
def Dev.rectCommit (d : Dev) (r : Rect) (behind : Bool) (frame : Nat) : Dev :=
  let d := (d.rectStats r).heldChanged
  let d := if behind then d else d.rectCopy r
  let rest := d.rects.filter fun x => x != r
  d.setRects ((rest.filter (·.st == 4)) ++ [{ r with st := 4, behind := behind, frame := frame }] ++ rest.filter (·.st != 4))

/-- Copy time of n pixels, ps: 4.5 bytes each at 128 GB/s (R203). -/
def copyPs (n : Nat) : Rat := mkRat (n * 9 * 1000) (2 * 128)
def Rect.copyTime (r : Rect) : Rat := copyPs (r.w * r.h)

/-- How long the copier takes for what it is copying, ps; none while it is free. -/
def Dev.copying (d : Dev) : Option Rat :=
  match d.rects.find? (·.st == 4) with
  | some r => some r.copyTime
  | none => if d.repair.tiles.any (·.phase == 2) then some (copyPs (256 * 256)) else none

/-- Lines of a slot pass between its FLE and the reference line that now runs (R214). -/
def Dev.passLine (d : Dev) : Nat :=
  let l := d.rd SCAN.pg SCAN.POS_LINE
  if l < d.mode.h then d.mode.vb + l else l - d.mode.h

/-- Within n lines from now the Calenders may begin to fetch line y of the running pass: 4 lines ahead of the reference (R21). -/
def Dev.fetchDue (d : Dev) (y n : Nat) : Bool := decide (d.mode.vb + y ≤ d.passLine + n + 4)

/-- The window of a copy to lines y on of slot s, which takes tc ps, over the rasters of the ports that are not dark (R203): AHEAD
(some false) while fetch(y) is a line time away at least, BEHIND (some true) once it has passed and the copy ends before next(y),
neither (none). Without such a raster the copy runs at once. Answers the frame that first shows the content too. -/
def Dev.window (d : Dev) (s y : Nat) (tc : Rat) : Option (Bool × Nat) :=
  let ps := [0, 1].filter fun p => d.scan.run && !d.isDark p
  let cur := d.rd SCAN.pg SCAN.POS_SLOT_NO
  let m := d.mode
  let F := d.frameNo
  let next : Int := ((m.s + s - cur) * (m.h + m.vb) + (m.vb + y) : Nat) - ((d.passLine + 5 : Nat) : Int)
  let ends := decide (tc ≤ (next : Rat) * m.tLine)
  if ps.isEmpty then some (false, F + 1)
  else if cur < s then some (false, F)
  else if s < cur then (if ends then some (false, F + 1) else none)
  else if ps.all fun p => decide ((d.portR p).ready + 2 ≤ y) || (decide ((d.portR p).ready ≤ y) && !d.fetchDue y 1) then some (false, F)
  else if (ps.all fun p => decide (y < (d.portR p).ready)) && ends then some (true, F + 1)
  else none

/-- A BEHIND copy of n lines from y on in slot s, whose content shows from frame f on, has a line yet to be fetched (R203). -/
def Dev.notFetched (d : Dev) (s y n f : Nat) : Bool :=
  (d.frameNo + 1) % 2 ^ 32 == f % 2 ^ 32 && d.rd SCAN.pg SCAN.POS_SLOT_NO == s && d.scan.run &&
    [0, 1].any fun p => !d.isDark p && decide ((d.portR p).ready < y + n)


/-- The first STAGED rectangle with a window commits (R203). -/
def execRectCommit (s : State) : Out :=
  finish (fun d =>
    if d.copying.isSome then d
    else match (d.rects.filter fun r => r.st == 2).find? fun r => (d.window r.slot r.y r.copyTime).isSome with
      | some r => match d.window r.slot r.y r.copyTime with
        | some w => d.rectCommit r w.1 w.2
        | none => d
      | none => d) s

/-- The time from a frame FLE to fetch(y) of slot s's pass of that frame, which the Calender may begin V_BLK − 4 line times after the
slot's FLE (R21). -/
def Mode.fetchAt (m : Mode) (s y : Nat) : Rat := (s : Rat) * m.tSlot + ((m.vb - 4 + y : Nat) : Rat) * m.tLine

/-- How long it still takes: at most the whole copy's time, else open (log entry 3). -/
def Dev.copyRest (d : Dev) : Rat × Dev :=
  match d.copying with
  | some t => let q := d.takeNat (t.ceil.toNat + 1); ((q.1 : Rat), q.2)
  | none => (0, d)

/-- HELD rectangles at a frame FLE (R205), in order: the first, and each other whose copy, after those admitted before it, starts a
line time before fetch(Y). Their commit point is this cycle, their copies run AHEAD. -/
def Dev.admitHeld (d : Dev) : Dev :=
  let m := d.mode
  match d.rects.filter fun r => r.st == 3 with
  | [] => d
  | held =>
    let q := d.copyRest
    (held.foldl (fun (acc : Dev × Rat × Bool) r =>
      let (d, t, first) := acc
      if first || decide (t + m.tLine ≤ m.fetchAt r.slot r.y) then (d.rectCommit r false d.frameNo, t + r.copyTime, false)
      else (d, t, false)) (q.2, q.1, true)).1

/-- A slot's image has been made anew: its banks and AUX, STAGE and LAYER are rebuilt, and stand READY (R122; log entry 23). -/
def Dev.rebuilt (d : Dev) (k : Nat) : Dev :=
  [d.mode.imgKind k, .aux, .stage, .layer].foldl (fun d kind => d.itemReady kind) (d.setImg k { d.img k with lost := false })

/-- The last line of the copy in progress is in the image: the done entry (R204, R206); a repair's or a fill's rectangle ends
its dark time or its record. -/
def Dev.rectDone (d : Dev) : Dev :=
  match d.rects.find? fun r => r.st == 4 with
  | none => d
  | some r =>
    let d := if r.behind then d.rectCopy r else d
    let rep := d.repairOf r
    let d := d.setRects (d.rects.filter fun x => x != r)
    let d := if r.late then d.doneEntry r.tag 2 0 E.ABORT_LATE r.frame else d.doneEntry r.tag 0 0 0 r.frame
    let d := match rep with
      | some t => (d.repairEnd t 0).count FAULT.pg FAULT.REPAIR_DONE
      | none => d
    if r.fill && !d.rects.any (fun x => x.fill && x.slot == r.slot) then d.rebuilt r.slot else d

def execRectDone (s : State) : Out :=
  finish (fun d =>
    match d.rects.find? fun r => r.st == 4 with
    | some r => if d.repair.tiles.any (·.phase == 2) || (r.behind && d.notFetched r.slot r.y r.h r.frame) then d else d.rectDone
    | none => d) s

end Sys2Proof.Machine
end

