-- ==== Sys2Proof/Machine/Repair.lean ====
section
/-! DEFINITION. Recovery (22_faults_recovery): tile repair (R397), moulds in and out of service (R399), the rings' read
indexes (R402). -/

namespace Sys2Proof.Machine

def Dev.setTile (d : Dev) (t t' : Repair) : Dev :=
  { d with repair := { d.repair with tiles := d.repair.tiles.map fun x => if x == t then t' else x } }

/-- A pass substituted without repair, once a pass (R397). -/
def Dev.countUnrepaired (d : Dev) : Dev :=
  if d.repair.counted then d
  else ({ d with repair := { d.repair with counted := true } } : Dev).count FAULT.pg FAULT.REPAIR_UNREPAIRED

/-- No repair runs: a pass is requested at the next frame FLE (R397, R175). -/
def Dev.unrepairable (d : Dev) (t : Repair) : Dev :=
  let d := d.setTile t { t with phase := 3 }
  d.askPass.countUnrepaired

/-- The layers of image k's tile line, each from its held source, as the image's compose used them (R397, R162). -/
def Dev.heldLayersAt (d : Dev) (k y : Nat) : List (Nat × Regs × (Nat → Byte)) :=
  let x := d.img k
  (zOrder x.vals (contrib x.vals (d.mode.slotOfImg k))).filterMap fun m =>
    if x.skips.any fun e => e.1 == m && decide (e.2 ≤ y) then none
    else (d.layer m).held.map fun h =>
      let hv := heldVals x.vals m h
      (m, hv, d.layerByte hv m (d.layer m).heldBytes)

def Repair.width (t : Repair) (m : Mode) : Nat := min 256 (m.w - 256 * t.col)
def Repair.height (t : Repair) (m : Mode) : Nat := min 256 (m.h - 256 * t.row)

/-- The tile recomposed. -/
def Dev.recompose (d : Dev) (t : Repair) : List (List Nat) :=
  (List.range (t.height d.mode)).map fun j =>
    let y := 256 * t.row + j
    let ls := d.heldLayersAt t.img y
    (List.range (t.width d.mode)).map fun i => composePx (d.img t.img).vals.bg ls (256 * t.col + i) y

/-- The repair area of AUX (R397). -/
def repairArea : Nat := 0x800000

/-- Within 20 µs of detection (R397): the tile is recomposed into the repair area, or a device rectangle posted over it, or
no repair runs. -/
def execTileRepairStart (s : State) : Out :=
  finish (fun d =>
    match d.repair.tiles.find? fun t => t.phase == 0 with
    | none => d
    | some t =>
      if d.mode.part then
        ((d.setTile t { t with phase := 1 }).postOwn t.img (256 * t.col) (256 * t.row) (t.width d.mode) (t.height d.mode) false).srPost
      else if mget (fun _ => false) d.couch.composedSince (d.mode.slotOfImg t.img) then d.unrepairable t
      else if !d.onPll 3 then d
      else
        let rows := d.recompose t
        let d := d.setTile t { t with phase := 1, rows := rows }
        d.putItem .aux repairArea (rows.flatMap linePairs)) s

/-- The recomposed tile's CRC is checked (R397): a mismatch abandons the copy with a fault record of its own; else the copy
starts when a window opens (R203). -/
def execTileRepairCommit (s : State) : Out :=
  finish (fun d =>
    match d.repair.tiles.find? fun t => t.phase == 1 && t.rows != [] with
    | none => d
    | some t =>
      let m := d.mode
      let want := d.auxNat (statsBase t.img + 0x1000 + 4 * (t.row * ceilDiv m.w 256 + t.col)) 4
      if tileCrc (t.rows.flatMap id) != want then
        (d.fault { cls := 0x01, state := 2, detail := t.img, loc := (t.recs.getD 0 (0, 0)).2 }).unrepairable t
      else if d.copying.isSome then d
      else match d.window (m.slotOfImg t.img) (256 * t.row) (copyPs (t.rows.length * 256)) with
        | none => d
        | some w =>
          let d := if w.1 then d else d.putRows (m.imgKind t.img) (256 * t.col) (256 * t.row) t.rows
          d.setTile t { t with phase := 2, behind := w.1, frame := w.2 }) s

/-- The copy ends (R397): REPAIR.DONE, and the records read recovered. -/
def Dev.tileDone (d : Dev) : Dev :=
  match d.repair.tiles.find? fun t => t.phase == 2 with
  | none => d
  | some t =>
    let d := if t.behind then d.putRows (d.mode.imgKind t.img) (256 * t.col) (256 * t.row) t.rows else d
    (d.repairEnd t 0).count FAULT.pg FAULT.REPAIR_DONE

def execTileRepairDone (s : State) : Out :=
  finish (fun d =>
    match d.repair.tiles.find? fun t => t.phase == 2 with
    | some t => if t.behind && d.notFetched (d.mode.slotOfImg t.img) (256 * t.row) t.rows.length t.frame then d else d.tileDone
    | none => d) s

/-- The slot flips away from image k, or its mode ends: repairs of it not past their commit point are abandoned, its records
end (R397, R406). -/
def Dev.repairsAway (d : Dev) (k : Nat) : Dev :=
  (d.repair.tiles.filter fun t => t.img == k && t.phase != 2).foldl (fun d t => d.repairEnd t 0) d

/-! ### Moulds (R399) -/

/-- The layer that physical mould k carries for a set of values. -/
def Dev.layerOfMould (d : Dev) (v : Regs) (k : Nat) : Option Nat := ((d.binding v).find? fun e => e.1 == k).map fun e => e.2.1

/-- Mould k goes out of service (R399): its layer in the running compose is not ready under its policy from output line
`line` on (R144), the record; the binding follows at the next FLE, at
once while no raster runs (R135). -/
def Dev.mouldOut (d : Dev) (k detail line : Nat) : Dev :=
  if bit d.oos k then d
  else
    let d := match d.couch.pass with
      | some p => if p.img.isNone then d else match d.layerOfMould p.vals k with
        | some m => d.sourceLost p.vals m line
        | none => d
      | none => d
    let d := d.wr REEVE.pg REEVE.OUT_OF_SERVICE_MOULDS (d.oos ||| 2 ^ k)
    let d := d.fault { cls := 0x0E, detail := detail, loc := k }
    if d.scan.run then d else d.rebind

def execMouldResidueFail (k : Fin 12) (line : Nat) (s : State) : Out := finish (fun d => d.mouldOut k.val 0 line) s

/-- No progress for 64 line times while the Couch waits on the mould (R399). -/
def execMouldStall (k : Fin 12) (line : Nat) (s : State) : Out :=
  finish (fun d => if d.couch.pass.isSome then d.mouldOut k.val 1 line else d) s

/-- MOULD_RETURN starts the self-test of each named mould that is out of service. -/
def execMouldReturn (a : Acc) (x : Word) (s : State) : Out :=
  hostWrite (.mouldReturn a x) a (fun d => d.guarded a FAULT.pg 0x068 fun d =>
    { d with repair := { d.repair with testing := d.repair.testing ||| (FAULT.MOULD_RETURN_RETURN.of x &&& d.oos) } }) s

/-- Moulds that passed their self-test return to service (R399, R135). -/
def Dev.returnMoulds (d : Dev) : Dev :=
  if d.repair.passed = 0 then d
  else
    let d := d.wr REEVE.pg REEVE.OUT_OF_SERVICE_MOULDS (d.oos &&& (d.repair.passed ^^^ 0xFFF))
    { d with repair := { d.repair with passed := 0 } }

/-- A self-test ends (R399). -/
def execMouldSelftestDone (k : Fin 12) (pass : Bool) (s : State) : Out :=
  finish (fun d =>
    if !bit d.repair.testing k.val then d
    else
      let d := { d with repair := { d.repair with testing := clearBit d.repair.testing k.val } }
      if pass then
        let d := { d with repair := { d.repair with passed := d.repair.passed ||| 2 ^ k.val } }
        if d.scan.run then d else d.returnMoulds.rebind
      else d.fault { cls := 0x0E, state := 2, detail := 2, loc := k.val }) s

/-! ### Logs (R402) -/

/-- FAULT_RD or VIOL_RD takes a value within its ring. -/
def execLogRdWrite (a : Acc) (viol : Bool) (x : Word) (s : State) : Out :=
  hostWrite (.logRdWrite a viol x) a (fun d =>
    let off := if viol then 0x064 else 0x05C
    d.guarded a FAULT.pg off fun d =>
      let wr := if viol then d.flt.viol else d.flt.wr
      if (wr + 2 ^ 32 - x.toNat) % 2 ^ 32 ≤ (if viol then 32 else 16) then d.putWord FAULT.pg off x
      else d.err FAULT.pg E.RANGE off a.who.code) s

end Sys2Proof.Machine
end

