-- ==== Sys2Proof/Machine/Frame.lean ====
section
/-! DEFINITION. Frame and slot FLEs (R12, R54, R173-R176, R196, R197, R214-R224, R305): captures become active, changes of
mode are classified, images flip, passes start, ports follow. -/

namespace Sys2Proof.Machine

/-! ### The pass that ends -/

/-- A slot pass of the ports ends (R243, R301, R330): measured current, of a pass that an underrun cut short too, the latch pulse, FWM. -/
def Dev.passEnd (d : Dev) (isA isB : List (List Rat)) : Dev :=
  let fr := d.frameNo
  let sl := d.slotNo
  let d := { d with repair := { d.repair with counted := false } }
  [0, 1].foldl (fun d p =>
    let em := d.emitsPass p
    let r := d.portR p
    let followed := d.portState p == 1 && r.follow
    let cut := (d.portState p == 2 || d.portState p == 3) && r.recNo.isSome && decide (d.scan.fleT ≤ r.darkAt)
    let d := if followed || cut then d.measure p (if p = 0 then isA else isB) else d
    let d := d.wmPassEnd p fr sl em
    if d.latchOn p && !d.rolling then
      let latch := followed && !d.heldOff p
      let d := if latch then d.gsync p else d
      d.setPortR p { d.portR p with latched := latch }
    else d) d

/-- EV_LINE_MATCH at the start of a reference line (R218). -/
def Dev.lineMatch (d : Dev) (y : Nat) : Dev :=
  d.onlyIf (d.on SCAN.pg SCAN.LINE_MATCH_EN && d.rd SCAN.pg SCAN.LINE_MATCH_LINE == y && d.rd SCAN.pg SCAN.LINE_MATCH_SLOT == d.slotNo)
    (·.raise SCAN.pg 6)

/-- The line whose slot holds the response to a command sent in line y (R318): two lines on, no other command being in progress (R319). -/
def rspLine (m : Mode) (y : Nat) : Nat := (y + 2) % (m.h + m.vb)

/-- The command in progress goes out in the window of line y (R315, R319): one that asks for no response has then ended, another holds
the slot of its RSP_LINE (R318). -/
def Dev.sendCmd (d : Dev) (p y : Nat) : Dev :=
  let x := d.tdlSt p
  match x.cmd with
  | some c =>
    if !c.ask then d
    else if c.rsp then d.setTdl p { x with cmd := some { c with asked := c.asked + 1, ask := false, rspAt := some (rspLine d.mode y) } }
    else
      let d := d.tdlCmdEnd p 0 0 c.op
      if c.src = 0 then d else d.initAnswer p (c.src - 1) true
  | none => d

/-- The group addressed by a command whose CMD block goes out in the window that starts (R315, R319). -/
def Dev.cmdNow (d : Dev) (p : Nat) : Option Nat :=
  match (d.tdlSt p).cmd with
  | some c => if c.ask then some c.grp else none
  | none => none

/-- A CLEAR that is due goes out (R337, R340): of all rows, and of a P2 panel's in-pixel memory too. Only what drivers report from then
on acknowledges it. -/
def Dev.sendClear (d : Dev) (p : Nat) : Dev :=
  let x := d.panelSt p
  if !x.clearDue then d
  else (d.setPanel p { x with clearDue := false, clearMem := some (d.rd (PANEL.pg p) PANEL.PANEL_CFG_TYPE == 2) }).setTdl p { d.tdlSt p with clear := 0 }

/-- Restored lanes return at the line that SET_LANES named (R326). -/
def Dev.returnLanes (d : Dev) (p y : Nat) : Dev :=
  match (d.tdlSt p).ret with
  | some r => if r.line = y then d.lanesBack p r else d
  | none => d

/-- The window of line y of port p (R315): its LINE packets, if its line is programmed, then a CLEAR, the command, a broadcast, resends.
fle: the window of a slot FLE, which carries the BIAS block. -/
def Dev.laneWindow (d : Dev) (p y : Nat) (codes : Option (List Nat)) (fle : Bool := false) : Dev :=
  if d.tdlState p != 2 then d
  else
    let d := (d.wmAge p).returnLanes p y
    let d := match codes with
      | some c => d.sendLine p y c
      | none => d
    let x := d.tdlSt p
    let i : Extra := ⟨fle, (d.panelSt p).clearDue, d.cmdNow p, x.cast.isSome⟩
    let d := ((d.resendOn p y codes.isSome i).sendClear p).sendCmd p y
    d.setTdl p { d.tdlSt p with cast := none }

/-- The blank of slot s's pass begins at time t: POS, and the following ports' own raster (R214, R216). -/
def Dev.passBegin (d : Dev) (s t : Nat) : Dev :=
  let h := d.mode.h
  let d := d.putWord SCAN.pg 0x054 (BitVec.ofNat 32 (h + s * 2 ^ 13 + 2 ^ 15))
  let d := { d with scan := { d.scan with fleT := t } }
  [0, 1].foldl (fun d p =>
    let c := d.calSt p
    let d := if d.portState p = 2 then d else d.setCal p { c with fifo := [], sat := false, stressSat := false }
    let d := if d.portState p = 1 || d.portState p = 4 then
        d.wr SCAN.pg SCAN.PORT_STAT_LINE h (i := p) else d
    let d := if d.portState p = 1 then d.setPortR p { d.portR p with follow := true, ready := 0, line := h, lineT := t } else d
    if d.portState p = 2 || d.portState p = 5 then d else d.laneWindow p h none true) (d.lineMatch h)

/-! ### Flips (R173) -/

/-- The newest eligible image of slot s. -/
def Dev.newest (d : Dev) (s : Nat) : Option Nat :=
  match ([2 * s, 2 * s + 1].filter d.eligible) with
  | [a, b] => some (if (d.img a).seq < (d.img b).seq then b else a)
  | a :: _ => some a
  | [] => none

/-- Slot s flips to image k: the shown one is FREE, its repairs end; whether a compose has started since k's own (R397). -/
def Dev.flipTo (d : Dev) (s k : Nat) : Dev :=
  let o := d.shown s
  let d := d.onlyIf (o != k) (·.heldChanged)
  let d := if o < 8 && o != k then ((d.setImgState o 0).repairsAway o).setImg o Img.reset else d
  let d := (d.setImgState k 3).wr COUCH.pg COUCH.IMG_STAT_ELIGIBLE 0 (i := k)
  let d := d.wr COUCH.pg COUCH.SHOWN_IMG k (j := s)
  let other := 4 * s + 1 - k
  let later := d.imgState other == 1 || (d.imgState other == 2 && decide ((d.img k).seq < (d.img other).seq))
  { d with couch := { d.couch with composedSince := mset (fun _ => false) d.couch.composedSince s later } }.raise COUCH.pg 1

/-- The choice at slot s's FLE (R173); FULL mode only (R198). -/
def Dev.flip (d : Dev) (s : Nat) : Dev :=
  if d.mode.part then d
  else
    let rep (d : Dev) := (d.count COUCH.pg COUCH.FLIP_DEFERRED_COUNT).raise COUCH.pg 2
    if d.on COUCH.pg COUCH.CTL_FLIP_MODE then
      let k := 2 * s + b2n (bit (d.rd COUCH.pg COUCH.FLIP_SEL_BUF) s)
      if d.imgState k = 3 then d else if d.eligible k then d.flipTo s k else rep d
    else match d.newest s with
      | some k => d.flipTo s k
      | none => rep d

/-! ### Compose start (R174-R176) -/

/-- The Couch at a frame FLE. -/
def Dev.composeFle (d : Dev) : Dev :=
  if d.mode.part then d
  else if d.couch.pass.isSome then (d.count COUCH.pg COUCH.COMPOSE_LATE_COUNT).raise COUCH.pg 4
  else if !d.onPll 3 || !d.operates COUCH.pg then d
  else if !d.on COUCH.pg COUCH.CTL_PACE then d.startPass
  else if d.couch.passReq && (d.freeBuf 0).isSome then d.startPass
  else d

/-- At slot s's FLE the running pass learns its FREE buffer, and starts it when it waits for it (R174). -/
def Dev.composeSlot (d : Dev) (s : Nat) : Dev :=
  match d.couch.pass with
  | none => d
  | some p =>
    if p.rect || p.frame != d.frameNo || p.bufs.any (fun e => e.1 == s) then d
    else
      let p := { p with bufs := p.bufs ++ [(s, d.freeBuf s)] }
      if p.waitSlot && p.slot = s then d.nextSlot p s 5 else { d with couch := { d.couch with pass := some p } }

/-! ### Captures (R54) -/

/-- A pending capture of group g moves to active: RESULT 3, unless a later check runs (R57). The map settings that its check counted
now take banks (R132). -/
def Dev.applyGroup (d : Dev) (g : Nat) : Dev :=
  let x := d.grp g
  match x.pend with
  | some c => ({ d with regs := captureView g d.regs c.copy, reeve := { d.reeve with maps := c.maps } } : Dev).setGrp g { x with pend := none, result := if x.check.isSome then 1 else 3 }
  | none => d

/-- What a G_PORT_x capture brings beside its values: every line programmed anew (R208), the measurements of a changed reference ladder
start afresh (R356), and a changed RATE ends a SAMPLER run (R364) and leaves no sampler trim valid (R355). -/
def Dev.portCaptured (d : Dev) (old : Regs) (p : Nat) : Dev :=
  let d := d.forceRows p
  let moved := (List.range 5).any fun i => (d.word (PANEL.pg p) (0x060 + 4 * i) ^^^ old.word (rkey (PANEL.pg p) (0x060 + 4 * i))) &&& 0xFFFFFF != 0
  let rate := d.rd (TDL.pg p) TDL.CTL_RATE != old.fld (TDL.pg p) TDL.CTL_RATE
  let d := d.onlyIf rate fun d =>
    (List.range 24).foldl (fun d l => d.wr TRIM.pg TRIM.SAMP_VALID 0 (i := l) (k := p)) (d.trimOnTrain p)
  if moved then d.clearAcc p else d

/-- All pending captures move to active; the groups that had one. -/
def Dev.applyAll (d : Dev) : List Nat × Dev :=
  let gs := [0, 1, 2, 3].filter fun g => (d.grp g).pend.isSome
  let old := d.regs
  let d := gs.foldl (fun d g => d.applyGroup g) d
  let d := if gs.isEmpty then d else { d with reeve := { d.reeve with maps := d.reeve.mapsNext } }
  let d := (gs.filter fun g => decide ((2 : Nat) ≤ g)).foldl (fun d g => d.portCaptured old (g - 2)) d
  (gs, if gs.isEmpty then d else d.toneEcon.letGo)

/-! ### Changes of mode (R219-R221) -/

/-- A port stops (R219). -/
def Dev.stopPort (d : Dev) (p : Nat) : Dev :=
  let r := d.portR p
  let d := match r.recNo with | some n => d.faultEnd n 0 (nsOf d.scan.now - nsOf r.darkAt) | none => d
  let d := (d.setPortState p 0).setPortR p { PortR.reset with gsync := r.gsync }
  (d.wmLastEnd p).setTdl p { (d.wmLastEnd p).tdlSt p with resend := [], carried := [] }

/-- A port enters MODE_DARK (R221), or REFUSED while its clock is not there (R217, R92). An underrun's recovery ends (R234).
The lanes of a powered panel train (R321), and its INIT or CLEAR runs again after that (R351). -/
def Dev.enterDark (d : Dev) (p : Nat) : Dev :=
  let d := (d.stopPort p).forceRows p
  if !d.onPll (4 + p) || d.on CLOCK.pg CLOCK.OSC_STAT_FIRC_FAILED then (d.setPortState p 6).raise SCAN.pg 5
  else
    let d := { d.setPortState p 4 with scan := { d.scan with modeDark := true } }
    let st := d.panelState p
    if st < 4 || 7 < st then d
    else
      let redo := st == 5 || st == 6
      (d.setPanel p { d.panelSt p with redo := redo, clearDue := false, cleared := (d.panelSt p).cleared && !redo }).startTrain p 1

/-- Images of a mode that has ended (R171, R172, R221). -/
def Dev.dropMode (d : Dev) : Dev :=
  let d := (List.range 8).foldl (fun d k => d.repairsAway k) d.dropAll
  let d := (List.range 8).foldl (fun d k =>
    ((d.setImgState k 0).wr COUCH.pg COUCH.IMG_STAT_ELIGIBLE 0 (i := k)).setImg k Img.reset) d
  { d.putWord COUCH.pg 0x074 0xFFFF with couch := { d.couch with composedSince := [] } }

/-- Move the statistics block, the registers and the record of image a to image b (R196). -/
def Dev.moveBlock (d : Dev) (a b : Nat) : Dev :=
  if a = b then d
  else
    let d := d.putItem .aux (statsBase b) (d.itemBytes .aux (statsBase a) 0x80000)
    let d := d.putWord TONE.pg (0x080 + 4 * b) (d.word TONE.pg (0x080 + 4 * a))
    let d := d.putWord COUCH.pg (0x0A0 + 4 * b) (d.word COUCH.pg (0x0A0 + 4 * a))
    let d := d.putWord COUCH.pg (0x080 + 4 * b) (d.word COUCH.pg (0x080 + 4 * a))
    ((d.setImg b (d.img a)).setImg a Img.reset).setImgState a 0

/-- Slot s's IMG_STAT, as its image is image k in buffer b. -/
def Dev.showAs (d : Dev) (s k b : Nat) : Dev :=
  let d := (d.setImgState k 3).wr COUCH.pg COUCH.IMG_STAT_ELIGIBLE 0 (i := k)
  let d := (d.wr COUCH.pg COUCH.IMG_STAT_SLOT s (i := k)).wr COUCH.pg COUCH.IMG_STAT_BUF b (i := k)
  d.wr COUCH.pg COUCH.SHOWN_IMG k (j := s)

/-- FULL to PARTIAL with RES and S unchanged (R196), run before the new values count: the shown image of each slot becomes its
display image, the other buffers are dropped. -/
def Dev.toPartial (d : Dev) (n : Nat) : Dev :=
  let d := d.dropAll
  let had := (List.range n).map fun s => (s, d.shown s)
  let items := d.reeve.items.flatMap fun it =>
    match it.kind with
    | .image s b => if d.shown s = 2 * s + b then [{ it with kind := .image s 0 }]
        else if 7 < d.shown s && b = 0 then [it] else []
    | _ => [it]
  let d := had.foldl (fun d e =>
    let d := if e.2 < 8 then d.moveBlock e.2 e.1 else d
    if e.2 < 8 then d.showAs e.1 e.1 0 else d) d
  { d with reeve := { d.reeve with items := items } }

/-- PARTIAL to FULL with RES and S unchanged (R196): each display image becomes buffer 0 of its slot, and image k shows slot ⌊k / 2⌋ and
its buffer (R181). -/
def Dev.toFull (d : Dev) (n : Nat) : Dev :=
  let d := (List.range n).reverse.foldl (fun d s =>
    if d.imgState s = 3 then (d.moveBlock s (2 * s)).showAs s (2 * s) 0 else d) d.rectsEnd
  (List.range (2 * n)).foldl (fun d k =>
    (d.wr COUCH.pg COUCH.IMG_STAT_SLOT (k / 2) (i := k)).wr COUCH.pg COUCH.IMG_STAT_BUF (k % 2) (i := k)) d

/-- PARTIAL entry (R197): a slot whose display image is new or was never shown is filled. -/
def Dev.fillNew (d : Dev) (all : Bool) : Dev :=
  (List.range d.mode.s).foldl (fun d s =>
    if !all && d.imgState s = 3 then d else (d.showAs s s 0).postFill s) d

/-- RUN goes to 0 (R219): the ports stop, the reference stops. -/
def Dev.stopRaster (d : Dev) : Dev :=
  let d := [0, 1].foldl (fun d p => (d.stopPort p).emit p false) d
  let d := { d.closeWindows with scan := { d.scan with run := false, starting := false, modeDark := false } }
  d.srStop.trimAtFle

/-- The state before the captures that a classification compares with: the mode, whether the reference has run, the ports on
and their lane rates. -/
structure Before where
  mode : Mode
  run : Bool
  on : List Bool
  rates : List Nat
  deriving DecidableEq, Repr

def Dev.before (d : Dev) : Before :=
  ⟨d.mode, d.scan.run && !d.scan.starting, [d.portOn 0, d.portOn 1], [d.rateUsed 0, d.rateUsed 1]⟩

/-- RES or S differ. -/
def newShape (a b : Mode) : Bool := a.res != b.res || a.s != b.s

/-- Copies past their commit point end before a mode's images or STAGE go (R196). -/
def Dev.endCopies (d : Dev) : Dev :=
  let d := (List.range 4).foldl (fun d _ => d.tileDone) d
  (d.rects.filter (·.st == 4)).foldl (fun d _ => d.rectDone) d

/-- What a change of RES or S leaves before the new values count (R172, R195, R196, R271, R308, R356). -/
def Dev.leaveShape (d : Dev) : Dev :=
  let d := ((d.endCopies.rectsEnd.dropMode).calModeChange 0).calModeChange 1
  (((d.forgetPs.forgetG 0).forgetG 1).clearAcc 0).clearAcc 1

/-- The classification of R219, after the captures have become active: `b` as it stood before. -/
def Dev.classify (d : Dev) (b : Before) : Dev :=
  let m := d.mode
  let shape := newShape b.mode m
  if !d.runOn then d.stopRaster.raise SCAN.pg 2
  else
    let started := !b.run
    let now := [0, 1].map fun p => d.portOn p
    let changed := started || b.mode != m || now != b.on || [0, 1].any fun p => d.portOn p && d.rateUsed p != b.rates.getD p 0
    let dark (p : Nat) : Bool := d.portOn p && (started || shape || !b.on.getD p false || d.rateUsed p != b.rates.getD p 0)
    let nonSeamless := started || shape || [0, 1].any dark
    let d := if started then (d.forgetPs.forgetG 0).forgetG 1 else d
    let d := if nonSeamless && !started then d.rectsStop else d
    let d := [0, 1].foldl (fun d p =>
      if dark p then ((d.enterDark p).forgetG p).clearAcc p
      else if !d.portOn p && (b.on.getD p false || d.portState p != 0) then d.stopPort p else d) d
    let d := if m.part && (started || shape || !b.mode.part) then d.fillNew shape else d
    let d := if m.part && !b.mode.part then [0, 1].foldl (fun d p => d.forceRows p) d else d
    let d := if nonSeamless && !m.part then d.askPass else d
    if changed then d.raise SCAN.pg 2 else d

/-! ### E4 (R305) -/

/-- The override port p should have: E4 stands, and a rate below the programmed one serves. -/
def Dev.wantLow (d : Dev) (p : Nat) : Bool :=
  d.ladder == 4 && (match lowRate d.regs d.mode p with | some r => decide (r < d.rd (TDL.pg p) TDL.CTL_RATE) | none => false)

/-- A change of port p's lane rate outside the captures of an FLE: non-seamless for it alone (R219). -/
def Dev.relane (d : Dev) (p : Nat) : Dev :=
  let d := (((d.rectsStop.trimOnTrain p).enterDark p).forgetG p).clearAcc p
  let d := if d.mode.part then d else d.askPass
  d.raise SCAN.pg 2

/-- Port p takes or leaves the override; where its rate stays what it is, nothing changes for it but LANE_LOW_x. -/
def Dev.econLane (d : Dev) (p : Nat) (low : Bool) : Dev :=
  let rate := d.rateUsed p
  let d := d.wr TITHE.pg (laneLow p) (b2n low)
  if d.rateUsed p = rate then d else d.relane p

/-- Leaving the override changes nothing for port p: it is programmed with the rate it has. -/
def Dev.sameLane (d : Dev) (p : Nat) : Bool :=
  d.portOn p && d.wantLow p != d.on TITHE.pg (laneLow p) && (d.wr TITHE.pg (laneLow p) (b2n (d.wantLow p))).rateUsed p == d.rateUsed p

/-- At a frame FLE: A first, B once A follows (R305); a port in an underrun's recovery waits (R308). -/
def Dev.econStep (d : Dev) : Dev :=
  let d := [0, 1].foldl (fun d p => d.onlyIf (d.runOn && d.sameLane p) fun d => d.econLane p (d.wantLow p)) d
  let due (p : Nat) : Bool := d.portOn p && d.wantLow p != d.on TITHE.pg (laneLow p)
  let free (p : Nat) : Bool := d.portState p != 2 && d.portState p != 3
  if !d.runOn then d
  else if due 0 then (if free 0 then d.econLane 0 (d.wantLow 0) else d)
  else if due 1 && free 1 && (!d.portOn 0 || d.portState 0 == 1) then d.econLane 1 (d.wantLow 1)
  else d

/-! ### Ports at a frame FLE -/

/-- Port p has its clock. -/
def Dev.clockOk (d : Dev) (p : Nat) : Bool := d.onPll (4 + p) && !d.on CLOCK.pg CLOCK.OSC_STAT_FIRC_FAILED

/-- Every slot has an image of the mode that is SHOWN or flip-eligible (R221); in PARTIAL mode none is being filled (R197). -/
def Dev.imagesReady (d : Dev) : Bool :=
  (List.range d.mode.s).all fun s =>
    if d.mode.part then d.imgState s == 3 && !d.rects.any fun r => r.fill && r.slot == s
    else [2 * s, 2 * s + 1].any fun k => d.imgState k == 3 || d.eligible k

/-- Port p enters MODE_DARK or is REFUSED at a frame FLE: the frame that begins may be its whole dark one (R217, R221). -/
def Dev.darkFle (d : Dev) (p : Nat) : Dev := let d := d.enterDark p; d.setPortR p { d.portR p with darkFles := 1 }

/-- A port at a frame FLE: a raster, or one in MODE_DARK, that may not go on without its clock or while FIRC_FAILED is 1 (R92, R217), a rejoin (R223), a refused port's clock
(R217), the end of MODE_DARK (R221). `ready`: the images as they stood in the clock cycle before. -/
def Dev.portFle (d : Dev) (t : Nat) (ready : Bool) (p : Nat) : Dev :=
  let st := d.portState p
  let r := d.portR p
  if (st = 1 || st = 4) && !d.clockOk p then d.darkFle p
  else if st = 3 then
    if decide ((r.since : Rat) + 8 * d.mode.tLine ≤ (t : Rat)) && d.clockOk p && !d.stayDark p then d.setPortState p 1 else d
  else if st = 6 then (if d.clockOk p && d.portOn p then d.darkFle p else d)
  else if st = 4 then
    if 1 ≤ r.darkFles && ready && (d.tdlSt p).trained && d.tablesRead p && d.clockOk p && !d.stayDark p then d.setPortState p 1
    else d.setPortR p { r with darkFles := r.darkFles + 1 }
  else d

/-- Do f, which may change regions at an FLE: a migration whose region changed ends ABORTED (R144). -/
def Dev.overMigration (d : Dev) (f : Dev → Dev) : Dev :=
  let kind := d.reeve.mig.map fun m => kindOfRegion m.region
  let was := kind.map fun k => d.item k
  let d := f d
  if kind.isSome && was != kind.map (fun k => d.item k) then (d.err REEVE.pg E.ABORTED 0x084 15).endMigration 1 else d

/-- Layer claims that waited for this FLE leave LAYER now (R134). DEDUCED: one whose bank has become DEAD meanwhile is refused as one of a
DEAD bank, with FUNC internal (log entry 62). -/
def Dev.claimFle (d : Dev) : Dev :=
  match d.bank.claim with
  | some c =>
    if c.waitFle then
      if d.bankState c.bank = 8 then
        ({ d.wr REEVE.pg REEVE.CLAIM_STAT_BUSY 0 with bank := { d.bank with claim := none } } : Dev).err REEVE.pg E.STATE 0x044 15
      else
        let d := { d with bank := { d.bank with claim := some { c with waitFle := false } } }
        d.overMigration (·.claimNow c.bank c.owner)
    else d
  | none => d

/-- A placement run while the raster goes on (R131). -/
def Dev.placeLive (d : Dev) : Dev := d.overMigration (·.placeFill)

/-- Placement at a frame FLE (R131, R132, R135, R144): moulds return, layers are bound, a LAYER
bank is claimed (R134), items are placed when values changed. -/
def Dev.placeFle (d : Dev) (captured : Bool) : Dev :=
  let d := d.returnMoulds.rebind.claimFle
  d.onlyIf captured (·.placeLive)

/-- Captures, classification and placement: steps that change what the frame is. -/
def Dev.fleValues (d : Dev) : Bool × Bool × Dev :=
  let b := d.before
  let v := ([0, 1, 2, 3].foldl (fun v g => match (d.grp g).pend with | some c => captureView g v c.copy | none => v) d.regs)
  let nm := (modeOf v).getD Mode.base
  let d := if newShape b.mode nm then d.leaveShape
    else if !b.mode.part && nm.part then d.toPartial nm.s
    else if b.mode.part && !nm.part then d.endCopies.toFull nm.s else d
  let a := d.applyAll
  let d := (a.2.modeShown).classify b
  let cap := a.1.contains 0
  let d := if cap && !d.mode.part then d.askPass else d
  (cap, d.runOn, d.placeFle (!a.1.isEmpty || b.mode != nm))

/-- Commit points of a frame FLE: map and table loads, and a trim result (R267, R354). -/
def Dev.fleCommits (d : Dev) (wasDark : List Bool) : Dev :=
  ([0, 1].foldl (fun d p => d.calCommit p d.frameNo (wasDark.getD p true)) d).trimAtFle

/-- Mould pages' ENABLE, as the FLE finds it (R149). -/
def Dev.noteEnables (d : Dev) : Dev :=
  { d with couch := { d.couch with
    enables := (List.range 12).foldl (fun n m => n + b2n (d.on (MOULD.pg m) HDR.PG_CTL_ENABLE) * 2 ^ m) 0 } }

/-- A CURMODEL result that is ready resets CORR before the pass that ends updates it (R308). -/
def Dev.curFirst (d : Dev) : Dev :=
  match d.trim.run with
  | some r => d.onlyIf (r.ready && r.cal == 2) (·.trimAtFle)
  | none => d

/-- Ports and what follows them at a frame FLE. -/
def Dev.flePorts (d : Dev) (t : Nat) (ready : Bool) (wasDark : List Bool) : Dev :=
  let d := ([0, 1].foldl (fun d p => d.portFle t ready p) d.stayFle).srExitAtFle
  let d := { d with scan := { d.scan with modeDark := [0, 1].any fun p => d.portState p == 4 } }
  let d := d.passBegin 0 t
  let d := { d with aging := { d.aging with fle := d.devtime } }
  let d := [0, 1].foldl (fun d p => (((d.panelLit p).sendBias p).agingTemp p).setTe p 0 (d.shown 0)) d
  (d.fleCommits wasDark).trimDark

/-- The end of SR2's final pass: every enabled port still follows (R230, R234). -/
def Dev.holdsNow (d : Dev) : Bool := d.scan.entering && d.enabledPorts.all fun p => d.portState p == 1 && d.panelState p == 7

/-- The frame FLE at which the reference stops is one like any other for the ladder (R304), the lock state and DITH_IDX (R237, R246), the
FRAME and SLOT_MARK pulses (R245), and loads and trim results past their check (R267, R354); f stops it. -/
def Dev.lastFle (d : Dev) (t : Nat) (wasDark : List Bool) (f : Dev → Dev) : Dev :=
  (((((d.ladderEval.lockAtFle t).markFle 0) |> f).fleCommits wasDark).fetchBegun).showScan

/-- A frame FLE at time t (ps); isA and isB: the ISNS voltages sampled in the passes that end. DESIGN CHOICE: whether one at which the
reference stops, as RUN goes to 0 or SR2 holds, still flips, counts repeats and late passes and starts a pass (R173-R176) is open; it does
not (log entry 66). -/
def Dev.frameFle (d : Dev) (t : Nat) (isA isB : List (List Rat)) : Dev :=
  if !d.scan.run && !d.scan.exiting then d
  else
    let ready := d.imagesReady
    let wasDark := [0, 1].map fun p => d.isDark p
    let ran := d.scan.run && !d.scan.starting
    let d := d.curFirst
    let d := if ran then (d.meter t).passEnd isA isB else { d with scan := { d.scan with now := t } }
    let d := [0, 1].foldl (fun d p =>
      if d.portState p = 2 || d.portState p = 3 then d.count SCAN.pg SCAN.ABORTED_COUNT (i := p) else d) d
    let d := (d.wr SCAN.pg SCAN.FRAME_NO_COUNT (d.frameNo + 1)).raise SCAN.pg 0
    let d := (d.wr SCAN.pg SCAN.POS_SLOT_NO 0).noteEnables
    if d.holdsNow then d.lastFle t wasDark (·.srHold)
    else
      let d := (d.onlyIf d.scan.entering (·.srAbandon)).winsEnd ran
      let d := { d with scan := { d.scan with run := true } }
      let q := d.fleValues
      let d := { q.2.2 with scan := { q.2.2.scan with starting := false } }
      if !q.2.1 then d.lastFle t wasDark id
      else
        let d := ((d.ladderEval.econStep.flip 0).admitHeld).partialTone 0
        let due := q.1 || (!d.mode.part && !d.on COUCH.pg COUCH.CTL_PACE)
        let d := ((d.composeFle.fetchBegun.winsBegin.lockAtFle t)).markFle 0
        let d := d.flePorts t ready wasDark
        (d.srAtFle due).showScan.heldFle.holdEmit

def execFrameFle (t : Nat) (isA isB : List (List Rat)) (s : State) : Out := finish (fun d => d.frameFle t isA isB) s

/-- The FLE of slot s ≥ 1 at time t (R12, R16, R173, R174, R216). -/
def Dev.slotFle (d : Dev) (s t : Nat) (isA isB : List (List Rat)) : Dev :=
  if !d.scan.run || d.scan.starting || s = 0 || d.mode.s ≤ s then d
  else
    let d := (d.meter t).passEnd isA isB
    let d := (d.wr SCAN.pg SCAN.POS_SLOT_NO s).flip s
    let d := ((d.partialTone s).composeSlot s).markFle s
    let d := d.passBegin s t
    let d := [0, 1].foldl (fun d p => (d.sendBias p).setTe p s (d.shown s)) d
    d.trimDark.showScan.holdEmit

def execSlotFle (sl : Fin 4) (t : Nat) (isA isB : List (List Rat)) (s : State) : Out :=
  finish (fun d => d.slotFle sl.val t isA isB) s

end Sys2Proof.Machine
end

