-- ==== Sys2Proof/Machine/Line.lean ====
section
/-! DEFINITION. Lines (R208, R214, R222, R223, R249-R264, R274-R279, R313-R315, R396): a line starts, the Calenders finish a
line, a restart pass ends. -/

namespace Sys2Proof.Machine

/-! ### Line starts -/

/-- An underrun of port p at line y (R222, R223, R398): dark at once, the restart pass from the next line boundary. -/
def Dev.underrun (d : Dev) (p y t : Nat) : Dev :=
  let sl := d.slotNo
  let d := (d.emit p false).setPortState p 2
  let d := d.putWord SCAN.pg 0x078 (BitVec.ofNat 32 (y + sl * 2 ^ 13 + p * 2 ^ 15 + d.frameNo % 2 ^ 16 * 2 ^ 16))
  let d := (d.count SCAN.pg SCAN.UNDERRUN_COUNT (i := p)).raise SCAN.pg 1
  let n := d.flt.wr
  let d := d.fault { cls := 0x09, port := p, state := 1, line := y, slot := sl }
  let d := d.setPortR p { d.portR p with started := false, dark := true, recNo := some n, darkAt := t, follow := false, ready := 0, latched := false }
  let d := d.setCal p { d.calSt p with fifo := [] }
  d.onlyIf d.scan.entering (·.srAbandon)

/-- The interruption of an underrun ends with the rejoining frame's first active line (R224). -/
def Dev.rejoined (d : Dev) (p t : Nat) : Dev :=
  let r := d.portR p
  if !r.dark then d
  else
    let d := match r.recNo with | some n => d.faultEnd n 0 (nsOf t - nsOf r.darkAt) | none => d
    d.setPortR p { d.portR p with dark := false, recNo := none }

/-- A line of an emitting pass of a port with lost groups under GROUP_LOSS FREEZE: their drivers show row memory (R325, R392). -/
def Dev.lostLine (d : Dev) (p y : Nat) : Dev :=
  if (d.tdlSt p).lost = 0 then d
  else
    let was := d.flt.lifeIntNs
    (d.chargeIf p y).chargeLost p was

/-- The codes of line y that wait in the line FIFO; they and older ones leave it. -/
def Dev.takeLine (d : Dev) (p y : Nat) : Option (List Nat) × Dev :=
  let c := d.calSt p
  ((c.fifo.find? fun e => e.1 == y).map (·.2), d.setCal p { c with fifo := c.fifo.filter fun e => decide (y < e.1) })

/-- Line y starts on following port p: the underrun test of an emitting pass (R222), else the line goes out. A pass that is
dark because emission is held off carries no LINE packets (R315). -/
def Dev.followLine (d : Dev) (p y t : Nat) : Dev :=
  let d := d.wr SCAN.pg SCAN.PORT_STAT_LINE y (i := p)
  let d := d.setPortR p { d.portR p with line := y, lineT := t }
  if d.mode.h ≤ y then d.laneWindow p y none
  else
    let d := if y = 0 then d.rejoined p t else d
    let emitting := d.panelState p == 7 && !d.heldOff p && d.rd SYNC.pg SYNC.WIN_LEN (i := d.slotNo) != 0
    if emitting && decide ((d.portR p).ready ≤ y) then d.underrun p y t
    else
      let q := d.takeLine p y
      let codes := if d.heldOff p then none else q.1
      (q.2.lostLine p y).laneWindow p y codes

/-- Header mismatches of a lane (R323, second test). -/
def Dev.hdrErr (d : Dev) (e : HdrErr) : Dev :=
  let p := e.port.val
  let lane := e.lane.val
  if d.tdlState p != 2 then d
  else (d.count (TDL.pg p) TDL.LANE_ERR_HDR_ERR e.errs (i := lane)).onlyIf (decide ((4 : Nat) ≤ e.worst)) (·.failLane p lane 2)

/-- The reference line after line l: none after the pass's last, whose end is an FLE (R214). -/
def nextLine (m : Mode) (l : Nat) : Option Nat :=
  if l + 1 = m.h + m.vb then some 0 else if l + 1 = m.h then none else some (l + 1)

/-- A reference line starts (R214, R218). -/
def Dev.refLine (d : Dev) (t : Nat) : Dev :=
  match nextLine d.mode (d.rd SCAN.pg SCAN.POS_LINE) with
  | none => d
  | some y =>
    let d := d.meter t
    let blank := decide (d.mode.h ≤ y)
    let d := (d.wr SCAN.pg SCAN.POS_LINE y).wr SCAN.pg SCAN.POS_BLANK (b2n blank)
    [0, 1].foldl (fun d p =>
      let st := d.portState p
      if st = 1 then d.followLine p y t
      else if st = 2 || st = 5 then d
      else (d.onlyIf (st == 4) (·.wr SCAN.pg SCAN.PORT_STAT_LINE y (i := p))).laneWindow p y none) (d.lineMatch y)

/-- A line of port p's own raster starts in a restart pass (R223): line 0 first; a line whose data has not arrived is sent
with drive code 0. -/
def Dev.restartLine (d : Dev) (p t : Nat) : Dev :=
  let r := d.portR p
  let y := if r.started then r.line + 1 else 0
  if d.portState p != 2 || decide (d.mode.h ≤ y) then d
  else
    let d := d.meter t
    let d := (d.wr SCAN.pg SCAN.PORT_STAT_LINE y (i := p)).setPortR p { d.portR p with started := true, line := y, lineT := t }
    let q := d.takeLine p y
    match q.1 with
    | some c => q.2.laneWindow p y (some c)
    | none => (q.2.dirty p [y]).laneWindow p y (some (List.replicate (3 * d.mode.w) 0))

/-- A line starts: of the reference raster, or of a port's own in its restart pass; hdr: header mismatches of the windows
that have ended. -/
def execLineStart (who : Option Port) (t : Nat) (hdr : List HdrErr) (s : State) : Out :=
  finish (fun d =>
    if !d.scan.run || d.scan.starting then d
    else
      let d := hdr.foldl (fun d e => d.hdrErr e) d
      match who with
      | none => d.refLine t
      | some p => d.restartLine p.val t) s

/-- The restart pass's last line has been sent: REJOIN (R223). -/
def execRestartPassEnd (p : Port) (s : State) : Out :=
  finish (fun d =>
    let r := d.portR p.val
    if d.portState p.val = 2 && r.started && r.line + 1 = d.mode.h then
      (d.setPortState p.val 3).setPortR p.val { r with since := r.lineT + d.mode.tLine.floor.toNat }
    else d) s

/-! ### The Calenders -/

/-- What the cells answer on words an engine reads (R110): the uncorrectable ones. -/
def Dev.eccWords (d : Dev) (ws : List Nat) (ecc : Ecc) : List Nat × Dev :=
  let d := d.eccMeet (fun x => ws.contains (x / 8)) ecc
  (ws.filter d.isBad, d)

/-- Port p takes up image k at line 0 (R16, R186, R188, R195, R208, R300): its records, in FULL mode unless AUX has lost them, in PARTIAL
mode only those that were complete by then, the plan with the curve; and whether the pass programmes every line. -/
def Dev.takeImage (d : Dev) (p k : Nat) : Dev :=
  let c := d.calSt p
  let cv := d.getCurve k
  let pl := d.getPlan k p
  let part := d.mode.part
  let newCurve := if part then !d.tone.late.contains k && bit (d.word TONE.pg (0x080 + 4 * k)).toNat 31 else (d.img k).curve
  let newPlan := if part then newCurve && bit pl.flags 0 else (d.img k).plan
  let curve := if newCurve then cv else c.curve
  let plan := if newPlan then pl else c.plan
  let lin := if newPlan then mget (fun _ => PlanExact.none) (d.img k).lin p else c.lin
  let changed := curve.t != c.curve.t || curve.target != c.curve.target || curve.stat != c.curve.stat || plan.g != c.plan.g || plan.b != c.plan.b
  let full := d.passFull p changed
  d.setCal p { c with
    curve := curve, plan := plan, lin := lin, img := k, prev := [], sent := []
    skip := { c.skip with full := full, force := false, passes := if full then 0 else c.skip.passes + 1 } }

/-- The maps a line reads and the pixels whose words read uncorrectable (R253, R254, R256). -/
def Dev.lineMaps (d : Dev) (p y : Nat) (ecc : Ecc) : LineIn × Dev :=
  let w := d.mode.w
  let one (d : Dev) (k : ItemKind) (r : Nat) : Nat × Dev :=
    if !d.mapUsed k then (0, d)
    else
      let q := d.eccWords (d.itemWords k (4 * y * w) (4 * w)) ecc
      let d := q.1.foldl (fun d x => d.ueLog r (8 * x) false) q.2
      (((d.mapBad k y w).filter id).length, d)
  let a := one d (.demura p) (Own.CAL_A + p)
  let b := one a.2 (.stress p) (Own.CAL_A + p)
  let n := a.1 + b.1
  let d := if n = 0 then b.2 else (b.2.count (CAL.pg p) CAL.UE_CNT_COUNT n).raise (CAL.pg p) 1
  (⟨d.mapLine (.demura p) y w, d.mapLine (.stress p) y w, (d.mapBad (.demura p) y w).zipWith or (d.mapBad (.stress p) y w)⟩, d)

/-- n free codes (log entry 3). -/
def Dev.freeCodes (d : Dev) : Nat → List Nat × Dev
  | 0 => ([], d)
  | n + 1 => let q := d.takeNat 65536; let r := q.2.freeCodes n; (q.1 :: r.1, r.2)

/-- The stress of line y of port p (R274-R279): c8 are the codes the line holds. -/
def Dev.lineStress (d : Dev) (p y : Nat) (sw : List (Option Nat)) (c8 : List Nat) : Dev :=
  let te := mget (fun _ => (0, 0, 0)) d.aging.te p
  if te == (0, 0, 0) || (d.item (.stress p)).isNone then d
  else
    let d := if y = 0 then d.count AGING.pg AGING.UPD_COUNT (i := p) else d
    let q := d.stressLine p y sw c8 te
    if q.1 = 0 then q.2
    else
      let d := q.2.count AGING.pg AGING.SAT_COUNT q.1 (i := p)
      if (d.calSt p).stressSat then d
      else (d.setCal p { d.calSt p with stressSat := true }).raise AGING.pg 1

/-- Port p's Calender ends line y (R249-R264, R208): from the pixels, or, when the line is substituted from none, with the
codes of the line before, or for line 0 with none (R396; what the panel then holds is free, log entry 3). `sub`: the line is
substituted; `restart`: in a restart pass, which updates no stress. -/
def Dev.portLine (d : Dev) (p y : Nat) (pxs : Option (List Nat)) (sub restart : Bool) (ecc : Ecc) : Dev :=
  let q := d.lineMaps p y ecc
  let li := q.1
  let d := q.2
  let c := d.calSt p
  let r : LineOut × Dev := match pxs with
    | some px => (d.lineCodes p y (d.line6 p c.img y li px), d)
    | none =>
      if y != 0 && c.sent != [] then (⟨c.prev, c.sent, false⟩, d)
      else let f := d.freeCodes (3 * d.mode.w); (⟨f.1, [], false⟩, f.2)
  let out := r.1
  let d := r.2
  let d := if out.clipped && !c.sat then ((d.setCal p { d.calSt p with sat := true }).count (CAL.pg p) CAL.SAT_CNT_COUNT).raise (CAL.pg p) 2 else d
  let d := if restart then d else d.lineStress p y li.stress out.c8
  let c := d.calSt p
  let prog := out.codes != [] && (restart || c.skip.full || c.skip.dirty.contains y)
  let dirty := c.skip.dirty.filter (· != y)
  let d := d.setCal p { c with
    prev := if prog then out.c8 else []
    sent := if prog then out.codes else []
    fifo := if prog then c.fifo ++ [(y, out.codes)] else c.fifo
    skip := { c.skip with dirty := if sub then dirty ++ [y] else if prog then dirty else c.skip.dirty } }
  if prog then d else d.setTdl p { d.tdlSt p with complete := false }

/-- The content-CRC tiles of the pixels that 64-bit word w of a line's bytes holds (R167, R179). -/
def wordTiles (w : Nat) : List Nat :=
  let a := 8 * w / 9 * 2 / 256
  let b := ((8 * w + 7) / 9 * 2 + 1) / 256
  if a = b then [a] else [a, b]

/-- An uncorrectable word in a scanned line (R395-R397, R401): UE_LOG, its record, the repair of its tiles. ns: the
interruption charged for the line. -/
def Dev.scanUe (d : Dev) (k y da ns : Nat) (cols : List Nat) : Dev :=
  let d := d.ueMark Own.SCAN da false
  let row := y / 256
  let known := d.repair.tiles.filter fun t => t.img == k && t.row == row && cols.contains t.col
  let recorded := known.any fun t => t.phase == 3 || t.recs.any fun e => e.2 == da
  let n := d.flt.wr
  let d := if recorded then d
    else d.fault { cls := 0x01, state := 1, detail := k, loc := da, line := y, slot := d.slotNo, ns := ns }
  let d := if known.any fun t => t.phase == 3 then d.countUnrepaired else d
  if recorded then d
  else cols.foldl (fun d c =>
    match d.repair.tiles.find? fun t => t.img == k && t.row == row && t.col == c with
    | some t => d.setTile t { t with recs := t.recs ++ [(n, da)] }
    | none => { d with repair := { d.repair with tiles := d.repair.tiles ++ [⟨k, c, row, [(n, da)], [], 0, false, 0⟩] } }) d

/-- Pixels of line y of image k. -/
def Dev.rowPx (d : Dev) (k y : Nat) : List Nat := (List.range d.mode.w).map fun x => d.imgPx k x y

/-- The buffer that may stand in for image k (R396): the slot's other one, COMPLETE. -/
def Dev.standIn (d : Dev) (k : Nat) : Option Nat :=
  if d.mode.part then none
  else let o := if k % 2 = 0 then k + 1 else k - 1
    if d.imgState o = 2 then some o else none

/-- Line y of image k is fetched once for ports ps, and each Calender ends it (R21, R249, R396). -/
def Dev.fetchLine (d : Dev) (ps : List Nat) (k y : Nat) (restart : Bool) (ecc : Ecc) : Dev :=
  let m := d.mode
  let kind := m.imgKind k
  let base := y * m.lineBytes
  let ws := d.itemWords kind base m.lineBytes
  let q := d.eccWords ws ecc
  let bad := q.1
  let d := q.2
  if bad.isEmpty then ps.foldl (fun d p => d.portLine p y (some (d.rowPx k y)) false restart ecc) d
  else
    let pxs := (d.standIn k).map fun o => d.rowPx o y
    let was := d.flt.lifeIntNs
    let d := ps.foldl (fun d p => (d.portLine p y pxs true restart ecc).onlyIf (!restart) (·.chargeIf p y)) d
    let ns := d.flt.lifeIntNs - was
    (ws.zipIdx.filter fun e => bad.contains e.1).foldl (fun d e => d.scanUe k y (8 * e.1) ns (wordTiles e.2)) d

/-- The Calenders complete the next line, if it is due: of the following ports from their shared fetch (R21), or of a port in its
restart pass, from the image it was showing (R223). Every following port takes the image up at line 0 (R17); one whose emission is
held off makes no line for the panel, which is programmed anew when it emits again; where it was cut short within the pass, the pass's stress
update goes on (R274). -/
def execLineFetchDone (restart : Option Port) (ecc : Ecc) (s : State) : Out :=
  finish (fun d =>
    if !d.scan.run || d.scan.starting then d
    else match restart with
      | some p =>
        let p := p.val
        let y := (d.portR p).ready
        let k := (d.calSt p).img
        let at_ := if (d.portR p).started then (d.portR p).line else 0
        if d.portState p != 2 || decide (d.mode.h ≤ y) || decide (8 ≤ k) || decide (at_ + 4 < y) then d
        else (d.fetchLine [p] k y true ecc).setPortR p { d.portR p with ready := y + 1 }
      | none =>
        match ([0, 1].filter fun p => d.portState p == 1) with
        | [] => d
        | p :: ps =>
          let y := (d.portR p).ready
          let k := d.scanImage
          if d.mode.h ≤ y || 8 ≤ k || !d.fetchDue y 0 then d
          else
            let all := p :: ps
            let d := if y = 0 then all.foldl (fun d p => d.takeImage p k) d else d
            let d := d.fetchLine (all.filter fun p => !d.heldOff p || mget (fun _ => (0, 0, 0)) d.aging.te p != (0, 0, 0)) k y false ecc
            all.foldl (fun d p =>
              let d := if d.heldOff p then d.forceRows p else d
              d.setPortR p { d.portR p with ready := y + 1 }) d) s

end Sys2Proof.Machine
end

