-- ==== Sys2Proof/Machine/Compose.lean ====
section
/-! DEFINITION. The running compose (R160-R162, R174, R177-R180): waiting
layers, the last line of a slot image. -/

namespace Sys2Proof.Machine

/-! ### Waiting layers (R160, R161) -/

/-- A layer of the running compose waits. -/
def Dev.anyWaiting (d : Dev) : Bool := !d.waiters.isEmpty

/-- COUCH.PG_STAT.STATE (R181). -/
def Dev.couchShow (d : Dev) : Dev :=
  d.wr COUCH.pg HDR.PG_STAT_STATE
    (match d.couch.pass with
     | some p => if p.img.isNone then 0 else if d.stalledOn.isEmpty then 1 else 2
     | none => 0)

/-- Layer m, waiting, is tested again: it joins when it is ready. Answers whether it still waits. -/
def Dev.retest (d : Dev) (v : Regs) (m : Nat) : Bool × Dev :=
  if d.layerReady v m then (false, (d.setLayer m { d.layer m with fence := none }).joinReady v m) else (true, d)

/-- A host fence of layer m is being read. -/
def Dev.fenceBusy (d : Dev) (m : Nat) : Bool :=
  d.host.reads.any (fun r => r.job == .fence m) || d.host.todo.any fun w => w.job == .fence m

/-- The Couch stalls on waiting layer m once it has composed the lines above it (R149, R161); how far it has come is free (log
entry 29). -/
def Dev.stallAt (d : Dev) (v : Regs) (m : Nat) : Dev :=
  if (d.layer m).stalled then d
  else
    let q := d.composeLine
    if firstLine v m ≤ q.1 || firstLine v m = 0 then
      ((q.2.setLayer m { q.2.layer m with stalled := true }).wr (MOULD.pg m) MOULD.USE_STAT_WAITED 1).count (MOULD.pg m) MOULD.COUNTS_WAITS
    else q.2

/-- Once per line time the waiting layers are tested again, and their host fences read again (R160, R161). -/
def execLayerWaitPoll (s : State) : Out :=
  finish (fun d =>
    match d.couch.pass with
    | none => d
    | some p =>
      ((List.range 12).foldl (fun d m =>
        let l := d.layer m
        if l.use != .waiting || decide ((2 : Nat) ≤ lf p.vals m MOULD.LAYER_CTL_POLICY) then d
        else
          let d := (d.setLayer m { l with waited := l.waited + 1 }).stallAt p.vals m
          let q := d.retest p.vals m
          if q.1 && !q.2.fenceBusy m then q.2.readFence p.vals m else q.2) d).couchShow) s

/-- WAIT_LINES line times have passed for a layer that is still not ready: its fallback (R161). -/
def execLayerWaitExpire (s : State) : Out :=
  finish (fun d =>
    match d.couch.pass with
    | none => d
    | some p =>
      ((List.range 12).foldl (fun d m =>
        let l := d.layer m
        if l.use != .waiting || decide ((2 : Nat) ≤ lf p.vals m MOULD.LAYER_CTL_POLICY) ||
            decide (l.waited < lf p.vals m MOULD.WAIT_LINES_LINES) then d
        else
          let q := (d.stallAt p.vals m).retest p.vals m
          if q.1 then (q.2.endJob (.fence m)).fallback p.vals m else q.2) d).couchShow) s

/-! ### The last line (R171) -/

/-- Layers of the image that are left out, each from which line on (R397). -/
def Dev.skipsOf (d : Dev) (v : Regs) (s : Nat) : List (Nat × Nat) :=
  (contrib v s).filterMap fun m =>
    let l := d.layer m
    match l.use with
    | .skipped => some (m, 0)
    | .held => l.failLine.map fun n => (m, n)
    | .fresh => if lf v m MOULD.LAYER_CTL_POLICY % 2 = 0 then l.failHeld.map fun n => (m, n) else l.failLine.map fun n => (m, n)
    | _ => none

/-- Image k of slot s is complete: its lines and statistics, COMPLETE, and what hangs on it; the pass goes on (R174, R187). -/
def Dev.imageDone (d : Dev) (p : Pass) (k : Nat) (c : Composed) : Dev :=
  let m := d.mode
  let v := p.vals
  let d := d.bankReads v c.met.errs c.ecc
  let rows := d.composeRect v p.slot 0 0 m.w m.h
  let d := (d.putImage k rows).putStats k rows
  let seq := d.couch.seq + 1
  let d := d.setImg k { d.img k with seq := seq, vals := v, skips := d.skipsOf v p.slot }
  let d := { (d.setImgState k 2).rebuilt k with couch := { ((d.setImgState k 2).rebuilt k).couch with seq := seq } }
  let us := d.takeRound (mkRat c.met.cycles 1000)
  let d := us.2.stat COUCH.pg COUCH.COMPOSE_TIME_US (satU 24 us.1.toNat)
  let d := d.composeEnd v p.slot c.met (m.w * m.h)
  let d := (d.startTone k p.slot v).raise COUCH.pg 0
  match d.couch.pass with
  | some p => d.nextSlot p (p.slot + 1) 5
  | none => d

/-- The last line of the slot image being composed is written; nothing waits, no layer read is outstanding, and no bank that it needs is
being verified (R121, R303). -/
def execImageComplete (c : Composed) (s : State) : Out :=
  finish (fun d =>
    match d.couch.pass with
    | none => d
    | some p =>
      match p.img with
      | none => d
      | some k =>
        if p.rect || d.anyWaiting || d.imgState k != 1 || d.layerReads || !d.cachesUp ||
            !d.itemUp .aux || !d.itemUp (d.mode.imgKind k) then d
        else d.imageDone p k c) s

end Sys2Proof.Machine
end

