-- ==== Sys2Proof/Machine/Commit.lean ====
section
/-! DEFINITION. Commits (R52-R58): the request and its copy, the check (R152, R191, R194, R213, R217, R229, R242, R245, R270,
R310, R314, R335, R336, R344, R350, and placement R133), acceptance, and the move to active without a raster. -/

namespace Sys2Proof.Machine

/-! ### The request (R53, R56) -/

/-- COMMIT.REQ on page pg (R53): the copy of the group's shadow values is taken; on a page outside the groups RESULT reads
IMMEDIATE (R56). One that arrives in the cycle of the REQ that started the check is absorbed by it (R58). -/
def execCommitReq (a : Acc) (pg : Fin 64) (s : State) : Out :=
  hostWrite (.commitReq a pg) a (fun d => d.guarded a pg.val 0x01C fun d =>
    match pageGroup pg.val with
    | none => d.wr pg.val HDR.COMMIT_STAT_RESULT 6
    | some grp =>
      let g := grp.num
      let x := d.grp g
      if x.check.isSome then (if a.same then d else d.err pg.val E.BUSY 0x01C a.who.code)
      else
        let copy := d.sh.filter fun e => (pageGroup (e.1 / 0x1000)).map Group.num == some g
        d.setGrp g { x with check := some ⟨pg.val, a.who.code, copy⟩, result := 1 }) s

/-! ### Port checks -/

def outside (x lo hi : Nat) : Bool := decide (x < lo ∨ hi < x)

/-- CAL_x: R194, R270. -/
def Dev.calBad (d : Dev) (v : Regs) (p : Nat) : List Bad :=
  let pg := CAL.pg p
  let f (x : Fld) := v.fld pg x
  let type := v.fld (PANEL.pg p) PANEL.PANEL_CFG_TYPE
  failIf (f CAL.CTL_DITHER == 3 || f CAL.CTL_BB_MODE == 3 || (f CAL.CTL_DEPTH12 == 0 && type == 2)) E.RANGE pg 0x040 ++
  failIf ((f CAL.CTL_OD_EN == 1 && type == 2) || (f CAL.CTL_AGE_EN == 1 && !d.on AGING.pg (portAging p))) E.STATE pg 0x040 ++
  failIf (outside (f CAL.DRIVE_FULL_NITS) 100 10000) E.RANGE pg 0x044 ++
  ((c3Bad v p).map fun o => ⟨E.RANGE, pg, o, 0⟩)

/-- TDL_x: R310, R314, R332, against the width that will be active. -/
def tdlBad (v : Regs) (p : Nat) : List Bad :=
  let pg := TDL.pg p
  let m := (modeOf v).getD Mode.base
  let rate := v.fld pg TDL.CTL_RATE
  let auto := v.fld pg TDL.CTL_SPAN_AUTO == 1
  failIf (rate == 3 || decide (12 < v.fld pg TDL.CTL_SWING)) E.RANGE pg 0x040 ++
  failIf (rate != 3 && spansOk v p m.w && !rateOk v m p rate) E.MODE_INVALID pg 0x040 ++
  failIf (auto && !spansOk v p m.w) E.RANGE pg 0x044 ++ failIf (!auto && !spansOk v p m.w) E.RANGE pg 0x200

/-- Offsets of sequence steps of port p that break R336, against port q's steps in the given values. -/
def seqBad (v : Regs) (p : Nat) (others : List Regs) : List Nat :=
  let f (v : Regs) (p : Nat) (x : Fld) (k : Nat) := v.fld (PANEL.pg p) x (i := k)
  let used (v : Regs) (p k : Nat) : Bool := f v p PANEL.SEQ_USE k == 1
  let waits (v : Regs) (p k : Nat) : Bool := used v p k && f v p PANEL.SEQ_PG_WAIT k == 1
  let q := 1 - p
  ((List.range 6).filter fun k =>
    decide (5 < f v p PANEL.SEQ_RAIL k) || f v p PANEL.SEQ_PG_TIMEOUT k == 0 ||
    (used v p k && (
      (decide (0 < k) && !used v p (k - 1)) ||
      (List.range 6).any (fun j => decide (j < k) && used v p j && f v p PANEL.SEQ_RAIL j == f v p PANEL.SEQ_RAIL k) ||
      others.any fun o => (List.range 6).any fun j => used o q j && f o q PANEL.SEQ_RAIL j == f v p PANEL.SEQ_RAIL k)) ||
    (waits v p k && (
      (List.range 6).any (fun j => decide (j < k) && waits v p j && f v p PANEL.SEQ_PG j == f v p PANEL.SEQ_PG k) ||
      others.any fun o => (List.range 6).any fun j => waits o q j && f o q PANEL.SEQ_PG j == f v p PANEL.SEQ_PG k))).map
    fun k => 0x080 + 4 * k

/-- Registers of PANEL_x that must not change while the panel is not OFF (R336). -/
def seqMoved (v w : Regs) (p : Nat) : List Nat :=
  (if v.fld (PANEL.pg p) PANEL.PANEL_CFG_TYPE != w.fld (PANEL.pg p) PANEL.PANEL_CFG_TYPE ||
      v.fld (PANEL.pg p) PANEL.PANEL_CFG_PREADY_USE != w.fld (PANEL.pg p) PANEL.PANEL_CFG_PREADY_USE then [0x048] else []) ++
  (((List.range 6).map (fun k => 0x080 + 4 * k) ++ (List.range 6).map (fun k => 0x0A0 + 4 * k)).filter fun o =>
    v.word (rkey (PANEL.pg p) o) != w.word (rkey (PANEL.pg p) o))

def syncLatch (v : Regs) (p : Nat) : Bool := v.fld SYNC.pg (if p = 0 then SYNC.SRC_CTL_LATCH_A else SYNC.SRC_CTL_LATCH_B) == 1

/-- PANEL_x: R213, R229, R335, R336, R344, R350. `act`: the values with only this group's copy laid over the active ones. -/
def Dev.panelBad (d : Dev) (v act : Regs) (p : Nat) : List Bad :=
  let pg := PANEL.pg p
  let f (x : Fld) := v.fld pg x
  let latch := syncLatch v p || syncLatch d.regs p
  let off := d.panelState p == 0
  let sr2 := d.rd SCAN.pg SCAN.SR_CTL_REQ == 2 && (sr2Bad v || sr2Bad act)
  failIf (f PANEL.PANEL_CFG_TYPE == 3 || f PANEL.PANEL_CFG_PREADY_TIMEOUT == 0 || f PANEL.PANEL_CFG_CLEAR_TIMEOUT == 0) E.RANGE pg 0x048 ++
  failIf ((latch && f PANEL.PANEL_CFG_LATCH_CAP == 0) || sr2) E.STATE pg 0x048 ++
  failIf (outside (f PANEL.MAX_SCAN_MPX) 1 12000) E.RANGE pg 0x04C ++
  failIf (!outside (f PANEL.MAX_SCAN_MPX) 1 12000 && ((viewPort v p && !modeOk v) || (viewPort act p && !modeOk act))) E.MODE_INVALID pg 0x04C ++
  failIf (outside (f PANEL.CTRL_TIMING_GCLK_MHZ) 25 200) E.RANGE pg 0x050 ++
  failIf (decide (250 < f PANEL.VNEG_SET_N)) E.RANGE pg 0x054 ++
  failIf (f PANEL.VNEG_SET_N != d.rd (PANEL.pg (1 - p)) PANEL.VNEG_SET_N && d.panelState (1 - p) != 0) E.STATE pg 0x054 ++
  ((seqBad v p [d.regs, v]).map fun o => ⟨E.RANGE, pg, o, 0⟩) ++
  (if off then [] else (seqMoved v d.regs p).map fun o => ⟨E.STATE, pg, o, 0⟩) ++
  failIf (f PANEL.CRK_CTL_POLICY == 3 || f PANEL.CRK_CTL_COUNT == 0) E.RANGE pg 0x0C0 ++
  failIf (decide (f PANEL.CRK_LIM_HI ≤ f PANEL.CRK_LIM_LO)) E.RANGE pg 0x0C4

/-! ### The check (R53) -/

/-- G_SCAN: the mode on each enabled port's lanes (R310, R314) and the latch declarations (R335) beside R213 to R245. -/
def Dev.scanGroupBad (d : Dev) (v : Regs) : List Bad :=
  let m := (modeOf v).getD Mode.base
  let ps := [0, 1].filter fun p => viewPort v p
  let span := ps.any fun p => v.fld (TDL.pg p) TDL.CTL_SPAN_AUTO == 0 && m.res != d.mode.res && !spansOk v p m.w
  let rate := (modeOf v).isSome && ps.any fun p =>
    (v.fld (TDL.pg p) TDL.CTL_SPAN_AUTO == 1 || spansOk v p m.w) && !rateOk v m p (v.fld (TDL.pg p) TDL.CTL_RATE)
  let latch := [0, 1].any fun p => syncLatch v p && v.fld (PANEL.pg p) PANEL.PANEL_CFG_LATCH_CAP == 0
  failIf ((modeOf v).isSome && span) E.RANGE SCAN.pg 0x040 ++ failIf (rate && modeOk v) E.MODE_INVALID SCAN.pg 0x040 ++
    d.scanBad v ++ failIf latch E.STATE SYNC.pg 0x040

/-- Failures of group g's copy, the first of them the one recorded; placement comes after the others. -/
def Dev.groupBad (d : Dev) (g : Nat) (c : Check) : List Bad :=
  let v := d.viewWith g c.copy
  if g = 0 then d.layersBad v ++ (toneBad v).map fun e => ⟨E.RANGE, e.1, e.2, 0⟩
  else if g = 1 then d.scanGroupBad v
  else
    let p := g - 2
    d.rasterBad v [p] ++ d.calBad v p ++ tdlBad v p ++ d.panelBad v (captureView g d.regs c.copy) p

/-- Ascending page and offset, as the failures are searched for. -/
def firstBad : List Bad → Option Bad
  | [] => none
  | b :: l => match firstBad l with
    | some c => if c.pg * 4096 + c.off < b.pg * 4096 + b.off then some c else some b
    | none => some b

/-- The check fails (R53): REJECTED, the code on the page of the REQ write; a raster that may not start raises
EV_SCAN_REFUSED, a shortage of banks EV_PLACE_REJECT. -/
def Dev.reject (d : Dev) (g : Nat) (c : Check) (b : Bad) (refused : Bool) : Dev :=
  let d := d.setGrp g { d.grp g with check := none, result := 4 }
  let d := d.errAt c.pg b.code b.pg b.off c.who b.detail
  let d := d.onlyIf refused (·.raise SCAN.pg 5)
  d.onlyIf (b.code == E.NO_PLACE || b.code == E.LB_OVERFLOW) (·.raise REEVE.pg 0)

/-- No raster runs, and SR2 does not hold the panels (R55). -/
def Dev.noRaster (d : Dev) : Bool := !d.scan.run && d.srState != 2 && !d.scan.exiting

/-- An accepted commit moves to active without an FLE: with no raster (R55), and of a dark port outside SR2 (R194, R361). -/
def Dev.atOnce (d : Dev) (g : Nat) : Bool :=
  d.noRaster || (decide (2 ≤ g) && d.isDark (g - 2) && d.srState != 2 && !d.scan.exiting)

/-- The check passes (R53, R54, R55). -/
def Dev.accept (d : Dev) (g : Nat) (c : Check) : Dev :=
  let x := d.grp g
  let raster := !d.atOnce g
  let target := (if raster then d.frameNo + 1 else d.frameNo) % 2 ^ 24
  let d := { d with reeve := { d.reeve with mapsNext := d.mapsNow } }
  (d.setGrp g { check := none, pend := some ⟨c.copy, target, raster, d.mapsNow⟩, result := 2, target := target, replaced := x.pend.isSome }).srCommit g

/-- The check of group g ends; NEED shows what the checked configuration needs, accepted or not (R132, R143). -/
def Dev.checkDone (d : Dev) (g : Nat) : Dev :=
  match (d.grp g).check with
  | none => d
  | some c =>
    let v := d.viewWith g c.copy
    let q := d.placeCheck v
    match firstBad (d.groupBad g c) with
    | some b => ((if (modeOf v).isSome then q.2 else d).reject g c b
        ((d.rasterBad v (if g = 1 then [0, 1] else [g - 2])).any fun r => r == b && g != 0)).claimChecked
    | none =>
      if q.1 = 0 then (q.2.accept g c).claimChecked
      else (q.2.reject g c ⟨E.NO_PLACE, c.pg, 0x01C, min 255 q.1⟩ false).claimChecked

def execCommitCheckDone (g : Fin 4) (s : State) : Out := finish (fun d => d.checkDone g.val) s

/-! ### Without a raster (R55) -/

/-- With no raster running, RUN 1 lets the reference start with the next frame FLE (R219). -/
def Dev.startRaster (d : Dev) : Dev :=
  if d.noRaster && d.runOn then
    (({ d with scan := { d.scan with run := true, starting := true, d3Vote := true, portVote := true } } : Dev).moot).showScan
  else d

/-- Values of a G_SCAN capture that moves to active while no raster runs. -/
def Dev.scanIdle (d : Dev) : Dev :=
  d.modeShown.lockIdle.startRaster

/-- A G_PORT_x capture of a dark port moves to active while the raster runs (R194): a lane rate that changed is a non-seamless
change from that cycle on, which ends a restart in this frame (R224), and the placement is run. -/
def Dev.applyDark (d : Dev) (p : Nat) : Dev :=
  let old := d.regs
  let rate := d.rateUsed p
  let d := (((d.applyGroup (p + 2)).toneEcon).letGo).portCaptured old p
  let d := if d.rateUsed p = rate then d
    else if !d.portOn p then d
    else
      let cut := d.portState p == 2 || d.portState p == 3
      (d.onlyIf cut (·.count SCAN.pg SCAN.ABORTED_COUNT (i := p))).relane p
  d.placeLive.showScan.holdEmit

/-- An accepted commit moves to active without an FLE (R55, R194). -/
def Dev.applyIdle (d : Dev) (g : Nat) : Dev :=
  match (d.grp g).pend with
  | none => d
  | some c =>
    if c.byRaster then d
    else if 2 ≤ g && d.scan.run && !d.scan.starting then d.applyDark (g - 2)
    else
      let b := d.before
      let old := d.regs
      let nm := (modeOf (captureView g d.regs c.copy)).getD Mode.base
      let d := if newShape b.mode nm then d.leaveShape
        else if !b.mode.part && nm.part then d.toPartial nm.s
        else if b.mode.part && !nm.part then d.endCopies.toFull nm.s else d
      let d := ((d.applyGroup g).toneEcon).letGo
      let d := if 2 ≤ g then d.portCaptured old (g - 2) else d
      let d := if g = 1 then d.scanIdle else d
      (d.returnMoulds.rebind.placeLive).holdEmit

def execCommitApplyNoRaster (g : Fin 4) (s : State) : Out := finish (fun d => d.applyIdle g.val) s

end Sys2Proof.Machine
end

