-- ==== Sys2Proof/Machine/Link.lean ====
section
/-! DEFINITION. What arrives on the driver link (R318, R319, R321, R322, R327): response slots and the end of training. -/

namespace Sys2Proof.Machine

/-- The group whose STATUS the next free slot polls (R318): from the cursor up, round the enabled groups. -/
def Dev.pollGroup (d : Dev) (p : Nat) : Option Nat :=
  let gs := groupsOn d.regs p
  match gs.find? fun g => decide ((d.tdlSt p).poll ≤ g) with
  | some g => some g
  | none => gs.head?

/-- A valid RSP has come: the back channel stands (R327). -/
def Dev.rspSeen (d : Dev) (p : Nat) : Dev := d.setTdl p { d.tdlSt p with silent := 0, bcLost := false }

/-- What a poll's slot brought (R318, R327). While training, and for a CODE other than OK, no STATUS is taken; of the sources
of R323 nothing counts then, and in the round that ends INIT a CODE other than OK fails the power-on (R337). -/
def Dev.pollSlot (d : Dev) (p g : Nat) (r : RspIn) : Dev :=
  match r with
  | .ok code d0 d1 =>
    let d := d.rspSeen p
    if code = 0 then
      if d.tdlState p = 1 then d else (d.statusIn p g d0 d1).panelStatus p g
    else
      let d := (d.pollBroken p g).onlyIf (decide (code < 3)) (·.drvViolation p g 6)
      if (d.panelSt p).wait = .status then d.powerFail p E.STATE else d
  | .corrupt => (d.drvViolation p g 1).pollMissed p g
  | .wrong => (d.drvViolation p g 2).pollMissed p g
  | .outside => (d.drvViolation p g 3).pollMissed p g
  | .silent => d.pollMissed p g

/-- A response is missing or invalid: asked for again in a later slot, three times in all (R319). -/
def Dev.cmdMissed (d : Dev) (p : Nat) (c : TdlCmd) : Dev :=
  let x := d.tdlSt p
  d.setTdl p { x with silent := x.silent + 1, cmd := some { c with ask := decide (c.asked < 3), rspAt := none } }

/-- The response of the command in progress (R319, R337): DATA0 and DATA1, RESULT by its CODE; RESULT for BUSY is a free value
(log entry 3). A STATUS's CRC failures count. -/
def Dev.cmdAnswer (d : Dev) (p : Nat) (c : TdlCmd) (code d0 d1 : Nat) : Dev :=
  let pg := TDL.pg p
  let d := (d.rspSeen p).putWord pg 0x068 (BitVec.ofNat 32 d0)
  let d := d.putWord pg 0x06C (BitVec.ofNat 32 d1)
  let d := if c.op = 2 && code = 0 && decide (c.grp < 12) then
      (d.count pg TDL.LANE_ERR_DRV_CRC (d1 % 2 ^ 16) (i := 2 * c.grp)).count pg TDL.LANE_ERR_DRV_CRC (d1 / 2 ^ 16 % 2 ^ 16) (i := 2 * c.grp + 1)
    else d
  let d := if code = 1 || code = 2 then d.drvViolation p c.grp 6 else d
  let q := if code = 3 then d.takeNat 4 else (if code = 0 then 0 else 3, d)
  let d := q.2.tdlCmdEnd p q.1 code c.op
  if c.src = 0 then d else d.initAnswer p (c.src - 1) (code = 0)

/-- What the slot of the command in progress brought (R318, R319, R327). -/
def Dev.cmdSlot (d : Dev) (p : Nat) (c : TdlCmd) (r : RspIn) : Dev :=
  match r with
  | .ok code d0 d1 => d.cmdAnswer p c (code % 16) d0 d1
  | .corrupt => (d.drvViolation p c.grp 1).cmdMissed p c
  | .wrong => (d.drvViolation p c.grp 2).cmdMissed p c
  | .outside => (d.drvViolation p c.grp 3).cmdMissed p c
  | .silent => d.cmdMissed p c

/-- The command whose response the slot of line y holds (R318). -/
def Dev.slotCmd (d : Dev) (p y : Nat) : Option TdlCmd := if d.tdlState p = 2 then (d.tdlSt p).cmd.filter (·.rspAt == some y) else none

/-- The response slot of line y of port p (R318): that of the command whose RSP_LINE it is, or else a poll's. Slots recur while the link
trains, runs or holds. -/
def Dev.rspReceived (d : Dev) (p y : Nat) (r : RspIn) : Dev :=
  if d.tdlState p != 1 && d.tdlState p != 2 && d.tdlState p != 3 then d
  else
    match d.slotCmd p y with
    | some c => d.cmdSlot p c r
    | none =>
      match d.pollGroup p with
      | some g => (d.setTdl p { d.tdlSt p with poll := (g + 1) % 12 }).pollSlot p g r
      | none => d

def execRspReceived (p : Port) (line : Nat) (r : RspIn) (s : State) : Out :=
  finish (fun d => d.rspReceived p.val line r) s

/-- Three asks brought nothing (R319): TIMEOUT; an INIT entry's fails the power-on with E_TIMEOUT (R337). -/
def execRspTimeout (p : Port) (s : State) : Out :=
  finish (fun d =>
    match (d.tdlSt p.val).cmd with
    | some c =>
      if c.rsp && c.asked = 3 && !c.ask then
        let d := d.tdlCmdEnd p.val 1 0 c.op
        if c.src != 0 && d.panelState p.val = 5 then d.powerFail p.val E.TIMEOUT else d
      else d
    | none => d) s

/-- Training ends (R321, R322): not while the back channel is lost (R327). A short form that fails goes on as the full form
(R321); a full form that fails on a HELD port refuses the exit (R231), one that completes is followed by the RESUME (R331). -/
def Dev.tdlTrainDone (d : Dev) (p : Nat) (t : TrainIn) : Dev :=
  let x := d.tdlSt p
  if x.train = 0 || x.bcLost then d
  else
    let q := d.trainEnd p t
    if x.train = 2 && !q.1 then d.startTrain p 1
    else
      let d := q.2
      let code := d.rd (TDL.pg p) TDL.TRAIN_STAT_CODE
      let held := x.train != 3 && d.portState p == 5
      let d := if !held then d else if q.1 then d.setTdl p { d.tdlSt p with cast := some resumeCmd } else d.raise SCAN.pg 5
      if x.train = 3 then d else d.panelTrained p q.1 code

def execTdlTrainDone (p : Port) (failed : Nat) (ident : List (Option Nat)) (eyes : List (List Nat)) (us phase : Nat) (s : State) : Out :=
  finish (fun d => d.tdlTrainDone p.val ⟨failed, ident, eyes, us, phase⟩) s

end Sys2Proof.Machine
end

