-- ==== Sys2Proof/Machine/Crypto.lean ====
section
/-! DEFINITION. SHA3-512 and SHAKE (FIPS 202) and the ML-DSA-87 signature check (FIPS 204), which R3 and R407-R409 name by their
standards. PRESUMED: the algorithms are the standards', not the spec's text (log entry 4). -/

namespace Sys2Proof.Machine

/-! ### Keccak-f[1600] (FIPS 202) -/

abbrev Lane := BitVec 64

/-- Rotation offsets of lane x + 5y. -/
def keccakRot : List Nat :=
  [0, 1, 62, 28, 27, 36, 44, 6, 55, 20, 3, 10, 43, 25, 39, 41, 45, 15, 21, 8, 18, 2, 61, 56, 14]

def keccakRc : List Lane :=
  [0x0000000000000001, 0x0000000000008082, 0x800000000000808A, 0x8000000080008000, 0x000000000000808B, 0x0000000080000001] ++
  [0x8000000080008081, 0x8000000000008009, 0x000000000000008A, 0x0000000000000088, 0x0000000080008009, 0x000000008000000A] ++
  [0x000000008000808B, 0x800000000000008B, 0x8000000000008089, 0x8000000000008003, 0x8000000000008002, 0x8000000000000080] ++
  [0x000000000000800A, 0x800000008000000A, 0x8000000080008081, 0x8000000000008080, 0x0000000080000001, 0x8000000080008008]

/-- One round on the 25 lanes, lane (x, y) at x + 5y. -/
def keccakRound (a : List Lane) (rc : Lane) : List Lane :=
  let c := (List.range 5).map fun x => (List.range 5).foldl (fun v y => v ^^^ a.getD (x + 5 * y) 0) (0 : Lane)
  let dx := (List.range 5).map fun x => c.getD ((x + 4) % 5) 0 ^^^ (c.getD ((x + 1) % 5) 0).rotateLeft 1
  let t := (List.range 25).map fun i => a.getD i 0 ^^^ dx.getD (i % 5) 0
  let b := (List.range 25).map fun i =>
    let j := (i % 5 + 3 * (i / 5)) % 5 + 5 * (i % 5)
    (t.getD j 0).rotateLeft (keccakRot.getD j 0)
  (List.range 25).map fun i =>
    let x := i % 5
    let y := 5 * (i / 5)
    let v := b.getD i 0 ^^^ (~~~(b.getD ((x + 1) % 5 + y) 0) &&& b.getD ((x + 2) % 5 + y) 0)
    if i = 0 then v ^^^ rc else v

def keccak (a : List Lane) : List Lane := keccakRc.foldl keccakRound a

/-- The sponge's state after the message and its padding: rate in bytes, the domain byte of the standard. -/
def absorb (rate : Nat) (suffix : Nat) (m : List Byte) : List Lane :=
  let n := m.length / rate + 1
  let fill := n * rate - m.length
  let pad : List Byte := if fill = 1 then [BitVec.ofNat 8 (suffix + 128)]
    else BitVec.ofNat 8 suffix :: List.replicate (fill - 2) 0 ++ [128]
  let x := m ++ pad
  (List.range n).foldl (fun s i =>
    let blk := (x.drop (i * rate)).take rate
    keccak ((List.range 25).map fun j => s.getD j 0 ^^^ BitVec.ofNat 64 (ofLeBytes ((blk.drop (8 * j)).take 8)))) (List.replicate 25 0)

def laneBytes (l : List Lane) : List Byte := l.flatMap fun x => (List.range 8).map fun i => BitVec.ofNat 8 (x.toNat / 256 ^ i)

/-- The first n bytes the sponge gives. -/
def squeeze (rate n : Nat) (s : List Lane) : List Byte :=
  let r := (List.range (n / rate + 1)).foldl (fun (q : List Byte × List Lane) _ =>
    (q.1 ++ (laneBytes q.2).take rate, keccak q.2)) ([], s)
  r.1.take n

def sha3_512 (m : List Byte) : List Byte := squeeze 72 64 (absorb 72 0x06 m)
def shake128 (m : List Byte) (n : Nat) : List Byte := squeeze 168 n (absorb 168 0x1F m)
def shake256 (m : List Byte) (n : Nat) : List Byte := squeeze 136 n (absorb 136 0x1F m)

/-! ### ML-DSA-87 (FIPS 204): q = 8380417, d = 13, (k, l) = (8, 7), gamma1 = 2^19, gamma2 = 261888, tau = 60, omega = 75, beta = 120 -/

abbrev dsaQ : Nat := 8380417
abbrev dsaG2 : Nat := 261888

/-- n unsigned fields of w bits, least significant first. -/
def unpackBits (w n : Nat) (l : List Byte) : List Nat :=
  let x := ofLeBytes l
  (List.range n).map fun i => x / 2 ^ (w * i) % 2 ^ w

/-- The 8 bits of m in reverse order. -/
def brv8 (m : Nat) : Nat := (List.range 8).foldl (fun r i => r * 2 + m / 2 ^ i % 2) 0

def powMod (b : Nat) : Nat → Nat
  | 0 => 1
  | n + 1 => powMod b n * b % dsaQ

/-- zeta^brv(m), zeta = 1753. -/
def dsaZeta (m : Nat) : Nat := powMod 1753 (brv8 m)

def zipMod (f : Nat → Nat → Nat) (a b : List Nat) : List Nat := (a.zip b).map fun e => f e.1 e.2 % dsaQ

/-- The number-theoretic transform of 2^n coefficients whose first butterfly has zeta m. -/
def dsaNtt (m : Nat) : Nat → List Nat → List Nat
  | 0, l => l
  | n + 1, l =>
    let z := dsaZeta m
    let lo := l.take (2 ^ n)
    let hi := (l.drop (2 ^ n)).map fun x => z * x % dsaQ
    dsaNtt (2 * m) n (zipMod (· + ·) lo hi) ++ dsaNtt (2 * m + 1) n (zipMod (fun a b => a + (dsaQ - b)) lo hi)

/-- Its inverse, but for the factor 1 / 2^n. -/
def dsaInv (m : Nat) : Nat → List Nat → List Nat
  | 0, l => l
  | n + 1, l =>
    let z := powMod 1753 (512 - brv8 m)
    let lo := dsaInv (2 * m) n (l.take (2 ^ n))
    let hi := dsaInv (2 * m + 1) n (l.drop (2 ^ n))
    zipMod (· + ·) lo hi ++ (zipMod (fun a b => a + (dsaQ - b)) lo hi).map fun x => z * x % dsaQ

def polyNtt (l : List Nat) : List Nat := dsaNtt 1 8 l

/-- 8347681 is 1 / 256. -/
def polyInv (l : List Nat) : List Nat := (dsaInv 1 8 l).map fun x => 8347681 * x % dsaQ

/-- Triples of bytes below q, 256 of them (RejNTTPoly). The stream is cut at 6 blocks, which do not serve with a probability below
2^-256. -/
def rejPoly (seed : List Byte) : List Nat :=
  let s := shake128 seed 1008
  let t := (List.range 336).map fun i =>
    (s.getD (3 * i) 0).toNat + (s.getD (3 * i + 1) 0).toNat * 2 ^ 8 + (s.getD (3 * i + 2) 0).toNat % 128 * 2 ^ 16
  (t.filter fun x => decide (x < dsaQ)).take 256

/-- The challenge polynomial (SampleInBall): sign bits, then per place one byte not above it. The stream is cut at 5 blocks. -/
def inBall (seed : List Byte) : List Nat :=
  let s := shake256 seed 680
  let signs := ofLeBytes (s.take 8)
  let step (q : List Nat × List Byte) (i : Nat) : List Nat × List Byte :=
    let r := q.2.dropWhile fun b => decide (i < b.toNat)
    let j := (r.headD 0).toNat
    let c := (q.1.set i (q.1.getD j 0)).set j (if bit signs (i - 196) then dsaQ - 1 else 1)
    (c, r.drop 1)
  ((List.range 60).foldl (fun q i => step q (196 + i)) (List.replicate 256 0, s.drop 8)).1

/-- The hint vector (HintBitUnpack) as the places of each of the 8 polynomials; none: malformed. -/
def unpackHint (y : List Byte) : Option (List (List Nat)) :=
  let at_ (i : Nat) : Nat := (y.getD i 0).toNat
  let ends := (List.range 8).map fun i => at_ (75 + i)
  let firsts := 0 :: ends.take 7
  let spans := firsts.zip ends
  let okSpan (e : Nat × Nat) : Bool := decide (e.1 ≤ e.2 ∧ e.2 ≤ 75) &&
    (List.range (e.2 - e.1 - 1)).all fun i => decide (at_ (e.1 + i) < at_ (e.1 + i + 1))
  let rest := (List.range (75 - ends.getD 7 0)).all fun i => at_ (ends.getD 7 0 + i) == 0
  if spans.all okSpan && rest then some (spans.map fun e => (List.range (e.2 - e.1)).map fun i => at_ (e.1 + i)) else none

/-- UseHint: the high part of r, corrected by the hint. -/
def useHint (h : Bool) (r : Nat) : Nat :=
  let m := r % (2 * dsaG2)
  let neg := decide (dsaG2 < m)
  let low : Int := if neg then (m : Int) - 2 * dsaG2 else m
  let top := (r : Int) - low
  let r1 : Nat := if top = dsaQ - 1 then 0 else (top / (2 * dsaG2 : Nat)).toNat
  let r0 : Int := if top = dsaQ - 1 then low - 1 else low
  if !h then r1 else if 0 < r0 then (r1 + 1) % 16 else (r1 + 15) % 16

/-- Pure ML-DSA-87 verification of message m with an empty context string (R408). -/
def mlDsaVerify (pk m sig : List Byte) : Bool :=
  let rho := pk.take 32
  let t1 := (List.range 8).map fun i => unpackBits 10 256 ((pk.drop (32 + 320 * i)).take 320)
  let ct := sig.take 64
  let zs : List (List Int) := (List.range 7).map fun i =>
    (unpackBits 20 256 ((sig.drop (64 + 640 * i)).take 640)).map fun (v : Nat) => (2 ^ 19 : Int) - v
  let short := zs.all fun p => p.all fun z => decide (z.natAbs < 2 ^ 19 - 120)
  match unpackHint (sig.drop 4544) with
  | none => false
  | some h =>
    let mu := shake256 (shake256 pk 64 ++ [0, 0] ++ m) 64
    let c := polyNtt (inBall ct)
    let zh := zs.map fun p => polyNtt (p.map fun (z : Int) => (z % (dsaQ : Int)).toNat)
    let w1 := (List.range 8).map fun r =>
      let az := (List.range 7).foldl (fun acc s =>
        zipMod (· + ·) acc (zipMod (· * ·) (rejPoly (rho ++ [BitVec.ofNat 8 s, BitVec.ofNat 8 r])) (zh.getD s []))) (List.replicate 256 0)
      let ctt := zipMod (· * ·) c (polyNtt ((t1.getD r []).map fun x => x * 8192 % dsaQ))
      let w := polyInv (zipMod (fun a b => a + (dsaQ - b)) az ctt)
      w.zipIdx.map fun e => useHint ((h.getD r []).contains e.2) e.1
    let enc := w1.flatMap fun p => (List.range 128).map fun i => BitVec.ofNat 8 (p.getD (2 * i) 0 + 16 * p.getD (2 * i + 1) 0)
    decide (pk.length = 2592) && decide (sig.length = 4627) && short && shake256 (mu ++ enc) 64 == ct

end Sys2Proof.Machine
end

