-- ==== Sys2Proof/Machine/Mgmt.lean ====
section
/-! DEFINITION. The management controller (23_firmware_security): images and their checks (R407, R408), keys and the
rollback counter (R409, R410), boot selection (R411), the mailbox (R412-R414, R416), and the watchdog (R400). -/

namespace Sys2Proof.Machine

/-! ### Images (R407, R408) -/

def Dev.imgField (d : Dev) (slot off w : Nat) : Nat := d.nvNat (fwBase slot + off) w
def Dev.bodyLen (d : Dev) (slot : Nat) : Nat := d.imgField slot 0x018 4
def Dev.imgVersion (d : Dev) (slot : Nat) : Nat := d.imgField slot 0x010 4
def Dev.imgRollback (d : Dev) (slot : Nat) : Nat := d.imgField slot 0x014 4

/-- H, the image digest. -/
def Dev.imgDigest (d : Dev) (slot : Nat) : List Byte := sha3_512 (d.nvBytes (fwBase slot) 256)

/-- Step 1: MAGIC, FORMAT, TARGET, REV_MAJOR; BODY_LEN and ENTRY in range. -/
def Dev.headerOk (d : Dev) (slot : Nat) : Bool :=
  d.imgField slot 0 4 == 0x464C5052 && d.imgField slot 4 4 == 1 && d.imgField slot 8 4 == 0x1F5C8640 &&
    d.imgField slot 0xC 2 == 2 && decide (1 ≤ d.bodyLen slot ∧ d.bodyLen slot ≤ 4182016) &&
    decide (d.imgField slot 0x01C 4 < d.bodyLen slot)

/-- Step 2. -/
def Dev.bodyOk (d : Dev) (slot : Nat) : Bool :=
  d.nvBytes (fwBase slot + 0x040) 64 == sha3_512 (d.nvBytes (fwBase slot + 0x3000) (d.bodyLen slot))

/-- Step 3; the stored vendor key is checked against the fuses before each use. -/
def Dev.vendorOk (d : Dev) (slot : Nat) : Bool :=
  let key := d.nvBytes Config.vendorKeyGa 2592
  sha3_512 key == Config.vendorFuse && mlDsaVerify key (d.imgDigest slot) (d.nvBytes (fwBase slot + 0x100) 4627)

/-- The enrolled owner key (R409). -/
def Dev.ownerKey (d : Dev) : Option (List Byte) := d.twinPayload ownerKeyGa 11

/-- Step 4 under a given owner key. -/
def Dev.ownerOk (d : Dev) (slot : Nat) (key : List Byte) : Bool :=
  bit (d.imgField slot 0xE 2) 0 && mlDsaVerify key (d.imgDigest slot) (d.nvBytes (fwBase slot + 0x1400) 4627)

/-- Step 6: a group read for the check is uncorrectable. DEDUCED: the image's and the vendor key's; the records and rings read with
them have their own rules for such a group (R374, R375; log entry 61). -/
def Dev.imgBad (d : Dev) (slot : Nat) : Bool :=
  d.nvAnyBad Config.vendorKeyGa 2592 || d.nvAnyBad (fwBase slot) 0x3000 || (d.headerOk slot && d.nvAnyBad (fwBase slot + 0x3000) (d.bodyLen slot))

/-- Steps 1 to 4 and 6, or 0: the first that fails. -/
def Dev.stepNoRollback (d : Dev) (slot : Nat) : Nat :=
  if !d.headerOk slot then 1 else if !d.bodyOk slot then 2 else if !d.vendorOk slot then 3
  else if (match d.ownerKey with | some k => !d.ownerOk slot k | none => false) then 4
  else if d.imgBad slot then 6 else 0

/-- The failing step of R408, 0 when the slot is valid. -/
def Dev.slotStep (d : Dev) (slot : Nat) : Nat :=
  let n := d.stepNoRollback slot
  if (n = 0 || n = 6) && d.imgRollback slot < d.rd MGMT.pg MGMT.ROLLBACK_COUNT then 5 else n

def Dev.mbErr (d : Dev) (code func : Nat) : Dev := d.err MGMT.pg code 0x040 func

/-- Check a slot: EV_AUTH_FAIL and E_AUTH at steps 3 and 4; the VALID bit and VERSION of the slot. Answers the step. -/
def Dev.checkSlot (d : Dev) (slot : Nat) : Nat × Dev :=
  let n := d.slotStep slot
  let d := if n = 3 || n = 4 then (d.mbErr E.AUTH 15).raise MGMT.pg 3 else d
  let d := d.wr MGMT.pg (if slot = 0 then MGMT.FW_STAT_A_VALID else MGMT.FW_STAT_B_VALID) (b2n (n == 0))
  (n, d.wr MGMT.pg MGMT.FW_VER (if n = 0 then d.imgVersion slot else 0) (i := slot))

/-- The image's groups are read for a check (R408): the header, and the body it names. -/
def Dev.readSlot (d : Dev) (slot : Nat) (ecc : Ecc) : Dev :=
  let d := (d.nvRead (fwBase slot) 0x3000 ecc).2
  if d.headerOk slot then (d.nvRead (fwBase slot + 0x3000) (d.bodyLen slot) ecc).2 else d

/-- The keys a check needs are read. -/
def Dev.readKeys (d : Dev) : Dev := (d.nvScan Config.vendorKeyGa 2592).nvScan ownerKeyGa 0x1600

/-- A slot's check with what no command reports of its reads (log entry 3). -/
def Dev.scanSlot (d : Dev) (slot : Nat) : Dev := let q := d.takeEcc; ((q.2.readSlot slot q.1).checkSlot slot).2

def Dev.checkBoth (d : Dev) : Dev := (d.readKeys.scanSlot 0).scanSlot 1

/-! ### Boot (R410, R411) -/

/-- The boot selection record: ACTIVE, TRIAL, PREV. -/
def Dev.bootRec (d : Dev) : Nat × Nat × Nat :=
  match d.twinPayload bootRecGa 1 with
  | some p => ((p.getD 0 0).toNat % 2, (p.getD 1 0).toNat % 2, (p.getD 2 0).toNat % 2)
  | none => (0, 0, 0)

def bootPayload (active trial prev : Nat) : List Byte := [BitVec.ofNat 8 active, BitVec.ofNat 8 trial, BitVec.ofNat 8 prev, 0, 0, 0, 0, 0]

/-- Write the boot record by page programs of writer `who`. -/
def Dev.writeBootRec (d : Dev) (who active trial prev : Nat) : Dev :=
  match d.twinWrite bootRecGa 1 (bootPayload active trial prev) with
  | some pages => d.addWriter who 7 pages
  | none => d

/-- The rollback counter at a boot: read from its ring, or rebuilt when the ring is torn (R410). -/
def Dev.bootCounter (d : Dev) : Dev :=
  let q := (d.nvScan rollbackGa 1024).ctrRead rollbackGa
  match q.1 with
  | .torn =>
    let of (s : Nat) : Nat := if q.2.stepNoRollback s = 0 then q.2.imgRollback s else 0
    let v := max (of 0) (of 1)
    let d := ((q.2.addWriter 6 7 (ctrSlot rollbackGa 0 1 v)).wr MGMT.pg MGMT.ROLLBACK_COUNT v).wr MGMT.pg MGMT.FW_STAT_RB_REBUILT 1
    d.mbErr E.NV_TORN 15
  | r => (q.2.wr MGMT.pg MGMT.ROLLBACK_COUNT r.value).wr MGMT.pg MGMT.FW_STAT_RB_REBUILT 0

def Dev.slotValid (d : Dev) (s : Nat) : Bool := d.on MGMT.pg (if s = 0 then MGMT.FW_STAT_A_VALID else MGMT.FW_STAT_B_VALID)

/-- The slot R411 starts, none when no slot is valid; running: the slot that ran before a watchdog restart. -/
def Dev.bootPick (d : Dev) (running : Option Nat) : Option Nat :=
  let r := d.bootRec
  let first := if r.2.1 = 1 then r.2.2 else match running with | some k => 1 - k | none => r.1
  if d.slotValid first then some first else if d.slotValid (1 - first) then some (1 - first) else none

/-- What a boot shows beside the selection: the owner key, the serial, the lifetime counters (R404, R415). -/
def Dev.bootShow (d : Dev) : Dev :=
  let d := (d.wr MGMT.pg MGMT.FW_STAT_OWNER (b2n d.ownerKey.isSome)).nvScan Config.serialGa 16
  let d := (List.range 4).foldl (fun d i => d.wr MGMT.pg MGMT.SERIAL (d.nvNat (Config.serialGa + 4 * i) 4) (i := i)) d
  let a := ((d.nvScan lifeIntGa 1024).nvScan lifeOpGa 1024).ctrRead lifeIntGa
  let b := (a.2.wr FAULT.pg FAULT.LIFE_INT_MS_MS (satU 32 a.1.value)).ctrRead lifeOpGa
  b.2.wr FAULT.pg FAULT.LIFE_OP_S_S (satU 32 b.1.value)

/-- The boot stage runs (R410, R411): the counter, both slots, the selection; STATE as given when a slot starts, 2 when
none does. -/
def Dev.boot (d : Dev) (running : Option Nat) (state : Nat) : Dev :=
  let d := (d.bootCounter.checkBoth.bootShow).nvScan bootRecGa 512
  let r := d.bootRec
  match d.bootPick running with
  | some k =>
    let trialEnds := r.2.1 == 1 && k == r.2.2
    let d := if trialEnds then d.writeBootRec 6 k 0 k else d
    let d := d.wr MGMT.pg MGMT.FW_STAT_RUNNING k
    let d := d.wr MGMT.pg MGMT.FW_STAT_ACTIVE (if trialEnds then k else r.1)
    let d := d.wr MGMT.pg MGMT.FW_STAT_TRIAL (if trialEnds then 0 else r.2.1)
    (d.wr MGMT.pg MGMT.FW_STAT_BOOT_FALLBACK (b2n (k != r.1))).wr MGMT.pg HDR.PG_STAT_STATE state
  | none =>
    let d := (d.wr MGMT.pg MGMT.FW_STAT_ACTIVE r.1).wr MGMT.pg MGMT.FW_STAT_TRIAL r.2.1
    (d.wr MGMT.pg MGMT.FW_STAT_BOOT_FALLBACK 0).wr MGMT.pg HDR.PG_STAT_STATE 2

/-! ### The mailbox (R412, R416) -/

/-- The command ends: MB_STAT, EV_MBOX_DONE, after a switch EV_FW_SWITCH (R390); a failure's code is recorded on the page (R60). -/
def Dev.mbEnd (d : Dev) (outcome code : Nat) : Dev :=
  let switch := match d.mgmt.cmd with | some c => c.op == 3 | none => false
  let d := ((d.wr MGMT.pg MGMT.MB_STAT_OUTCOME outcome).wr MGMT.pg MGMT.MB_STAT_CODE code).wr MGMT.pg MGMT.MB_STAT_ACTIVE 0
  let d := ({ d with mgmt := { d.mgmt with cmd := none } } : Dev).busy MGMT.pg false
  (d.raise MGMT.pg 0).onlyIf switch (·.raise MGMT.pg 1)

def Dev.mbFail (d : Dev) (code : Nat) : Dev := (d.mbErr code 15).mbEnd 3 code
def Dev.mbComplete (d : Dev) (late : Bool) : Dev := if late then d.mbEnd 2 E.ABORT_LATE else d.mbEnd 0 0

def Dev.setMb (d : Dev) (c : MbCmd) : Dev := { d with mgmt := { d.mgmt with cmd := some c } }

/-- No image runs: the boot stage only (R411). -/
def Dev.bootOnly (d : Dev) : Bool := d.rd MGMT.pg HDR.PG_STAT_STATE == 2
def Dev.running (d : Dev) : Option Nat := if d.bootOnly then none else some (d.rd MGMT.pg MGMT.FW_STAT_RUNNING)
def Dev.trial (d : Dev) : Bool := d.on MGMT.pg MGMT.FW_STAT_TRIAL

-- Commands of R412.
namespace Mb
abbrev FW_WRITE : Nat := 1
abbrev FW_VERIFY : Nat := 2
abbrev FW_SWITCH : Nat := 3
abbrev FW_CONFIRM : Nat := 4
abbrev OWNER_ENROLL : Nat := 5
abbrev OWNER_REPLACE : Nat := 6
abbrev IDENTITY : Nat := 7
abbrev ATTEST : Nat := 8
end Mb

/-- Source bytes a command fetches. -/
def mbSource (op len : Nat) : Nat :=
  if op = Mb.FW_WRITE then len else if op = Mb.OWNER_ENROLL then 2592 else if op = Mb.OWNER_REPLACE then 7219
  else if op = Mb.ATTEST then 64 else 0

/-- Arguments, lengths and alignments of a command (R412). -/
def mbShapeOk (op arg0 arg1 len src dst : Nat) : Bool :=
  (if op = Mb.FW_WRITE || op = Mb.FW_VERIFY || op = Mb.FW_SWITCH then decide (arg0 < 2) else true) &&
  (if op = Mb.FW_WRITE then arg1 % 256 == 0 && decide (1 ≤ len ∧ len ≤ 65536 ∧ arg1 + len ≤ 0x400000)
   else if op = Mb.OWNER_REPLACE then len == 7219
   else if op = Mb.IDENTITY then decide (7267 ≤ len)
   else if op = Mb.ATTEST then decide (5139 ≤ len) else true) &&
  (mbSource op len == 0 || src % 64 == 0) &&
  (if op = Mb.IDENTITY || op = Mb.ATTEST then dst % 64 == 0 else true)

def mbPf0 (op : Nat) : Bool := op != Mb.FW_VERIFY && op != Mb.IDENTITY && op != Mb.ATTEST

/-- The refusals with E_STATE (R411, R412). -/
def Dev.mbStateBad (d : Dev) (op arg0 : Nat) : Bool :=
  (d.bootOnly && (op == Mb.OWNER_ENROLL || op == Mb.OWNER_REPLACE || op == Mb.ATTEST)) ||
  (op == Mb.FW_WRITE && (d.running == some arg0 || (d.trial && d.bootRec.2.2 == arg0))) ||
  (op == Mb.FW_CONFIRM && !d.trial) || (op == Mb.OWNER_ENROLL && d.ownerKey.isSome)

/-- FW_CONFIRM's writes (R410, R412): the counter rises to the running image's ROLLBACK, then TRIAL 0. -/
def Dev.confirmWrites (d : Dev) (c : MbCmd) : Dev :=
  let q := ((d.nvScan rollbackGa 1024).nvScan bootRecGa 512).ctrRead rollbackGa
  let d := q.2
  let want := match d.running with | some k => max (d.imgRollback k) (d.rd MGMT.pg MGMT.ROLLBACK_COUNT) | none => d.rd MGMT.pg MGMT.ROLLBACK_COUNT
  let r := d.bootRec
  match ctrSetTo rollbackGa q.1 want, d.twinWrite bootRecGa 1 (bootPayload r.1 0 r.2.2) with
  | .ok a, some b => ((d.setMb { c with step := 2, arg0 := want }).onlyIf (q.1 == .torn) (·.mbErr E.NV_TORN 15)).addWriter 2 7 (a ++ b)
  | _, _ => d.mbFail E.RANGE

/-- A command that writes a record: the start of its header page's programming is its commit point (R412, R413). -/
def MbCmd.record (c : MbCmd) : Bool := c.step == 2 && (c.op == Mb.FW_SWITCH || c.op == Mb.OWNER_ENROLL || c.op == Mb.OWNER_REPLACE)

/-- The last page of the mailbox command is being programmed. -/
def Dev.mbHeader (d : Dev) : Bool := match d.nv.writers.head? with | some w => w.who == 2 && w.pages.length == 1 | none => false

/-- An abort, arbitrated against the commit point: the last byte of FW_WRITE, the counter write of FW_CONFIRM, and the
header page of a record (R412, R413). -/
def Dev.mbAbort (d : Dev) (func : Nat) : Dev :=
  match d.mgmt.cmd with
  | none => d
  | some c =>
    if c.step = 1 || (c.record && !d.mbHeader) then
      (((d.endJob .mailbox).orphanPages 2 false).mbErr E.ABORTED func).mbEnd 1 E.ABORTED
    else (d.setMb { c with late := true }).mbErr E.ABORT_LATE func

/-- MB_CMD.GO of command op (R412); while D1 is not on it is refused with E_STATE (R86, R96). -/
def Dev.mbGo (d : Dev) (who : Req) (op : Nat) : Dev :=
  let f := d.rd MGMT.pg MGMT.MB_CMD_FUNC
  let arg0 := d.rd MGMT.pg MGMT.MB_ARG (i := 0)
  let arg1 := d.rd MGMT.pg MGMT.MB_ARG (i := 1)
  let len := d.rd MGMT.pg MGMT.MB_LEN_BYTES
  let src := d.rd MGMT.pg MGMT.MB_SRC_LO + 2 ^ 32 * d.rd MGMT.pg MGMT.MB_SRC_HI
  let dst := d.rd MGMT.pg MGMT.MB_DST_LO + 2 ^ 32 * d.rd MGMT.pg MGMT.MB_DST_HI
  if d.mgmt.cmd.isSome then d.mbErr E.BUSY who.code
  else if f = 3 || !mbShapeOk op arg0 arg1 len src dst then d.mbErr E.RANGE who.code
  else if mbPf0 op && who != .pf0 then d.mbErr E.PRIV who.code
  else if !d.domOn 1 || d.mbStateBad op arg0 then d.mbErr E.STATE who.code
  else
    let c : MbCmd := ⟨op, f, arg0, arg1, src, dst, mbSource op len, [], 1, false⟩
    let d := ((d.putWord MGMT.pg 0x060 (BitVec.ofNat 32 (4 + op * 2 ^ 16))).setMb c).busy MGMT.pg true
    if op = Mb.FW_CONFIRM then d.confirmWrites c
    else if c.len != 0 then d.fetch ⟨f, .mailbox, src, c.len⟩ else d

def Dev.mbWriteCmd (d : Dev) (a : Acc) (op : Nat) (x : Word) : Dev :=
  d.guarded a MGMT.pg 0x040 fun d =>
    let d := d.storeRw MGMT.pg 0x040 (setBits x 0 8 op)
    let d := if MGMT.MB_CMD_ABORT.of x = 1 then d.mbAbort a.who.code else d
    d.mbGo a.who op

def execFwWrite (a : Acc) (x : Word) (s : State) : Out := hostWrite (.fwWrite a x) a (fun d => d.mbWriteCmd a Mb.FW_WRITE x) s
def execFwVerify (a : Acc) (x : Word) (s : State) : Out := hostWrite (.fwVerify a x) a (fun d => d.mbWriteCmd a Mb.FW_VERIFY x) s
def execFwSwitch (a : Acc) (x : Word) (s : State) : Out := hostWrite (.fwSwitch a x) a (fun d => d.mbWriteCmd a Mb.FW_SWITCH x) s
def execFwConfirm (a : Acc) (x : Word) (s : State) : Out := hostWrite (.fwConfirm a x) a (fun d => d.mbWriteCmd a Mb.FW_CONFIRM x) s
def execOwnerEnroll (a : Acc) (x : Word) (s : State) : Out := hostWrite (.ownerEnroll a x) a (fun d => d.mbWriteCmd a Mb.OWNER_ENROLL x) s
def execOwnerReplace (a : Acc) (x : Word) (s : State) : Out := hostWrite (.ownerReplace a x) a (fun d => d.mbWriteCmd a Mb.OWNER_REPLACE x) s
def execIdentity (a : Acc) (x : Word) (s : State) : Out := hostWrite (.identity a x) a (fun d => d.mbWriteCmd a Mb.IDENTITY x) s
def execAttest (a : Acc) (x : Word) (s : State) : Out := hostWrite (.attest a x) a (fun d => d.mbWriteCmd a Mb.ATTEST x) s

def execMbAbort (a : Acc) (s : State) : Out :=
  hostWrite (.mbAbort a) a (fun d => d.guarded a MGMT.pg 0x040 fun d => d.mbAbort a.who.code) s

def MbCmd.data (c : MbCmd) : List Byte := (List.range c.len).map fun i => mget nvDefault c.bytes (c.src + i)

/-- The owner record's write, or the refusals the fetched key meets (R412). -/
def Dev.ownerWrite (d : Dev) (c : MbCmd) : Dev :=
  let key := c.data.take 2592
  let d := (d.nvScan ownerKeyGa 0x1600).nvScan Config.serialGa 16
  let serial := d.nvBytes Config.serialGa 16
  let sigOk := c.op != Mb.OWNER_REPLACE ||
    (match d.ownerKey with
     | some k => mlDsaVerify k (sha3_512 (key ++ serial)) (c.data.drop 2592)
     | none => false)
  let imgOk := match d.running with | some k => d.ownerOk k key | none => false
  if !sigOk then (d.raise MGMT.pg 3).mbFail E.AUTH
  else if !imgOk then d.mbFail E.STATE
  else match d.twinWrite ownerKeyGa 11 key with
    | some pages => (d.setMb { c with step := 2 }).addWriter 2 7 pages
    | none => d.mbFail E.RANGE

/-- The last source byte of a mailbox command has arrived: FW_WRITE passes its commit point, an owner key is checked. -/
def Dev.mbFetched (d : Dev) : Dev :=
  match d.mgmt.cmd with
  | some c =>
    if c.step != 1 || c.len = 0 || !d.fetched .mailbox then d
    else if c.op = Mb.FW_WRITE then
      (d.setMb { c with step := 2, bytes := [] }).addWriter 2 7 (pagesOf (fwBase c.arg0 + c.arg1) c.data)
    else if c.op = Mb.OWNER_ENROLL || c.op = Mb.OWNER_REPLACE then d.ownerWrite c
    else d
  | none => d

/-! ### Results (R412-R414) -/

/-- Write bytes to host memory at HA under the command's function. -/
def Dev.sendHost (d : Dev) (ha : Nat) (data : List Byte) : Dev :=
  { d with mgmt := { d.mgmt with sent := putCells d.mgmt.sent ha data } }

/-- The report without its signature, bytes 0x000 to 0x1FF (R414). -/
def Dev.report (d : Dev) (nonce : List Byte) : List Byte :=
  let run := d.rd MGMT.pg MGMT.FW_STAT_RUNNING
  let flags := run + b2n d.trial * 2 + b2n d.ownerKey.isSome * 4 + d.rd MGMT.pg MGMT.FW_STAT_BOOT_FALLBACK * 8 + d.rd MGMT.pg MGMT.FW_STAT_RB_REBUILT * 16
  leBytes 4 0x41545354 ++ leBytes 4 1 ++ leBytes 4 (d.word IDENT.pg 0x040).toNat ++ leBytes 4 (d.word IDENT.pg 0x044).toNat ++
  d.nvBytes Config.serialGa 16 ++ nonce ++ leBytes 8 d.devtime ++ leBytes 4 d.frameNo ++ leBytes 4 flags ++
  leBytes 4 (d.imgVersion run) ++ leBytes 4 (d.imgRollback run) ++ leBytes 4 (d.rd MGMT.pg MGMT.ROLLBACK_COUNT) ++
  leBytes 4 (d.rd FAULT.pg FAULT.LIFE_INT_MS_MS) ++ leBytes 4 (d.rd FAULT.pg FAULT.LIFE_OP_S_S) ++ List.replicate 12 0 ++
  d.imgDigest run ++ (match d.ownerKey with | some k => sha3_512 k | none => List.replicate 64 0) ++ List.replicate 240 0

/-- FW_SWITCH past its check: the boot record (R413); a check's failure ends it FAILED. The spec names the codes E_AUTH,
E_RANGE and E_STATE, and E_AUTH for steps 3 and 4 only: for the other steps one of the other two is a free choice. -/
def Dev.switchChecked (d : Dev) (c : MbCmd) (n : Nat) : Dev :=
  if n = 0 then
    let d := d.nvScan bootRecGa 512
    match d.twinWrite bootRecGa 1 (bootPayload c.arg0 1 ((d.running).getD (1 - c.arg0))) with
    | some pages => (d.setMb { c with step := 2 }).addWriter 2 7 pages
    | none => d.mbFail E.RANGE
  else if n = 3 || n = 4 then d.mbEnd 3 E.AUTH
  else let q := d.takeBool; q.2.mbFail (if q.1 then E.RANGE else E.STATE)

/-- Filpor reads ranges of the Granary, whose cells answer ecc. -/
def Dev.readGroups (d : Dev) (l : List (Nat × Nat)) (ecc : Ecc) : Dev := l.foldl (fun d e => (d.nvRead e.1 e.2 ecc).2) d

/-- A mailbox command's slot check, report computation or copy ends (R412-R414); what it reads answers ecc. -/
def execMboxCmdDone (ecc : Ecc) (s : State) : Out :=
  finish (fun d =>
    match d.mgmt.cmd with
    | some c =>
      if c.step != 1 then d
      else if c.op = Mb.FW_VERIFY || c.op = Mb.FW_SWITCH then
        let q := (d.readKeys.readSlot c.arg0 ecc).checkSlot c.arg0
        if c.op = Mb.FW_VERIFY then
          ((q.2.wr MGMT.pg MGMT.MB_RSP (b2n (q.1 == 0)) (i := 0)).wr MGMT.pg MGMT.MB_RSP q.1 (i := 1)).mbComplete c.late
        else q.2.switchChecked c q.1
      else if c.op = Mb.IDENTITY && d.master c.fn then
        let d := d.readGroups [(Config.serialGa, 16), (Config.identityKeyGa, 2592), (Config.certificateGa, 4659)] ecc
        (d.sendHost c.dst (d.nvBytes Config.serialGa 16 ++ d.nvBytes Config.identityKeyGa 2592 ++ d.nvBytes Config.certificateGa 4659)).mbComplete c.late
      else if c.op = Mb.ATTEST && d.fetched .mailbox && d.master c.fn then
        let d := d.readGroups [(Config.serialGa, 16), (fwBase (d.rd MGMT.pg MGMT.FW_STAT_RUNNING), 256), (ownerKeyGa, 0x1600)] ecc
        let r := d.report c.data
        ((d.sendHost c.dst (r ++ Config.mlDsaSign (sha3_512 r))).raise MGMT.pg 4).mbComplete c.late
      else d
    | none => d) s

/-! ### Restarts (R400, R411, R413) -/

/-- A mailbox command's last page is programmed. -/
def Dev.mbWritten (d : Dev) : Dev :=
  match d.mgmt.cmd with
  | some c =>
    if c.op = Mb.FW_WRITE then d.checkBoth.mbComplete c.late
    else if c.op = Mb.FW_CONFIRM then
      (((d.wr MGMT.pg MGMT.ROLLBACK_COUNT c.arg0).wr MGMT.pg MGMT.FW_STAT_TRIAL 0).checkBoth).mbComplete c.late
    else if c.op = Mb.FW_SWITCH then
      let d := (d.wr MGMT.pg MGMT.FW_STAT_ACTIVE c.arg0).wr MGMT.pg MGMT.FW_STAT_TRIAL 1
      let d := { d with mgmt := { d.mgmt with switching := true, restartAt := d.devtime } }
      (d.setMb { c with step := 3 }).wr MGMT.pg HDR.PG_STAT_STATE 3
    else (d.wr MGMT.pg MGMT.FW_STAT_OWNER 1).mbComplete c.late
  | none => d

/-- The last page of a mailbox command that a watchdog ended past its commit point is written (R60): what it has changed shows. -/
def Dev.mbLateShow (d : Dev) : Dev :=
  let q := d.ctrRead rollbackGa
  let d := (q.2.wr MGMT.pg MGMT.ROLLBACK_COUNT (max q.1.value (d.rd MGMT.pg MGMT.ROLLBACK_COUNT))).checkBoth
  (d.wr MGMT.pg MGMT.FW_STAT_TRIAL d.bootRec.2.1).wr MGMT.pg MGMT.FW_STAT_OWNER (b2n d.ownerKey.isSome)

/-- A Granary page program ends (R368); the group reads it needs answer ecc. The host's command counts it; the last page
of a mailbox command ends that (R412, R413). -/
def execPageProgramDone (ecc : Ecc) (s : State) : Out :=
  finish (fun d =>
    let q := d.pageDone ecc
    match q.1 with
    | some w =>
      if w.who = 0 then q.2.nvHostPage w
      else if w.who = 2 && w.pages.isEmpty then q.2.mbWritten
      else if w.who = 9 && w.pages.isEmpty then q.2.mbLateShow
      else q.2
    | none => q.2) s

/-- Filpor runs again (R400, R413): RUNNING and STATE; after a switch MB_STAT and EV_FW_SWITCH; after a watchdog restart
the duration, and its fault record is final. -/
def execFwRestartDone (s : State) : Out :=
  finish (fun d =>
    if d.rd MGMT.pg HDR.PG_STAT_STATE != 3 then d
    else
      let d := d.wr MGMT.pg HDR.PG_STAT_STATE 0
      let d : Dev := { d with pwr := { d.pwr with pllWait := 0 } }
      if d.mgmt.switching then
        match d.mgmt.cmd with
        | some c =>
          let d := (d.wr MGMT.pg MGMT.FW_STAT_RUNNING c.arg0).wr MGMT.pg MGMT.FW_STAT_BOOT_FALLBACK 0
          let d := { d with mgmt := { d.mgmt with switching := false } }
          (d.bootCounter.checkBoth.bootShow).mbComplete c.late
        | none => d
      else
        let q := d.takeRound (mkRat (d.devtime - d.mgmt.restartAt) 1000000)
        let d := q.2.stat FAULT.pg FAULT.WDOG_LAST_MS (satU 16 q.1.toNat)
        (d.openRecs 0x0C).foldl (fun d n => d.faultEnd n 0 0) d) s

/-- A watchdog expiry (R400): a mailbox command ends FAILED but a switch past its commit point; the boot stage selects
a slot; Filpor restarts. A record whose header page has not begun does not change (R416); the pages of an FW_WRITE or FW_CONFIRM past
its commit point are all programmed (R60). -/
def execWatchdogExpire (s : State) : Out :=
  finish (fun d =>
    let run := d.rd MGMT.pg MGMT.FW_STAT_RUNNING
    let d := match d.mgmt.cmd with
      | some c =>
        if c.step = 3 || (c.record && c.op == Mb.FW_SWITCH && d.mbHeader) then d
        else ((d.endJob .mailbox).orphanPages 2 (!c.record || d.mbHeader)).mbFail E.TIMEOUT
      | none => d
    let d := (d.count FAULT.pg FAULT.WDOG_RESTARTS).raise MGMT.pg 2
    let d := d.fault { cls := 0x0C, state := 1, loc := run }
    if d.mgmt.switching then d
    else
      let d := { d with mgmt := { d.mgmt with restartAt := d.devtime } }
      let d := d.boot (some run) 3
      if d.bootOnly then d.endFaultOf 0x0C run 2 0 else d) s

end Sys2Proof.Machine
end

