-- ==== Sys2Proof/Machine/Reads.lean ====
section
/-! DEFINITION. The answers to device-issued reads (R69, R78, R160) and what ends them all (R73, R76): completions, timeouts,
PERST_N, hot reset and DL_Down, function-level reset. -/

namespace Sys2Proof.Machine

/-! ### What a read was for -/

/-- The host fence of waiting layer m has been answered (R160, R161): the layer joins when it is ready; under a POLICY that does
not wait it falls back otherwise. -/
def Dev.fenceAnswered (d : Dev) (m : Nat) : Dev :=
  match d.couch.pass with
  | none => d
  | some p =>
    if (d.layer m).use != .waiting then d
    else
      let q := d.retest p.vals m
      if q.1 && decide ((2 : Nat) ≤ lf p.vals m MOULD.LAYER_CTL_POLICY) then q.2.fallback p.vals m else q.2

/-- A read has failed at output line `line`: its layer meets a fetch error (R160), a fence stays unmet for this poll (R160), a long
operation ends FAILED with E_TIMEOUT (R267, R283, R370, R412). -/
def Dev.readFailed (d : Dev) (j : Job) (line : Nat) : Dev :=
  match j with
  | .layer m =>
    match d.couch.pass with
    | some p => (d.fetchError p.vals m line).couchShow
    | none => d.endJob j
  | .fence m => ((d.setLayer m { d.layer m with fence := none }).fenceAnswered m).couchShow
  | .calLoad p => if (d.calSt p).load.isSome then (d.endJob j).calFail p E.TIMEOUT else d
  | .stressLoad => if d.aging.op.isSome then (d.endJob j).opFail E.TIMEOUT else d
  | .granary => if d.nv.cmd.isSome then (d.endJob j).nvFail E.TIMEOUT else d
  | .mailbox => if d.mgmt.cmd.isSome then (d.endJob j).mbFail E.TIMEOUT else d

/-- Bytes of a job's source arrive. -/
def Dev.deliver (d : Dev) (j : Job) (addr : Nat) (data : List Byte) : Dev :=
  match j with
  | .layer m =>
    let l := d.layer m
    if l.use == .held || (l.use == .fresh && l.failLine.isSome) then d.setLayer m { l with heldBytes := putCells l.heldBytes addr data }
    else d.setLayer m { l with bytes := putCells l.bytes addr data }
  | .fence m => d.setLayer m { d.layer m with fence := some (ofLeBytes data) }
  | .calLoad p =>
    match (d.calSt p).load with
    | some l => d.setLoad p (some { l with bytes := putCells l.bytes addr data })
    | none => d
  | .stressLoad =>
    match d.aging.op with
    | some o => { d with aging := { d.aging with op := some { o with bytes := putCells o.bytes addr data } } }
    | none => d
  | .granary =>
    match d.nv.cmd with
    | some c => { d with nv := { d.nv with cmd := some { c with bytes := putCells c.bytes addr data } } }
    | none => d
  | .mailbox =>
    match d.mgmt.cmd with
    | some c => d.setMb { c with bytes := putCells c.bytes addr data }
    | none => d

/-- The last byte of a job has arrived: a fence is judged, the Scan engine holds D3 for a table's write (R226, R267), a mailbox
command goes on. -/
def Dev.delivered (d : Dev) (j : Job) : Dev :=
  if !d.fetched j then d
  else match j with
    | .fence m => (d.fenceAnswered m).couchShow
    | .calLoad p =>
      match (d.calSt p).load with
      | some l => if l.target = 0 then d else d.tblWrite p true
      | none => d
    | .mailbox => d.mbFetched
    | _ => d

/-! ### Completions (R69, R78) -/

def Dev.findRead (d : Dev) (f tag : Nat) : Option DevRead := d.host.reads.find? fun r => r.fn == f && r.tag == tag

def Dev.dropRead (d : Dev) (f tag : Nat) : Dev :=
  { d with host := { d.host with reads := d.host.reads.filter fun r => !(r.fn == f && r.tag == tag) } }

/-- A read that has been ended, whose completions are discarded (R69, R76). -/
def Dev.findDropped (d : Dev) (f tag : Nat) : Option Dropped := d.host.dropped.find? fun e => e.fn == f && e.tag == tag

/-- Its tag is free again (R69). -/
def Dev.freeDropped (d : Dev) (f tag : Nat) : Dev :=
  { d with host := { d.host with dropped := d.host.dropped.filter fun e => !(e.fn == f && e.tag == tag) } }

/-- n of its bytes have come, and are discarded; with the last one its tag is free. -/
def Dev.lateBytes (d : Dev) (f tag n : Nat) : Dev :=
  { d with host := { d.host with dropped := d.host.dropped.filterMap fun e =>
      if e.fn == f && e.tag == tag then (if e.left ≤ n then none else some { e with left := e.left - n }) else some e } }

/-- A read whose data is not taken goes on to its last completion (R69): n bytes of it have come. -/
def Dev.abandon (d : Dev) (r : DevRead) (n : Nat) : Dev :=
  let d := d.dropRead r.fn r.tag
  if r.len ≤ n then d else { d with host := { d.host with dropped := d.host.dropped ++ [⟨r.fn, r.tag, r.len - n, false⟩] } }

/-- What function f reports of a completion with a status other than SC (R78; log entry 59). -/
def Dev.cplReport (d : Dev) (f : Nat) (st : CplStatus) : Dev :=
  match st with
  | .sc => d
  | .ur => d.setFn f { d.fn f with status := (d.fn f).status ||| 2 ^ 13 }
  | .ca => (d.setFn f { d.fn f with status := (d.fn f).status ||| 2 ^ 12 }).aerFn f .abort
  | .crs => d.aerFn f .malformed

/-- A completion with an error status is logged and reported; one with poisoned data likewise (R78). -/
def Dev.cplError (d : Dev) (f : Nat) (st : CplStatus) (hdr : List Word) : Dev := (d.violation 0x07 f hdr).cplReport f st
def Dev.cplPoison (d : Dev) (f : Nat) (hdr : List Word) : Dev := (d.violation 0x04 f hdr).aerFn f .poisoned hdr

/-- A completion of a read that has ended: its data is discarded, its tag comes free with the last one; an error is one of R78
unless the read ended with its function's reset (R76). -/
def Dev.droppedCpl (d : Dev) (e : Dropped) (st : CplStatus) (poisoned : Bool) (n : Nat) (hdr : List Word) : Dev :=
  if st != .sc then (d.onlyIf (!e.silent) (·.cplError e.fn st hdr)).freeDropped e.fn e.tag
  else (d.onlyIf (poisoned && !e.silent) (·.cplPoison e.fn hdr)).lateBytes e.fn e.tag n

/-- The answered read's range shrinks; with its last byte its tag is free (R69). -/
def Dev.shrinkRead (d : Dev) (r : DevRead) (n : Nat) : Dev :=
  if r.len ≤ n then d.dropRead r.fn r.tag
  else { d with host := { d.host with reads := d.host.reads.map fun x => if x == r then { r with addr := r.addr + n, len := r.len - n } else x } }

/-- A completion for tag `tag` of function f. -/
def Dev.completion (d : Dev) (f tag : Nat) (st : CplStatus) (poisoned : Bool) (data : List Byte) (hdr : List Word) (line : Nat) : Dev :=
  match d.findRead f tag with
  | none =>
    match d.findDropped f tag with
    | some e => (d.droppedCpl e st poisoned data.length hdr).issueAll.ltr
    | none => (d.leaveL1.violation 0x05 f hdr).aerFn f .unexpected hdr true
  | some r =>
    if st != .sc then (((d.cplError f st hdr).dropRead f tag).readFailed r.job line).issueAll.ltr
    else if poisoned then (((d.cplPoison f hdr).abandon r data.length).readFailed r.job line).issueAll.ltr
    else
      let n := min r.len data.length
      let d := (d.shrinkRead r n).deliver r.job r.addr (data.take n)
      ((d.issueAll).delivered r.job).ltr

/-- A completion to a device-issued read; `line`: the first output line that needs its data. -/
def execReadCompletion (f : Fin 3) (tag : Nat) (st : CplStatus) (poisoned : Bool) (data : List Byte) (hdr : List Word) (line : Nat)
    (s : State) : Out :=
  finish (fun d => d.completion f.val tag st poisoned data hdr line) s

/-- A time-out is counted, logged without a header and reported (R78). -/
def Dev.timedOut (d : Dev) (f : Nat) : Dev := ((d.count HOSTIF.pg HOSTIF.CPL_TO_CNT_COUNT).violation 0x06 f []).aerFn f .timeout

/-- A read's completion times out (R78): the tag is free, CPL_TO_CNT, a violation without header, AER. Device Control 2 may disable
the time-out. -/
def Dev.cplTimeout (d : Dev) (f tag line : Nat) : Dev :=
  if (d.fn f).cplToOff then d
  else
    match d.findRead f tag with
    | none =>
      match d.findDropped f tag with
      | some e => (((d.onlyIf (!e.silent) (·.timedOut f)).freeDropped f tag).issueAll).ltr
      | none => d
    | some r => (((((d.dropRead f tag).timedOut f).readFailed r.job line)).issueAll).ltr

def execCplTimeout (f : Fin 3) (tag : Nat) (line : Nat) (s : State) : Out :=
  finish (fun d => d.cplTimeout f.val tag line) s

/-! ### What ends reads (R73, R76) -/

/-- The jobs that have a read outstanding, or work waiting, that q picks. -/
def Dev.jobsOf (d : Dev) (q : Nat → Bool) : List Job :=
  (d.host.reads.filter fun r => q r.fn).map (·.job) ++ (d.host.todo.filter fun w => q w.fn).map (·.job)

/-- A job whose reads the link takes with it: a layer is not-ready for the frame, which is no fetch error (R73, R160). -/
def Dev.readEnded (d : Dev) (j : Job) (line : Nat) : Dev :=
  match j, d.couch.pass with
  | .layer m, some p => (d.sourceLost p.vals m line).couchShow
  | j, _ => d.readFailed j line

/-! ### Configuration and power states (R64, R69, R73, R102) -/

/-- Function f may not issue reads: its layers with reads still to be issued are not ready for the frame, and its fences are unmet
(R69). -/
def Dev.masterOff (d : Dev) (f : Nat) : Dev :=
  let jobs := ((d.host.todo.filter fun w => w.fn == f).map (·.job)).eraseDups
  if d.master f || jobs.isEmpty then d
  else
    let q := d.composeLine
    jobs.foldl (fun d j => match j with
      | .layer _ => d.readEnded j q.1
      | .fence _ => (d.endJob j).readFailed j q.1
      | _ => d) q.2

/-- A function enters or leaves D3 (R63, R73, R82, R384): it issues no reads, its BARs answer UR and its vote counts as zero while in D3. With every function
in D3cold the link is in L2, from which it trains again (R68; log entry 59). -/
def execPowerStateChange (f : Fin 3) (st : Fin 3) (s : State) : Out :=
  finish (fun d =>
    let d := (d.setFn f.val { d.fn f.val with dstate := st.val }).masterOff f.val
    let l2 := (List.range 3).all fun g => (d.fn g).dstate == 2
    let d := if d.pwr.perst then d
      else if l2 && 2 ≤ d.link then d.exitL1.wr HOSTIF.pg HDR.PG_STAT_STATE 7
      else if !l2 && d.link = 7 then d.wr HOSTIF.pg HDR.PG_STAT_STATE 1 else d
    (d.refreshReqs.issueAll.ltr).letGo) s


/-- A configuration request is answered, or completed with CRS before the device is ready, or left unanswered in
factory test (R27, R102). In D3 a function answers configuration requests (R73). -/
def execConfigRequest (f : Fin 3) (r : CfgReg) (w : Option Nat) (usReset usPerst : Nat) (s : State) : Out :=
  finish (fun d =>
    if d.pwr.testMode || d.pwr.perst || d.halted then d.replyStatus 3
    else
      let q := d.leaveL1.cfgReady usReset usPerst
      let d := q.2
      if !q.1 then d.replyStatus 2
      else match w with
        | none => d.reply (leBytes 4 ((d.fn f.val).cfg f.val r))
        | some n =>
          let d := ((d.setFn f.val ((d.fn f.val).cfgWrite r n)).reply []).refreshReqs
          ((d.masterOff f.val).issueAll.ltr).ptmCond) s

/-- The layers of the running compose that a function-level reset of the functions q picks fails beside those with reads outstanding:
those that wait, and those composed from a source of such a function (R76, R160, R163). -/
def Dev.flrLayers (d : Dev) (q : Nat → Bool) (v : Regs) : List Nat :=
  (List.range 12).filter fun m =>
    ((d.layer m).use == Use.waiting && q (layerFn v m)) ||
      match d.usedVals v m with
      | some u => !offScreen u m d.mode.w d.mode.h && q (layerFn u m)
      | none => false

/-- Every read of the functions q picks ends. After a function-level reset (flr) each job meets it as a failed read, late
completions are not logged, and their other layers meet a fetch error (R76, R160, R163). -/
def Dev.endAllReads (d : Dev) (q : Nat → Bool) (flr : Bool) (line : Nat) : Dev :=
  let jobs := d.jobsOf q
  let d := d.endReads (fun r => q r.fn) (fun w => q w.fn) flr
  let d := jobs.eraseDups.foldl (fun d j => if flr then d.readFailed j line else d.readEnded j line) d
  let d := match flr, d.couch.pass with
    | true, some p => ((d.flrLayers q p.vals).foldl (fun (d : Dev) m => d.fetchError p.vals m line) d).couchShow
    | _, _ => d
  d.ltr

/-- The data link goes down (R73): configuration and MSI-X state to their defaults, every outstanding read ended, no page
touched but the link's own status. -/
def Dev.linkDown (d : Dev) (st : Nat) (lost : Bool) : Dev :=
  let was := d.on HOSTIF.pg HOSTIF.LINK_STAT_DL_UP
  let d := { d with host := { d.host with
    fns := [(0, Fn.cleared), (1, Fn.cleared), (2, Fn.cleared)], l1Req := false, narrow := false, clkreq := false, ptmReq := false,
    downAt := if was && lost then some d.devtime else d.host.downAt } }
  let d := ((d.putWord HOSTIF.pg 0x040 0).wr HOSTIF.pg HOSTIF.FETCH_BUDGET_MBPS 0).wr HOSTIF.pg HDR.PG_STAT_STATE st
  let d := if was then d.raise HOSTIF.pg 3 else d
  let q := if (d.jobsOf fun _ => true).isEmpty then (0, d) else d.composeLine
  let d := q.2.endAllReads (fun _ => true) false q.1
  let d := { d with host := { d.host with dropped := [] } }
  (d.ptmCond.refreshReqs).moot

/-- PERST_N is asserted (R68, R73). -/
def execPerstAssert (s : State) : Out :=
  finish (fun d => ({ d with pwr := { d.pwr with perst := true } } : Dev).linkDown 7 false) s

/-- A hot reset or DL_Down (R73), which this one command does not tell apart: DESIGN CHOICE, both are recorded as a lost host link
(R401; log entry 42). With PERST_N asserted there is no link to lose. -/
def execHotReset (s : State) : Out :=
  finish (fun d => if d.pwr.perst then d else d.linkDown 0 true) s

/-- A function-level reset (R76): configuration, MSI-X table and PBA; its reads end, late completions are not logged. -/
def execFunctionLevelReset (f : Fin 3) (line : Nat) (s : State) : Out :=
  finish (fun d =>
    let d := (d.setFn f.val Fn.cleared).endAllReads (fun g => g == f.val) true line
    (d.ptmCond.refreshReqs).moot) s

end Sys2Proof.Machine
end

