-- ==== Sys2Proof/Machine/Power.lean ====
section
/-! DEFINITION. Power (02_package, 05_power): resets (R31, R39, R101, R102), brown-out and thermal trip (R33, R35, R45),
supplies (R25, R378), votes (R82, R83), domains that wake, fail and drop (R85-R88, R96, R97), wake sources (R87), and banks
that wake (R121, R122, R142). -/

namespace Sys2Proof.Machine

/-! ### Battery-backed words (R378, R379) -/

/-- AO_LOG bit i (R99): set by the device, never cleared by it. -/
def Dev.aoLog (d : Dev) (i : Nat) : Dev := d.putWord AOBB.pg 0x1FC (d.word AOBB.pg 0x1FC ||| BitVec.ofNat 32 (2 ^ i))

/-- The battery domain is re-initialised (R378, R379): every word 0, but REINIT. -/
def Dev.bbReinit (d : Dev) : Dev :=
  ((List.range 64).foldl (fun d i => d.putWord AOBB.pg (0x100 + 4 * i) 0) d).putWord AOBB.pg 0x1F8 2

/-! ### Power-on reset (R31, R39, R101, R102) -/

/-- The device after a power-on reset: the reset state, with what R101 keeps, and what lies outside the device; with TESTMODE high
it enters factory test (R27). CAUSE 0 tells that the battery domain was re-initialised (R99). -/
def Dev.afterReset (d : Dev) (cause : Nat) (test vbat : Bool) : Dev :=
  let r := Dev.reset
  let kept := d.pwr.vao || d.pwr.vbat
  let x := { r with
    pwr := { r.pwr with vbat := vbat, testMode := test, perst := d.pwr.perst, wakeN := d.pwr.perst, railPg := d.pwr.railPg }
    nv := { r.nv with mem := d.nv.mem, bad := d.nv.bad }
    mgmt := { r.mgmt with sent := d.mgmt.sent }
    panel := [0, 1].foldl (fun l p => mset (fun _ => PanelSt.reset) l p { PanelSt.reset with pready := (d.panelSt p).pready }) []
    free := d.free }
  let x := if kept then
      let x := (List.range 64).foldl (fun x i => x.putWord AOBB.pg (0x100 + 4 * i) (d.word AOBB.pg (0x100 + 4 * i))) x
      (x.wr AOBB.pg AOBB.AO_LOG_CAUSE cause).wr CLOCK.pg CLOCK.OSC_STAT_XT32_OK (d.rd CLOCK.pg CLOCK.OSC_STAT_XT32_OK)
    else x.bbReinit
  let x := (x.putWord GRANARY.pg 0x00C 0).putWord GRANARY.pg 0x014 0
  let x := x.putWord MGMT.pg 0x06C 0
  let x := if d.pwr.perst then x.wr HOSTIF.pg HDR.PG_STAT_STATE 7 else x
  (x.bbConds.cond CLOCK.pg 2 (!x.on CLOCK.pg CLOCK.OSC_STAT_XT32_OK)).showRails

/-- VIN, VAO and VIO are present and VHOLD is charged (R31). -/
def Dev.supplied (d : Dev) : Bool := d.pwr.vin && d.pwr.vao && d.pwr.vio && d.pwr.vhold

/-- The internal reset, held while a supply is missing (R31): the reset state with every domain but D0 off and no oscillator
starting, the supplies as they are. -/
def Dev.heldReset (d : Dev) (cause : Nat) (test : Bool) : Dev :=
  let x := d.afterReset cause test d.pwr.vbat
  let x := (x.setDom 1 0).setDom 2 0
  { x with pwr := { x.pwr with doms := [], fircStarting := false, vin := d.pwr.vin, vao := d.pwr.vao, vio := d.pwr.vio,
                               vhold := d.pwr.vhold, held := true } }

/-- Until the power-on reset that follows (R31, R33): the internal reset held, what that reset will show as its cause kept, and a
tripped device tripped still (R45). -/
def Dev.awaitReset (d : Dev) (trip : Bool) : Dev :=
  let x := d.heldReset (d.rd AOBB.pg AOBB.AO_LOG_CAUSE) d.pwr.testMode
  { x with pwr := { x.pwr with tripped := trip, due := d.pwr.due } }

/-- VIN, VAO and VIO are there and VHOLD is charged. -/
def Dev.supplyUp (d : Dev) (q : PorIn) : Dev :=
  { d with pwr := { d.pwr with vin := true, vao := true, vio := true, vhold := true, vbat := q.vbat, testMode := q.test, held := false } }

/-- A power-on reset (R101, R102): domains and pages reset, D1 and D2 start their wake. A tripped device leaves its state only when
it is cool (R45). -/
def Dev.powerOn (d : Dev) (cause : Nat) (q : PorIn) : Dev :=
  if d.pwr.tripped && !q.cool then d else d.afterReset cause q.test q.vbat

/-- The supplies enter their ranges with VHOLD charged (R31), after a removal, at first power or after a brown-out. During a rail-off
sequence, which runs to its end, the reset waits for that end (R33); on a device that stays tripped they are there and no more (R45). -/
def Dev.suppliesOn (d : Dev) (q : PorIn) : Dev :=
  match d.pwr.seqOff with
  | some s => { d with pwr := { d.pwr with vin := true, vhold := true, seqOff := some { s with again := some q } } }
  | none =>
    if d.pwr.tripped && !q.cool then d.supplyUp q
    else d.powerOn (if d.pwr.due = 0 then 1 else d.pwr.due) q

def execPowerOnReset (cool : PorIn) (s : State) : Out := finish (fun d => d.suppliesOn cool) s

/-- POR_N low for ns (R39): ignored up to 1 µs, recognised from 10 µs, between them a free choice (log entry 3). With a supply
missing the internal reset stays until the supplies' own power-on reset (R31); a rail-off sequence runs on (R33). -/
def Dev.porN (d : Dev) (q : PorIn) : Dev :=
  if d.pwr.seqOff.isSome then d
  else if d.supplied then d.powerOn 2 { q with vbat := d.pwr.vbat }
  else if d.pwr.tripped || d.pwr.held then d else d.heldReset 2 q.test

def execPorNReset (ns : Nat) (cool : PorIn) (s : State) : Out :=
  finish (fun d =>
    if ns ≤ 1000 then d
    else
      let q := if ns < 10000 then d.takeBool else (true, d)
      if q.1 then q.2.porN cool else q.2) s

/-- TRST_N resets the JTAG TAP alone (R101). -/
def execTapReset (s : State) : Out := finish (fun d => { d with pwr := { d.pwr with tapActive := false } }) s

/-! ### Votes and wake sources (R82, R83, R87) -/

/-- PFn writes its own vote word; from any other function the write is ignored (R83). -/
def execVoteWrite (a : Acc) (n : Fin 3) (x : Word) (s : State) : Out :=
  hostWrite (.voteWrite a n x) a (fun d => if a.who.code = n.val then (d.wr MOOT.pg MOOT.VOTE_DOMS x.toNat (i := n.val)).letGo else d) s

/-- GPIO0 and GPIO1 wake on the edge WAKE_EDGE names; GENLOCK_IN on a rising one (R83). -/
def Dev.wakeEdge (d : Dev) (src : Nat) (rising : Bool) : Bool :=
  let e := d.rd MOOT.pg MOOT.WAKE_EN_WAKE_EDGE
  if src = 1 then rising
  else if src = 2 || src = 3 then (e == 0 && rising) || (e == 1 && !rising) || e == 2 else true

/-- A wake source fires; the partner's exit from L1 that HOST names is one whether or not the source is enabled (R74, R87). -/
def execWakeSourceFire (src : Fin 6) (rising : Bool) (s : State) : Out :=
  finish (fun d =>
    let d := d.onlyIf (src.val == 0) (·.leaveL1)
    if d.wakeEdge src.val rising then (d.fireWake src.val).srWake src.val else d) s

/-- WAKE_HOLD bits written as 1 clear (R87). -/
def execWakeHoldClear (a : Acc) (x : Word) (s : State) : Out :=
  hostWrite (.wakeHoldClear a x) a (fun d => d.guarded a MOOT.pg 0x084 fun d => (d.putWord MOOT.pg 0x084 (d.word MOOT.pg 0x084 &&& ~~~x)).letGo) s

/-- The alarm (R99). -/
def execAlarmFire (s : State) : Out :=
  finish (fun d =>
    let at_ := d.rd AOBB.pg AOBB.ALARM_LO_NS_LO + 2 ^ 32 * d.rd AOBB.pg AOBB.ALARM_HI_NS_HI
    if d.on AOBB.pg AOBB.ALARM_CTL_ARM && decide (at_ ≤ d.devtime) then
      let d := (d.wr AOBB.pg AOBB.ALARM_CTL_ARM 0).wr AOBB.pg AOBB.ALARM_CTL_FIRED 1
      (((d.raise AOBB.pg 0).fireWake 4).srWake 4)
    else d) s

/-! ### A domain stops (R85, R86) -/

/-- A port's raster has lost its clock: an underrun, but for a HELD port (R94, R234, R398). -/
def Dev.rasterClockLost (d : Dev) (p : Nat) : Dev :=
  if d.portState p = 1 then d.underrun p (d.portR p).line d.scan.now else d

/-- Domain n leaves ON_PLL (R94, R172): images under way are dropped, a rectangle that composes is QUEUED again. -/
def Dev.leftPll (d : Dev) (n : Nat) : Dev :=
  if n = 3 then d.couchStops
  else if n = 4 || n = 5 then d.rasterClockLost (n - 4)
  else d

/-- A memory group's bank as its group drops (R120): OFF, or SIGN, where a LOST bank is marked to be LOST again (R122). A zero-fill
of a handover ends with it. -/
def Dev.bankDrops (d : Dev) (b : Nat) : Dev :=
  let st := d.bankState b
  if st = 8 || st < 3 then d
  else
    let r := { d.bankRec b with zeroFill := (d.bankRec b).zeroFill && d.handover b }
    if d.on BANKS.pg BANKS.BANK_CFG_DROP_OFF (i := b) || d.owner b = 0 then
      ((d.eraseBank b).setBankRec b { r with markLost := r.markLost || st == 6 }).setBankState b 0
    else (d.setBankRec b { r with markLost := r.markLost || st == 6 }).setBankState b 1

/-- A memory group's bank as its group wakes (R121). -/
def Dev.bankWakes (d : Dev) (b : Nat) : Dev :=
  let st := d.bankState b
  if st = 2 then d.setBankState b 3 else if st = 0 then d.setBankState b 4 else d

def groupBanks (n : Nat) : List Nat := (List.range 8).map (8 * (n - 8) + ·)

/-- D1 drops: what it works on before a commit point is lost (R86): a Granary or mailbox command and a Trim run end ABORTED (log entry
40); an SMBus transfer ends, and its RESULT is not stated: a free value (log entry 3). -/
def Dev.mgmtLost (d : Dev) : Dev :=
  let d := if d.on SENSE.pg SENSE.SMB_STAT_BUSY then
      let q := d.takeNat 5
      (q.2.wr SENSE.pg SENSE.SMB_STAT_BUSY 0).wr SENSE.pg SENSE.SMB_STAT_RESULT q.1
    else d
  let d := match d.nv.cmd with | some c => d.onlyIf (c.step == 1) (·.nvAbort 15) | none => d
  let d := match d.mgmt.cmd with | some c => d.onlyIf (c.step == 1) (·.mbAbort 15) | none => d
  d.trimAbort 15

/-- What a domain's blocks lose as it drops (R86): a scan domain its Calender's copies and loads not past their commit point, and
the link unless the panel holds; D1 leaves the event part of ALERT_N as it was (R388); D2 the link. -/
def Dev.workLost (d : Dev) (n : Nat) : Dev :=
  if n = 1 then let d := d.mgmtLost; { d with host := { d.host with alertHeld := d.alertEvent } }
  else if n = 2 then ({ d with pwr := { d.pwr with phyLock := false } } : Dev).linkDown (if d.pwr.perst then 7 else 0) false
  else if n = 3 then d.toneStop
  else if n = 4 || n = 5 then
    let p := n - 4
    let d := ((d.calModeChange p).stressStop p)
    let d := d.setCal p { d.calSt p with work := [], fifo := [] }
    let d := if d.portState p = 5 then d else (d.tdlCmdDrop p).setTdlState p 0
    d.trainCut p
  else if 8 ≤ n then (groupBanks n).foldl (fun d b => d.bankDrops b) d
  else d

/-- DROP_DELAY ends without a hold (R85, R420). -/
def Dev.dropStart (d : Dev) (n : Nat) : Dev :=
  if d.dom n != 6 || d.hold n then d
  else
    let pll := (d.domRec n).prev == 4
    let d := d.setDom n 7
    let d := d.wr CLOCK.pg CLOCK.DOM_SRC_SRC (b2n (bit (d.word CLOCK.pg 0x04C).toNat n)) (j := n - 1)
    (((d.onlyIf pll (·.leftPll n)).workLost n).moot).vnegFollow

def execDropDelayExpire (n : Fin 16) (s : State) : Out := finish (fun d => d.dropStart n.val) s

/-- A dropping domain is off once its banks are in their drop state (R85); a hold that has come back wakes it again. -/
def Dev.dropDone (d : Dev) (n : Nat) : Dev :=
  if d.dom n != 7 || (8 ≤ n && (groupBanks n).any fun b => d.bankState b == 1) then d
  else ((d.setDom n 0).setDomRec n Dom.off).moot

def execDomainDropDone (n : Fin 16) (s : State) : Out := finish (fun d => d.dropDone n.val) s

/-! ### Brown-out and thermal trip (R33, R35, R45) -/

/-- The RAIL_EN outputs of port p still high, in the reverse of its power-on order. -/
def Dev.railsDown (d : Dev) (p : Nat) : List Nat :=
  (List.range 6).reverse.filterMap fun k =>
    let r := d.rd (PANEL.pg p) PANEL.SEQ_RAIL (i := k)
    if d.seqUse p k && bit d.pwr.rails r then some r else none

/-- D1 goes off with a thermal trip (R45), and loses what a drop loses (R86, R388). -/
def Dev.mgmtOff (d : Dev) : Dev := ((d.onlyIf (d.domOn 1) (·.workLost 1)).setDom 1 0).setDomRec 1 Dom.off

/-- The rail-off sequence ends (R33): tripped (R45); or the power-on reset that follows, at once where the supplies are back, else held
until they are (R31). -/
def Dev.railsDone (d : Dev) : Dev :=
  match d.pwr.seqOff with
  | none => d
  | some q =>
    let d := { d with pwr := { d.pwr with seqOff := none } }
    if q.thermal then ({ d with pwr := { d.pwr with tripped := true } } : Dev).mgmtOff
    else
      let d := { d with pwr := { d.pwr with due := 3 } }
      match q.again with
      | some p => d.powerOn 3 p
      | none => d.awaitReset false

/-- The next RAIL_EN of the sequence drops; with none left the sequence ends. -/
def Dev.railsNext (d : Dev) : Dev :=
  match d.pwr.seqOff with
  | some q =>
    match q.rails with
    | r :: l => ({ d with pwr := { d.pwr with seqOff := some { q with rails := l } } } : Dev).setRails (clearBit d.pwr.rails r)
    | [] => d.railsDone
  | none => d

/-- The sequence of R33: EMIT low, the Granary page in progress finished and no other begun, D2 to D15 off at once with the rasters,
images and link they carry, a wake or drop of D1 abandoned (R98), the bias outputs and GCLK off with D4 to D7, the first RAIL_EN
dropped: port A's rails go first, then port B's (R342). -/
def Dev.railsOff (d : Dev) (thermal : Bool) : Dev :=
  let d : Dev := { d with pwr := { d.pwr with seqOff := some ⟨thermal, [], none⟩ } }
  let d := (((d.emit 0 false).emit 1 false).nvBrownout)
  let d := d.onlyIf (d.clockState 3 == 4) (·.leftPll 3)
  let d := (({ d with pwr := { d.pwr with phyLock := false } } : Dev).linkDown (if d.pwr.perst then 7 else 0) false)
  let d : Dev := { d.closeWindows with scan := { d.scan with run := false, starting := false, entering := false, exiting := false } }
  let d := (List.range 14).foldl (fun d i => (d.setDom (i + 2) 0).setDomRec (i + 2) Dom.off) d
  let d := if d.dom 1 = 6 then d.setDom 1 (d.domRec 1).prev
    else if d.dom 1 = 1 || d.dom 1 = 2 || d.dom 1 = 7 then (d.setDom 1 0).setDomRec 1 Dom.off else d
  let d := [0, 1].foldl (fun d p =>
    d.setPanel p { d.panelSt p with wait := .none, gclk := false, vref := false }) ({ d with pwr := { d.pwr with bias := [] } } : Dev)
  let d := d.vnegFollow
  ({ d with pwr := { d.pwr with seqOff := some ⟨thermal, (d.railsDown 0 ++ d.railsDown 1).eraseDups, none⟩ } } : Dev).railsNext

/-- VIN falls below VIN_BO (R33). One sequence serves a brown-out and a thermal trip that coincide. -/
def execBrownout (s : State) : Out :=
  finish (fun d =>
    let d := { d with pwr := { d.pwr with vin := false } }
    if d.pwr.held || d.pwr.tripped then d
    else
      let d := d.aoLog 6
      match d.pwr.seqOff with
      | some q => { d with pwr := { d.pwr with seqOff := some { q with again := none } } }
      | none => d.railsOff false) s

/-- Tj reaches 115 °C (R45). -/
def execThermalTrip (s : State) : Out :=
  finish (fun d =>
    if d.pwr.held || d.pwr.tripped then d
    else
      let d := (d.aoLog 5).wr AOBB.pg AOBB.AO_LOG_CAUSE 4
      match d.pwr.seqOff with
      | some q => { d with pwr := { d.pwr with seqOff := some { q with thermal := true } } }
      | none => d.railsOff true) s

/-- A power-off delay of the sequence ends (R33). -/
def execRailOffDelayExpire (s : State) : Out := finish (fun d => d.railsNext) s

/-- VHOLD falls below 6.0 V before the sequence ends (R35): every RAIL_EN drops. -/
def execHoldupShort (s : State) : Out :=
  finish (fun d =>
    match d.pwr.seqOff with
    | some q =>
      (({ d with pwr := { d.pwr with vin := false, vhold := false, seqOff := some { q with again := none } } } : Dev).aoLog 4 |>.setRails 0).railsDone
    | none => d) s

/-- VAO goes away (R25, R31, R32, R100): device time is lost, and with D0 everything but what R101 keeps; the device waits for its
reset, tripped still after a thermal trip (R45). In a brown-out VHOLD feeds D0, and the sequence runs on (R33). -/
def Dev.vaoLost (d : Dev) : Dev :=
  let d := { d with pwr := { d.pwr with vao := false }, tm := ⟨0, 0, false, 0, 0⟩ }
  match d.pwr.seqOff with
  | some q =>
    if !d.pwr.vin then { d with pwr := { d.pwr with seqOff := some { q with again := none } } }
    else
      let d : Dev := if q.thermal then d else { d with pwr := { d.pwr with due := 3 } }
      ({ d with pwr := { d.pwr with seqOff := none } } : Dev).awaitReset q.thermal
  | none => d.awaitReset d.pwr.tripped

/-- A supply goes away (R25, R31, R378): with both VAO and VBAT, the battery-backed words are lost. -/
def execSupplyRemoved (x : Supply) (s : State) : Out :=
  finish (fun d =>
    let d := match x with
      | .vao => d.vaoLost
      | .vio => { d with pwr := { d.pwr with vio := false } }
      | .vbat => { d with pwr := { d.pwr with vbat := false } }
    if d.pwr.vao || d.pwr.vbat then d else d.bbReinit) s

/-! ### A domain wakes (R88, R96, R97) -/

/-- The regulator of a waking domain is enabled in its turn: FIRC ready, or the wake on the slow clock; lower domains first. -/
def execRegulatorEnable (n : Fin 16) (s : State) : Out :=
  finish (fun d =>
    let n := n.val
    let r := d.domRec n
    let ready (k : Nat) : Bool := d.dom k == 1 && !(d.domRec k).regOn && (d.on CLOCK.pg CLOCK.OSC_STAT_FIRC_READY || (d.domRec k).slow)
    if ready n && !(List.range n).any ready then d.setDomRec n { r with regOn := true } else d) s

/-- D1 is on again: every vector with a deliverable event is requested (R388). -/
def Dev.crierWakes (d : Dev) : Dev :=
  (List.range 256).foldl (fun d e => if d.deliverable e then d.request (d.routeFn e) (d.routeVec e) else d) d

/-- Filpor starts from the Granary (R102, R411); the Aging unit shows the snapshots that stand there (R286). -/
def Dev.filporStarts (d : Dev) : Dev := ((({ d with pwr := { d.pwr with fwBoot := false } } : Dev).boot none 0).snapShow 0).snapShow 1

/-- Power-good (R88): the domain is released, ON_FIRC or, after a FIRC failure, ON_SLOW with SRC 0b10 (R93, R420); a memory
group's banks start VERIFY or ZEROING (R121). -/
def Dev.powerGood (d : Dev) (n : Nat) : Dev :=
  let r := d.domRec n
  if d.dom n != 1 || !r.regOn then d
  else
    let d := (d.setDom n (if r.slow then 5 else 3)).setDomRec n { r with attempt := 0 }
    let d := if r.slow then d.wr CLOCK.pg CLOCK.DOM_SRC_SRC 2 (j := n - 1) else d
    let d := if n = 1 then (d.onlyIf d.pwr.fwBoot (·.filporStarts)).crierWakes else if 8 ≤ n then (groupBanks n).foldl (fun d b => d.bankWakes b) d else d
    (((d.moot).vnegFollow).resumeTrain).onlyIf (n == 4 || n == 5) (·.snapDue)

def execPowerGood (n : Fin 16) (s : State) : Out := finish (fun d => d.powerGood n.val) s

/-! ### Lost contents (R121, R122, R142) -/

/-- What an item meets whose contents are lost (R121, R122, R172, R211, R266, R281, R137). -/
def Dev.itemLost (d : Dev) (k : ItemKind) : Dev :=
  match k with
  | .image s b =>
    let k := d.imgNo s b
    if d.mode.part then (d.setImg s { d.img s with lost := true }).rectsLost s
    else if d.imgState k = 3 then
      let d := d.setImg k { d.img k with lost := true }
      let d := d.askPass
      if d.scan.exiting && !d.scan.d3Vote then d.scanVote true true else d
    else d.dropImageBank k
  | .demura p => (d.reloadStart (.demura p)).holdEmit
  | .stress p => (d.reloadStart (.stress p)).stressLost p
  | .aux => d.auxLost
  | .layer => d.dropCaches
  | .stage => d

/-- The item that holds bank b. -/
def Dev.itemOf (d : Dev) (b : Nat) : Option ItemKind := (d.reeve.items.find? fun it => it.banks.contains b).map (·.kind)

/-- VERIFY ends (R121): READY on a match with no uncorrectable word and no mark, else LOST with all its consequences. -/
def Dev.verifyDone (d : Dev) (b : Nat) (ecc : Ecc) : Dev :=
  if d.bankState b != 3 then d
  else
    let d := d.eccMeet (fun x => bankOf x == b) ecc
    let r := d.bankRec b
    let lost := r.markLost || (d.bank.bad.any fun w => w / 2 ^ 21 == b) || crc64 (d.bytes (b * 2 ^ 24) (2 ^ 24)) != r.sig
    let d := d.setBankRec b { r with markLost := false, rewritten := [] }
    let d := if lost then
        let d := (d.setBankState b 6).errAt BANKS.pg E.RETENTION_LOST BANKS.pg (0x200 + 4 * b) 15 0
        let d := (d.fault { cls := 0x05, detail := d.region b, loc := b }).raise BANKS.pg 3
        match d.itemOf b with
        | some k => d.itemLost k
        | none => d
      else d.setBankState b 5
    (d.bankReady b).resumeTrain

def execBankVerifyDone (b : Fin 64) (ecc : Ecc) (s : State) : Out := finish (fun d => d.verifyDone b.val ecc) s

/-- A bank of a FAILED group is replaced, without its contents (R142, R395). -/
def Dev.failBank (d : Dev) (b : Nat) : Dev :=
  match d.itemOf b with
  | none => d
  | some k =>
    let d := d.replaceBank b false
    match k with
    | .demura p => d.demuraReplaced p
    | .stress p => d.stressReplaced p
    | k => d.itemLost k

/-- Power-good does not come (R96): RETRY_WAIT, and after the fourth attempt FAILED. -/
def Dev.pgTimeout (d : Dev) (n : Nat) : Dev :=
  let r := d.domRec n
  if d.dom n != 1 || !r.regOn then d
  else if r.attempt < 4 then (d.setDom n 2).setDomRec n { r with regOn := false }
  else
    let d := ((d.setDom n 8).setDomRec n Dom.off).aoLog (16 + n)
    let d := d.fault { cls := 0x0B, state := 2, loc := n }
    let d := if 8 ≤ n then (groupBanks n).foldl (fun d b => d.failBank b) d else d
    let d := d.moot
    d.onlyIf (d.exitHolds n) (·.exitRefused E.STATE)

def execPgTimeoutExpire (n : Fin 16) (s : State) : Out := finish (fun d => d.pgTimeout n.val) s

/-- A backoff ends (R96): the regulator is enabled again, with FIRC started if it has stopped (R88). -/
def execRetryBackoffExpire (n : Fin 16) (s : State) : Out :=
  finish (fun d =>
    let r := d.domRec n.val
    if d.dom n.val = 2 then (((d.setDom n.val 1).setDomRec n.val { r with regOn := true, attempt := r.attempt + 1 }).startFirc).moot
    else d) s

/-- RETRY (R83, R97): a fresh wake of each FAILED domain named; E_STATE for one that is not FAILED. `same`: the last hold of the
named domains was withdrawn in this clock cycle, so one that is OFF by that stays OFF without error (R98). -/
def Dev.retry (d : Dev) (who : Req) (x : Word) (same : Bool) : Dev :=
  ((List.range 15).foldl (fun d i =>
    let n := i + 1
    if !bit x.toNat n then d
    else if d.dom n = 8 then d.startWake n
    else if same && d.dom n = 0 && !d.hold n then d
    else d.err MOOT.pg E.STATE 0x108 who.code) d).moot

def execDomainRetry (a : Acc) (x : Word) (s : State) : Out :=
  hostWrite (.domainRetry a x) a (fun d => d.guarded a MOOT.pg 0x108 fun d => d.retry a.who x a.same) s

end Sys2Proof.Machine
end

