-- ==== Sys2Proof/Machine/Clocks.lean ====
section
/-! DEFINITION. Clocks (R88-R95, R100, R420) and the Sense unit with its SMBus master (R103-R107). -/

namespace Sys2Proof.Machine

/-! ### FIRC (R88, R93) -/

def execFircReady (s : State) : Out :=
  finish (fun d =>
    if !d.pwr.fircStarting then d
    else
      let d := { d with pwr := { d.pwr with fircStarting := false } }
      let d := (d.wr CLOCK.pg CLOCK.OSC_STAT_FIRC_READY 1).wr CLOCK.pg CLOCK.OSC_STAT_FIRC_FAILED 0
      ((d.cond CLOCK.pg 0 false).moot).resumeTrain) s

/-- FIRC is not ready 20 µs after its start (R93, R401): every waking domain continues on the slow clock. -/
def Dev.fircFails (d : Dev) : Dev :=
  let d := { d with pwr := { d.pwr with fircStarting := false } }
  let d := ((d.wr CLOCK.pg CLOCK.OSC_STAT_FIRC_FAILED 1).cond CLOCK.pg 0 true).aoLog 8
  let d := d.fault { cls := 0x11 }
  let d := (List.range 15).foldl (fun d i =>
    if d.dom (i + 1) = 1 then d.setDomRec (i + 1) { d.domRec (i + 1) with slow := true } else d) d
  d.exitRefused E.CLOCK_NOT_READY

def execFircFail (s : State) : Out := finish (fun d => if d.pwr.fircStarting then d.fircFails else d) s

/-- FIRC_CTL.RESTART (R93). -/
def execFircRestart (a : Acc) (s : State) : Out :=
  hostWrite (.fircRestart a) a (fun d => d.guarded a CLOCK.pg 0x050 fun d =>
    if d.on CLOCK.pg CLOCK.OSC_STAT_FIRC_FAILED then d.startFirc else d) s

/-! ### The crystals (R95, R100) -/

def execXtalStable (s : State) : Out :=
  finish (fun d => { d.wr CLOCK.pg CLOCK.OSC_STAT_XTAL_OK 1 with tm := { d.tm with run := true } }) s

def execXt32Fail (s : State) : Out :=
  finish (fun d =>
    if !d.on CLOCK.pg CLOCK.OSC_STAT_XT32_OK then d
    else
      let d := (d.wr CLOCK.pg CLOCK.OSC_STAT_XT32_OK 0).cond CLOCK.pg 2 true
      (d.aoLog 7).fault { cls := 0x11, loc := 1 }) s

/-- One XTAL cycle, 40 ns (R100): DEVTIME advances, less a correction of 500 ppm while an offset is slewed away (R241). -/
def Dev.tick (d : Dev) : Dev :=
  if !d.tm.run then d
  else
    let c : Int := if d.tm.slew < 0 then -1 else if 0 < d.tm.slew then 1 else 0
    let n := ((d.tm.frac + 2000 : Nat) + c).toNat
    { d with tm := { d.tm with ns := d.tm.ns + n / 50, frac := n % 50, slew := d.tm.slew - c } }

/-- A cycle of device time in which nothing is commanded (R100, R126). -/
def Dev.cycle (d : Dev) : Dev := d.tick.mtestTake

/-! ### PLLs (R89, R94) -/

/-- Number of a PLL in OSC_STAT, PLL_EN and the PLL fault's record; 4: the PCIe PHY's. -/
def pllNo : Pll → Nat
  | .core => 0 | .mgmt => 1 | .portA => 2 | .portB => 3 | .phy => 4

/-- PLL k is locked. -/
def Dev.locked (d : Dev) (k : Nat) : Bool := if k = 4 then d.pwr.phyLock else bit (d.word CLOCK.pg 0x040).toNat (3 + k)

/-- The PLLs that domain n's PLL source needs (R89). -/
def pllsOf (n : Nat) : List Nat :=
  if n = 2 then [4] else if n = 4 then [0, 2] else if n = 5 then [0, 3] else if n = 1 || n = 6 || n = 7 then [1] else [0]

def Dev.pllReady (d : Dev) (n : Nat) : Bool := (pllsOf n).all d.locked

def Dev.setClock (d : Dev) (n st : Nat) : Dev :=
  if d.dom n = 6 then d.setDomRec n { d.domRec n with prev := st } else d.setDom n st

def Dev.setSrc (d : Dev) (n v : Nat) : Dev := d.wr CLOCK.pg CLOCK.DOM_SRC_SRC v (j := n - 1)

/-- Domain n, on, goes to its PLL source. -/
def Dev.toPll (d : Dev) (n : Nat) : Dev := (d.setClock n 4).setSrc n 1

/-- Domain n, on, goes to FIRC. -/
def Dev.toFirc (d : Dev) (n : Nat) : Dev := (d.setClock n 3).leftPll n

/-- A PLL loses lock, or is disabled: every domain clocked from it goes to FIRC; SRC keeps 0b01, so that Filpor switches it
back on relock (R94). One lost while Filpor restarts is restarted when Filpor resumes (R400). -/
def Dev.pllLost (d : Dev) (k : Nat) : Dev :=
  let d := if k = 4 then { d with pwr := { d.pwr with phyLock := false } }
    else d.putWord CLOCK.pg 0x040 (d.word CLOCK.pg 0x040 &&& ~~~(BitVec.ofNat 32 (2 ^ (3 + k))))
  let d := d.raise CLOCK.pg 1
  let d : Dev := if d.rd MGMT.pg HDR.PG_STAT_STATE == 3 then { d with pwr := { d.pwr with pllWait := d.pwr.pllWait ||| 2 ^ k } } else d
  let d := if k < 4 then d.fault { cls := 0x0A, loc := k } else d
  let d := (List.range 15).foldl (fun d i =>
    if d.clockState (i + 1) = 4 && (pllsOf (i + 1)).contains k then d.toFirc (i + 1) else d) d
  d.moot

/-- D2 switches itself to its PHY clock, and the link trains (R90). DESIGN CHOICE: so does a D2 that reads ON_SLOW, of which R420 says
that only a write switches it (log entry 66). -/
def Dev.phyLocks (d : Dev) : Dev :=
  if d.pwr.perst || !d.domOn 2 || bit d.pwr.pllWait 4 then d
  else
    let d := ({ d with pwr := { d.pwr with phyLock := true } } : Dev).toPll 2
    (if d.link = 0 then d.wr HOSTIF.pg HDR.PG_STAT_STATE 1 else d).moot

/-- PLL k, enabled, locks with XTAL stable (R89); in SR2 the port PLLs are off (R225). -/
def Dev.pllLocks (d : Dev) (k : Nat) : Dev :=
  let off := d.rd SCAN.pg SCAN.SR_STAT_STATE == 2 && !d.scan.exiting && 2 ≤ k
  if off || !bit (d.word CLOCK.pg 0x044).toNat k || !d.on CLOCK.pg CLOCK.OSC_STAT_XTAL_OK || d.pwr.held || d.pwr.tripped || bit d.pwr.pllWait k then d
  else ((d.putWord CLOCK.pg 0x040 (d.word CLOCK.pg 0x040 ||| BitVec.ofNat 32 (2 ^ (3 + k)))).moot).resumeTrain

def execPllLock (p : Pll) (s : State) : Out := finish (fun d => if p = .phy then d.phyLocks else d.pllLocks (pllNo p)) s

def execPllUnlock (p : Pll) (s : State) : Out := finish (fun d => if d.locked (pllNo p) then d.pllLost (pllNo p) else d) s

/-- One field of a DOM_SRC write (R89, R91, R420): 0b10 and 0b11 are dropped with E_RANGE whatever the field reads. DESIGN CHOICE: a switch of an ON_SLOW domain to FIRC while
FIRC is not ready is dropped with E_CLOCK_NOT_READY, as R89 drops one to a PLL that is not locked (log entry 61). -/
def Dev.srcField (d : Dev) (who n v : Nat) : Dev :=
  let bad (d : Dev) (c : Nat) := d.err CLOCK.pg c 0x048 who
  if 2 ≤ v then bad d E.RANGE
  else if !d.domOn n then d.setSrc n v
  else
    let st := d.clockState n
    if v = 1 then
      if st = 4 then d.setSrc n 1
      else if d.pllReady n then d.toPll n
      else bad d E.CLOCK_NOT_READY
    else if st = 5 then
      if d.on CLOCK.pg CLOCK.OSC_STAT_FIRC_READY then (d.setClock n 3).setSrc n 0 else bad d E.CLOCK_NOT_READY
    else if st = 4 then (d.toFirc n).setSrc n 0
    else d.setSrc n 0

/-- A write of the DOM_SRC fields that have a bit in m (R47, R91). -/
def Dev.domSrc (d : Dev) (who : Req) (x m : Word) : Dev :=
  let d := (List.range 15).foldl (fun d i =>
    if getBits m (2 * i + 2) 2 = 0 then d else d.srcField who.code (i + 1) (getBits x (2 * i + 2) 2)) d
  d.moot.resumeTrain

def execDomSrcWrite (a : Acc) (x : Word) (s : State) : Out :=
  hostWrite (.domSrcWrite a x) a (fun d => d.guarded a CLOCK.pg 0x048 fun d => d.domSrc a.who x 0xFFFFFFFF) s

/-- Filpor switches a domain that wants its PLL source (R90, R94, R420), and D1 in its boot (R102). -/
def Dev.autoSwitch (d : Dev) (n : Nat) : Dev :=
  let want := d.rd CLOCK.pg CLOCK.DOM_SRC_SRC (j := n - 1) == 1 || (n == 1 && d.pwr.d1Boot)
  if n = 0 || d.clockState n != 3 || !want || !d.pllReady n || d.rd MGMT.pg HDR.PG_STAT_STATE == 3 then d
  else
    let d := if n = 1 then { d with pwr := { d.pwr with d1Boot := false } } else d
    ((d.toPll n).moot).resumeTrain

def execAutoPllSwitch (n : Fin 16) (s : State) : Out := finish (fun d => d.autoSwitch n.val) s

/-! ### The Sense unit (R103-R107) -/

/-- EV_PANEL_TEMP's condition (R105). -/
def Dev.ptCond (d : Dev) : Dev :=
  d.cond SENSE.pg 1 ([0, 1].any fun p =>
    let t := sext 16 (d.rd SENSE.pg SENSE.PT_TEMP (i := p))
    d.rd SENSE.pg SENSE.PT_CFG_SRC (i := p) != 0 &&
      (!d.on SENSE.pg SENSE.PT_VALID (i := p) || decide (t < sext 16 (d.rd SENSE.pg SENSE.PT_LIM_LO (i := p))) ||
        decide (sext 16 (d.rd SENSE.pg SENSE.PT_LIM_HI (i := p)) < t)))

/-- EV_SUPPLY's condition (R105). -/
def Dev.supplyCond (d : Dev) : Dev :=
  d.cond SENSE.pg 2 (d.rd SENSE.pg SENSE.SUPPLY_STAT_OUT &&& d.rd SENSE.pg SENSE.SUP_EN_EN != 0)

/-- Supplies outside their windows (R30, R105), as SUPPLY_STAT shows them. -/
def supplyOut (r : Readings) : Nat :=
  let out (x lo hi : Nat) : Bool := decide (x < lo) || decide (hi < x)
  b2n (out r.vin 10800 13200) + 2 * b2n (out r.vhold 9000 13200) + 4 * b2n (out r.vao 3135 3465) +
    8 * b2n (out r.vio 1710 1890) + 16 * b2n (out r.vbat 2000 3600)

/-- The means of a millisecond are published (R103), judged (R105), averaged (R304) and held against TRIM_DT (R360). DEDUCED: the
readings are statistics, which FREEZE holds (R49; log entry 61). VIO and VBAT are there when they read within R30, so one applied to a
running device is seen here (R31; DEDUCED, log entry 61). -/
def Dev.sample (d : Dev) (r : Readings) : Dev :=
  let mw := satU 16 r.mw
  let out := supplyOut r
  let d := { d with pwr := { d.pwr with vio := d.pwr.vio || !bit out 3, vbat := d.pwr.vbat || !bit out 4 } }
  let d := d.stat SENSE.pg SENSE.DIE_TEMP_TEMP (toTwos 16 r.temp)
  let d := (d.stat SENSE.pg SENSE.SUP0_VIN_MV (satU 16 r.vin)).stat SENSE.pg SENSE.SUP0_VHOLD_MV (satU 16 r.vhold)
  let d := (d.stat SENSE.pg SENSE.SUP1_VAO_MV (satU 16 r.vao)).stat SENSE.pg SENSE.SUP1_VIO_MV (satU 16 r.vio)
  let d := (d.stat SENSE.pg SENSE.SUP2_VBAT_MV (satU 16 r.vbat)).stat SENSE.pg SENSE.VIN_MW_MW mw
  let d := (d.wr SENSE.pg SENSE.SUPPLY_STAT_OUT out).supplyCond
  let d := if 105 * 256 ≤ r.temp then d.cond SENSE.pg 0 true else if r.temp < 100 * 256 then d.cond SENSE.pg 0 false else d
  ({ d with tithe := { d.tithe with cur := (d.tithe.cur.1 + mw, d.tithe.cur.2 + 1) } } : Dev).trimDue

def execSenseSample (r : Readings) (s : State) : Out := finish (fun d => if d.domOn 1 then d.sample r else d) s

def Dev.ptFail (d : Dev) (k : Nat) : Nat := mget (fun _ => 0) d.pwr.ptFails k
def Dev.setPtFail (d : Dev) (k v : Nat) : Dev := { d with pwr := { d.pwr with ptFails := mset (fun _ => 0) d.pwr.ptFails k v } }

/-- The S8.8 reading of a polled word (R104): FMT 1 holds its first byte, the low one of data, as the high byte. -/
def ptDecode (fmt data : Nat) : Nat :=
  if fmt = 0 then data % 2 ^ 16 else (data % 256 * 256 + data / 256 % 256) / 16 * 16

/-- A panel-temperature poll over SMBus (R104, R106): the third failure in a row clears VALID. Of a lost arbitration R104 says
nothing: the poll neither succeeds nor counts as failed. -/
def Dev.ptPoll (d : Dev) (p : Nat) (e : SmbEnd) : Dev :=
  if !d.domOn 1 || d.rd SENSE.pg SENSE.PT_CFG_SRC (i := p) != 2 then d
  else
    let e := if d.on SENSE.pg SENSE.SMB_CTL_EN then e else .nack
    match e with
    | .ok x =>
      let t := ptDecode (d.rd SENSE.pg SENSE.PT_CFG_FMT (i := p)) x
      ((((d.wr SENSE.pg SENSE.PT_TEMP t (i := p)).wr SENSE.pg SENSE.PT_VALID 1 (i := p)).setPtFail p 0).ptCond).trimDue
    | .arbLost => d
    | _ =>
      let n := min 3 (d.ptFail p + 1)
      let d := d.setPtFail p n
      (if n = 3 then (d.wr SENSE.pg SENSE.PT_VALID 0 (i := p)).ptCond else d).trimDue

def execPanelTempPoll (p : Port) (e : SmbEnd) (s : State) : Out := finish (fun d => d.ptPoll p.val e) s

/-- PT_HOST_x was last written 4 × PERIOD_MS ago (R104). -/
def Dev.ptStale (d : Dev) (p : Nat) : Dev :=
  let d := d.setPtFail (2 + p) 0
  if d.rd SENSE.pg SENSE.PT_CFG_SRC (i := p) = 1 then ((d.wr SENSE.pg SENSE.PT_VALID 0 (i := p)).ptCond).trimDue else d

def execPtHostStale (p : Port) (s : State) : Out := finish (fun d => d.ptStale p.val) s

/-- PT_HOST_x is written (R104). -/
def Dev.ptHostWritten (d : Dev) (p : Nat) : Dev :=
  let d := d.setPtFail (2 + p) 1
  if d.rd SENSE.pg SENSE.PT_CFG_SRC (i := p) = 1 then
    (((d.wr SENSE.pg SENSE.PT_TEMP (d.rd SENSE.pg SENSE.PT_HOST_TEMP (i := p)) (i := p)).wr SENSE.pg SENSE.PT_VALID 1 (i := p)).ptCond).trimDue
  else d

/-- The source of port p's temperature is changed (R104): VALID speaks of the new one. -/
def Dev.ptSrcChanged (d : Dev) (p : Nat) : Dev :=
  let d := (d.setPtFail p 0).wr SENSE.pg SENSE.PT_VALID 0 (i := p)
  if d.rd SENSE.pg SENSE.PT_CFG_SRC (i := p) = 1 && d.ptFail (2 + p) = 1 then
    (d.wr SENSE.pg SENSE.PT_TEMP (d.rd SENSE.pg SENSE.PT_HOST_TEMP (i := p)) (i := p)).wr SENSE.pg SENSE.PT_VALID 1 (i := p)
  else d

/-- A host SMBus transfer (R106); the Sense unit runs in D1 (R86, R96). -/
def Dev.smbGo (d : Dev) (who : Req) (x : Word) : Dev :=
  if !d.on SENSE.pg SENSE.SMB_CTL_EN || !d.domOn 1 then d.err SENSE.pg E.STATE 0x084 who.code
  else if d.on SENSE.pg SENSE.SMB_STAT_BUSY then d.err SENSE.pg E.BUSY 0x084 who.code
  else
    let d := d.storeRw SENSE.pg 0x084 x
    { d.wr SENSE.pg SENSE.SMB_STAT_BUSY 1 with pwr := { d.pwr with smbOp := d.rd SENSE.pg SENSE.SMB_XFER_OP } }

def execSmbXferGo (a : Acc) (x : Word) (s : State) : Out :=
  hostWrite (.smbXferGo a x) a (fun d => d.guarded a SENSE.pg 0x084 fun d => d.smbGo a.who x) s

def smbResult : SmbEnd → Nat
  | .ok _ => 0 | .nack => 1 | .pecErr => 2 | .timeout => 3 | .arbLost => 4

/-- A host SMBus transfer ends (R106): a read, by the OP it started with, leaves its byte or word in SMB_DATA. -/
def Dev.smbDone (d : Dev) (e : SmbEnd) : Dev :=
  if !d.on SENSE.pg SENSE.SMB_STAT_BUSY then d
  else
    let d := (d.wr SENSE.pg SENSE.SMB_STAT_BUSY 0).wr SENSE.pg SENSE.SMB_STAT_RESULT (smbResult e)
    let op := d.pwr.smbOp
    match e with
    | .ok x => if op = 0 then d.wr SENSE.pg SENSE.SMB_DATA_DATA (x % 256) else if op = 2 then d.wr SENSE.pg SENSE.SMB_DATA_DATA x else d
    | _ => d

def execSmbXferDone (e : SmbEnd) (s : State) : Out := finish (fun d => d.smbDone e) s

end Sys2Proof.Machine
end

