-- ==== Sys2Proof/Machine/Registers.lean ====
section
/-! DEFINITION. Register accesses over BAR0 (R4-R9, R46-R51, R67, R78): plain and alias writes of any register, reads with
their side effects, and soft reset. A write whose register or bit has a command of its own runs that command. -/

namespace Sys2Proof.Machine

/-! ### Reading (R4, R6, R49, R57) -/

/-- PG_STAT: BUSY also tells of a commit check of the page's group, ERR of an error code; CAL's and MTEST's STATE are computed (R49). -/
def Dev.pgStat (d : Dev) (pg : Nat) : Word :=
  let x := d.word pg 0x008
  let checking := match pageGroup pg with | some g => (d.grp g.num).check.isSome | none => false
  let x := if checking then x ||| 1 else x
  let x := if d.rd pg HDR.ERR_CODE_CODE = 0 then x else x ||| 2
  if pg = CAL.pg 0 || pg = CAL.pg 1 then setBits x 4 4 (d.calState (pg - CAL.pg 0))
  else if pg = MTEST.pg then setBits x 4 4 d.mtestState
  else if pg = WMARK.pg then setBits x 4 4 (b2n d.wmChecking) else x

/-- COMMIT_STAT: the group's, on each of its pages (R52, R57). -/
def Dev.commitStat (d : Dev) (pg : Nat) : Word :=
  match pageGroup pg with
  | some g =>
    let x := d.grp g.num
    BitVec.ofNat 32 (x.target % 2 ^ 24 + x.result % 16 * 2 ^ 24 + b2n x.replaced * 2 ^ 28)
  | none => d.word pg 0x020

/-- ALERT_STAT (R386, R389). -/
def Dev.alertStat (d : Dev) : Word :=
  let first := (List.range 256).find? fun e => d.on CRIER.pg CRIER.ROUTE_ALERT (i := e) && d.deliverable e
  BitVec.ofNat 32 (b2n d.alertLow + 2 * b2n first.isSome + 4 * b2n d.anyFailed +
    match first with | some e => e * 2 ^ 8 + 2 ^ 16 | none => 0)

/-- 32 events from event 32n on, as a word. -/
def evWord (n : Nat) (f : Nat → Bool) : Word :=
  BitVec.ofNat 32 ((List.range 32).foldl (fun x i => if f (32 * n + i) then x + 2 ^ i else x) 0)

/-- HOLD (R83): domains held by votes, and by dependencies. DEDUCED: bit 17 tells that another domain holds D1; VOTE3, which R80
counts among D1's dependencies too, shows in VOTED alone, so that DEP reads the 0 of its Reset column (log entry 20). -/
def Dev.holdWord (d : Dev) : Word :=
  let dep (n : Nat) : Bool := if n = 1 then (List.range 14).any fun k => d.domOn (k + 2) else d.dep n
  BitVec.ofNat 32 (d.voted % 2 ^ 16 + (List.range 16).foldl (fun x n => if dep n then x + 2 ^ (16 + n) else x) 0)

/-- PTM_STAT (R68): AGE_MS is the whole ms since the last successful dialogue, saturating. -/
def Dev.ptmStat (d : Dev) : Word :=
  match d.host.ptmAt with
  | some t => setBits (d.word HOSTIF.pg 0x068) 16 16 (satU 16 ((d.devtime - t) / 1000000))
  | none => d.word HOSTIF.pg 0x068

/-- What a register reads in the normal view (R4): the stored word, or what the register shows of other state; a counter under
FREEZE reads what it held (R49). -/
def Dev.readReg (d : Dev) (pg off : Nat) : Word :=
  if !pageDefined pg then 0
  else if liveCount pg off != 0 && d.frozen pg then mux (liveCount pg off) (d.froze.word (rkey pg off)) (d.word pg off)
  else if pg = HOSTIF.pg && off = 0x068 then d.ptmStat
  else if pg = COUCH.pg && decide (0x080 ≤ off ∧ off < 0x0C0) && !d.mode.part && decide (2 * d.mode.s ≤ off / 4 % 8) then 0
  else if off = 0x008 then d.pgStat pg
  else if off = 0x020 then d.commitStat pg
  else if pg = CRIER.pg && off = 0x044 then d.alertStat
  else if pg = CRIER.pg && decide (0x080 ≤ off ∧ off < 0x0A0) then evWord ((off - 0x080) / 4) d.evPend
  else if pg = CRIER.pg && decide (0x0A0 ≤ off ∧ off < 0x0C0) then evWord ((off - 0x0A0) / 4) d.deliverable
  else if pg = MOOT.pg && off = 0x080 then d.holdWord
  else if pg = AOBB.pg && off = 0x040 then BitVec.ofNat 32 d.devtime
  else if (pg = CAL.pg 0 || pg = CAL.pg 1) && off = 0x050 then setBits (d.word pg off) 8 1 (b2n (d.kindLost (pg - CAL.pg 0) 0))
  else if pg = FAULT.pg && off = 0x040 then BitVec.ofNat 32 d.flt.intNs
  else if pg = FAULT.pg && off = 0x048 then BitVec.ofNat 32 d.flt.opNs
  else d.word pg off

/-- A word read through view v (R46, R6): RWS fields read active, through the shadow view pending; through an alias R6 states
no value for them, and which of the two it is stays open (log entry 3). COMPOSE_STAT.LINE is the line of a running compose, SPARE_STAT.PROGRESS_KIB what a running copy has reached, MT_POS.CHUNK what a test of a FREE bank has,
TRAIN_STAT.PHASE the phase of a running training. -/
def Dev.readView (d : Dev) (v pg off : Nat) : Word × Dev :=
  let pending (d : Dev) := mux (rwsBits pg off) (d.sh.word (rkey pg off)) (d.readReg pg off)
  if pg = COUCH.pg && off = 0x05C && d.composing then
    let q := d.composeLine
    (mux 0x1FFF0000 (BitVec.ofNat 32 (q.1 <<< 16)) (d.readReg pg off), q.2)
  else if pg = REEVE.pg && off = 0x088 && d.reeve.mig.isSome then let d := d.migOn; (d.readReg pg off, d)
  else if pg = BANKS.pg && off = 0x048 && d.sparing then let d := d.copyOn; (d.readReg pg off, d)
  else if pg = MTEST.pg && off = 0x044 && d.mtestState = 1 then let d := d.mtestAt; (d.readReg pg off, d)
  else if (pg = TDL.pg 0 || pg = TDL.pg 1) && off = 0x050 && (d.tdlSt (pg - TDL.pg 0)).train != 0 then
    let d := d.trainOn (pg - TDL.pg 0)
    (d.readReg pg off, d)
  else if v = 0 || rwsBits pg off = 0 then (d.readReg pg off, d)
  else if v = 3 then (pending d, d)
  else let q := d.takeBool; (if q.1 then pending q.2 else q.2.readReg pg off, q.2)

/-- What a read of a whole register does (R4, R99, R404): RC fields clear in the normal view; the low words latch their high
words. -/
def Dev.readEffect (d : Dev) (v pg off : Nat) : Dev :=
  let d := if v = 0 && typeMask [.rc] pg off != 0 then d.putWord pg off (d.word pg off &&& ~~~(typeMask [.rc] pg off)) else d
  if pg = AOBB.pg && off = 0x040 then d.putWord AOBB.pg 0x044 (BitVec.ofNat 32 (d.devtime / 2 ^ 32))
  else if pg = FAULT.pg && off = 0x040 then d.putWord FAULT.pg 0x044 (BitVec.ofNat 32 (d.flt.intNs / 2 ^ 32))
  else if pg = FAULT.pg && off = 0x048 then d.putWord FAULT.pg 0x04C (BitVec.ofNat 32 (d.flt.opNs / 2 ^ 32))
  else d

/-- The 32-bit registers that a request for bytes addr to addr + len - 1 touches: the first one's address and how many. -/
def spanOf (addr len : Nat) : Nat × Nat := (addr / 4 * 4, (addr + len + 3) / 4 - addr / 4)

/-- R48's shape: the registers touched fill a naturally aligned block of 4 to 64 bytes. -/
def shapeOk (addr len : Nat) : Bool :=
  let q := spanOf addr len
  [1, 2, 4, 8, 16].contains q.2 && q.1 % (4 * q.2) == 0

/-- A register that is not reserved lies at BAR0 address x, in any view. -/
def definedAt (x : Nat) : Bool := regDefined (x % 2 ^ 20 / 0x4000) (x % 0x1000)

/-- An access of the wrong shape is a violation (R78), unless it touches reserved registers alone (R9), or is a write through the
shadow view, which raises no event (R46). -/
def misshapen (addr len : Nat) (write : Bool) : Bool :=
  let n := spanOf addr len
  (List.range n.2).any fun i => let x := n.1 + 4 * i; definedAt x && !(write && x / 0x1000 % 4 == 3)

/-- A BAR0 read (R46, R48, R78). A register read in part has no RC field cleared; it reads and latches as any read. -/
def Dev.bar0Read (d : Dev) (a : Acc) (addr len : Nat) : Dev :=
  if !shapeOk addr len then (d.onlyIf (misshapen addr len false) (·.violation 0x10 a.who.code a.hdr)).reply (List.replicate len 0)
  else
    let n := spanOf addr len
    let q := (List.range n.2).foldl (fun (q : List Byte × Dev) i =>
      let at_ := (n.1 + 4 * i) % 2 ^ 20
      let v := at_ / 0x1000 % 4
      let r := q.2.readView v (at_ / 0x4000) (at_ % 0x1000)
      let whole := decide (addr ≤ n.1 + 4 * i ∧ n.1 + 4 * i + 4 ≤ addr + len)
      let w := if !whole && v = 0 then 1 else v
      (q.1 ++ leBytes 4 r.1.toNat, r.2.readEffect w (at_ / 0x4000) (at_ % 0x1000))) ([], d)
    q.2.reply ((q.1.drop (addr % 4)).take len)

def execRcRead (a : Acc) (addr len : Nat) (s : State) : Out :=
  hostRead (.rcRead a addr len) a (fun d => d.bar0Read a addr len) s

/-- A read of DEVTIME_LO (R99). -/
def execDevtimeRead (a : Acc) (s : State) : Out :=
  hostRead (.devtimeRead a) a (fun d => (d.readEffect 0 AOBB.pg 0x040).reply (leBytes 4 d.devtime)) s

/-- A read of INTERRUPT_NS_LO or OPERATE_NS_LO (R404). -/
def execInterruptNsRead (a : Acc) (operate : Bool) (s : State) : Out :=
  hostRead (.interruptNsRead a operate) a (fun d =>
    if operate then (d.readEffect 0 FAULT.pg 0x048).reply (leBytes 4 d.flt.opNs)
    else (d.readEffect 0 FAULT.pg 0x040).reply (leBytes 4 d.flt.intNs)) s

/-! ### Soft reset (R51) -/

/-- R51's refusals; dark as R217 defines it. -/
def Dev.softRefused (d : Dev) (pg : Nat) : Bool :=
  if pg = SCAN.pg || pg = SYNC.pg then d.scan.run
  else [0, 1].any fun p => (pg == CAL.pg p || pg == TDL.pg p || pg == PANEL.pg p) && !d.isDark p

/-- The long operations of a page end under R60; rectangles of the device's own go on (R197). -/
def Dev.endPageOps (d : Dev) (pg func : Nat) : Dev :=
  if pg = BANKS.pg then d.abortSparing func
  else if pg = REEVE.pg then d.abortMigration func
  else if pg = RECTQ.pg then (d.rects.filter fun r => !r.own).foldl (fun d r => d.rectAbort r func) d
  else if pg = CAL.pg 0 || pg = CAL.pg 1 then d.calAbort (pg - CAL.pg 0) func
  else if pg = AGING.pg then d.opAbort func
  else if pg = TDL.pg 0 || pg = TDL.pg 1 then d.tdlCmdDrop (pg - TDL.pg 0)
  else if pg = TRIM.pg then d.trimAbort func
  else if pg = GRANARY.pg then d.nvAbort func
  else if pg = MGMT.pg then d.mbAbort func
  else d

/-- RW bits that a soft reset leaves: BANK_CFG.OWNER, which only an OWNER write changes (R117), and the battery-backed words,
whose reset column holds a dash (R378). -/
def softKept (pg off : Nat) : Word :=
  if pg = BANKS.pg && decide (0x100 ≤ off ∧ off < 0x200) then 0xF
  else if pg = AOBB.pg && decide (0x100 ≤ off) then 0xFFFFFFFF
  else 0

/-- RW and RWS fields of page pg, active and shadow, at their reset values. -/
def Dev.resetFields (d : Dev) (pg : Nat) : Dev :=
  let keys := ((d.regs.map (·.1) ++ d.sh.map (·.1)).filter fun k => k / 0x1000 == pg).eraseDups
  keys.foldl (fun d k =>
    let m := typeMask [.rw, .rws] pg (k % 0x1000) &&& ~~~(softKept pg (k % 0x1000))
    { d with
      regs := d.regs.put k (mux m (resetWord k) (d.regs.word k))
      sh := d.sh.put k (mux (rwsBits pg (k % 0x1000)) (resetWord k) (d.sh.word k)) }) d

/-- PLLs that are enabled no longer lose their lock (R89, R94). -/
def Dev.pllFollow (d : Dev) : Dev :=
  ((List.range 4).foldl (fun d k => if d.locked k && !bit (d.word CLOCK.pg 0x044).toNat k then d.pllLost k else d) d).moot

/-- A held source ends with its mould's page (R163): at the end of the running compose, or at once. A new source that the running
compose uses supersedes it in any case, and is held then (R162). -/
def Dev.mouldReset (d : Dev) (m : Nat) : Dev :=
  match d.couch.pass with
  | some p =>
    if p.img.isSome then
      let d : Dev := { d with couch := { d.couch with pass := some { p with resets := p.resets ++ [m] } } }
      (if p.supersede.any fun e => e.1 == m then d else d.supersede m none)
    else (d.releaseHeld m).setLayer m { d.layer m with held := none, heldBytes := [] }
  | none => (d.releaseHeld m).setLayer m { d.layer m with held := none, heldBytes := [] }

/-- What follows from a page's fields reading their reset values. -/
def Dev.afterFields (d : Dev) (pg func : Nat) : Dev :=
  if pg = MOOT.pg then d.letGo
  else if pg = CLOCK.pg then
    ((List.range 15).foldl (fun d i => if d.domOn (i + 1) then d.srcField func (i + 1) 0 else d) d).pllFollow
  else if pg = COUCH.pg then d.couchStops.couchShow
  else if decide (0x0A ≤ pg ∧ pg ≤ 0x15) then d.mouldReset (pg - 0x0A)
  else if pg = SCAN.pg then { d.modeShown with scan := { d.scan with starting := false } }
  else if pg = SYNC.pg then d.lockIdle
  else if pg = TONE.pg then d.toneEcon
  else if pg = AGING.pg then d.stressCond.agingState
  else if pg = TITHE.pg then (d.clearAcc 0).clearAcc 1
  else if pg = TRIM.pg then d.trimDue
  else if pg = SENSE.pg then (((d.ptSrcChanged 0).ptSrcChanged 1).ptCond).supplyCond
  else d

/-- PG_CTL.SOFT_RESET (R51). DEDUCED: HOSTIF's RW fields return to reset too: R68 tells which resets of the link and its functions
leave them, and R51 names every page (log entry 61). DESIGN CHOICE: EV_PEND clears last, so that EV_IMAGE_DROPPED, which the reset of COUCH
raises (R172), is not seen pending after it; no rule orders the two (log entry 66). -/
def Dev.softReset (d : Dev) (pg func : Nat) : Dev :=
  if d.softRefused pg then d.err pg E.STATE 0x004 func
  else
    let d := ((d.endPageOps pg func).resetFields pg).afterFields pg func
    (((d.putWord pg 0x024 0).putWord pg 0x028 0).putWord pg 0x014 0).refreshReqs

def execSoftReset (a : Acc) (pg : Fin 64) (s : State) : Out :=
  hostWrite (.softReset a pg) a (fun d => d.guarded a pg.val 0x004 fun d => d.softReset pg.val a.who.code) s

/-! ### What a plain write of a register accepts -/

/-- A value that the spec drops with E_RANGE (R83, R107, R108, R126, R143, R210, R292, R293, R307, R333, R363). -/
def badValue (pg off : Nat) (x : Word) : Bool :=
  let g (f : Fld) : Nat := f.of x
  let out (v lo hi : Nat) : Bool := decide (v < lo) || decide (hi < v)
  if pg = MOOT.pg then
    if off = 0x088 then g MOOT.WAKE_EN_WAKE_EDGE == 3
    else decide (0x0C4 ≤ off ∧ off < 0x100) && getBits x 16 8 == 0
  else if pg = BANKS.pg then off == 0x040 && getBits x 8 8 == 0
  else if pg = MTEST.pg then off == 0x040 && decide (g MTEST.MT_CTL_CHUNK_US < 10)
  else if pg = REEVE.pg then
    (off == 0x070 && getBits x 0 3 == 0) || (off == 0x074 && (out (getBits x 0 8) 0x18 0x40 || out (getBits x 8 4) 1 4))
  else if pg = RECTQ.pg then off == 0x040 && getBits x 8 8 == 0
  else if pg = AGING.pg then
    if off = 0x040 then decide (getBits x 4 4 < 2)
    else if off = 0x044 then getBits x 0 16 == 0
    else if off = 0x100 || off = 0x120 then getBits x 0 16 == 0 || getBits x 16 16 == 0
    else if off = 0x104 || off = 0x124 then getBits x 0 16 == 0 || getBits x 16 4 == 0
    else (off == 0x108 || off == 0x128) && decide (getBits x 16 16 < 0x4000)
  else if pg = TITHE.pg then
    if off = 0x040 then
      out (g TITHE.CTL_LOOP_SHIFT) 1 12 || decide (4 < g TITHE.CTL_ECON_MAX) || decide (g TITHE.CTL_ECON_MAX < g TITHE.CTL_ECON_MIN)
    else if off = 0x064 then getBits x 0 8 == 0 || getBits x 8 8 == 0
    else if off = 0x084 || off = 0x0C4 then getBits x 0 16 == 0
    else (off == 0x098 || off == 0x0D8) && (decide (0x8000 < getBits x 0 16) || decide (0x8000 < getBits x 16 16))
  else if pg = WMARK.pg then off == 0x040 && (getBits x 2 2 == 3 || out (getBits x 4 6) 1 32)
  else if pg = TRIM.pg then
    if off = 0x040 then decide (3 < g TRIM.RUN_CTL_CAL) || decide (4 < g TRIM.RUN_CTL_VREF_SEL)
    else if off = 0x048 then g TRIM.AUTO_TRIM_DT == 0
    else if off = 0x050 then out (g TRIM.SAMP_LIM_MIN_W) 1 64 || out (g TRIM.SAMP_LIM_MIN_H) 1 64
    else if off = 0x054 then
      decide (g TRIM.REGRESS_MIN_PASSES < 16) || out (g TRIM.REGRESS_MIN_SPREAD) 1 100 || g TRIM.REGRESS_RES_MAX == 0
    else if off = 0x058 || off = 0x05C then getBits x 16 16 == 0
    else off == 0x060 && (decide (g TRIM.SYNC_CFG_EDGES < 16) || out (g TRIM.SYNC_CFG_JIT_MAX) 1 24)
  else if pg = SENSE.pg then (off == 0x060 || off == 0x070) && (getBits x 0 2 == 3 || getBits x 24 8 == 0)
  else false

/-- PG_CTL has been written: what the block counts on through FREEZE is held for the reader, or shown again (R49). -/
def Dev.freezeHook (d : Dev) (d0 : Dev) (pg : Nat) : Dev :=
  if !d0.frozen pg && d.frozen pg then
    (liveOffs pg).foldl (fun d o =>
      if liveCount pg o = 0 then d else { d with froze := d.froze.put (rkey pg o) (d.word pg o) }) d
  else if pg = FAULT.pg && !d.frozen FAULT.pg then
    (d.wr FAULT.pg FAULT.FAULT_WR_COUNT d.flt.wr).wr FAULT.pg FAULT.VIOL_WR_COUNT d.flt.viol
  else d

/-- What follows from a stored write, from device d0 before it. -/
def Dev.regHook (d : Dev) (d0 : Dev) (pg off : Nat) : Dev :=
  if off = 0x010 then (Dev.deliverNew d0 d pg).refreshReqs
  else if off = 0x004 then
    let d := d.freezeHook d0 pg
    if pg = SCAN.pg then d.startRaster
    else if pg = SYNC.pg then (d.onlyIf (!d.scan.run) (·.lockIdle)).moot
    else if pg = AGING.pg then d.stressCond.agingState
    else d
  else if pg = CLOCK.pg && off = 0x044 then d.pllFollow
  else if pg = AOBB.pg && decide (0x1F0 ≤ off) then d.bbConds
  else if pg = AGING.pg && off = 0x040 then d.stressCond.agingState
  else if pg = TITHE.pg && decide (0x08C ≤ off ∧ off ≤ 0x094) then d.clearAcc 0
  else if pg = TITHE.pg && decide (0x0CC ≤ off ∧ off ≤ 0x0D4) then d.clearAcc 1
  else if pg = TRIM.pg && (off == 0x048 || decide (0x1C0 ≤ off)) then d.trimDue
  else if pg = SENSE.pg then
    if off = 0x054 then d.supplyCond
    else if off = 0x060 || off = 0x070 then
      let p := (off - 0x060) / 0x10
      (if d0.rd SENSE.pg SENSE.PT_CFG_SRC (i := p) = d.rd SENSE.pg SENSE.PT_CFG_SRC (i := p) then d else d.ptSrcChanged p).ptCond
    else if off = 0x068 || off = 0x078 then d.ptHostWritten ((off - 0x068) / 0x10)
    else if off = 0x06C || off = 0x07C then d.ptCond
    else d
  else d

/-- A plain write of a register's own RW, RWS and W1C fields (R4). Filpor's words of the battery-backed registers take no
host write (R378); a page without events ignores EV_EN (R49). -/
def Dev.regStore (d : Dev) (a : Acc) (pg off : Nat) (x : Word) : Dev :=
  if off = 0x010 && (evSource pg).2 = 0 then d
  else if pg = AOBB.pg && decide (0x1C0 ≤ off ∧ off < 0x1F0) then
    if a.who = .filpor then d.putWord pg off x else d.err pg E.PRIV off a.who.code
  else if badValue pg off x then d.err pg E.RANGE off a.who.code
  else (d.store pg off x).regHook d pg off

/-! ### Registers and bits that have a command of their own -/

/-- Run another command on the device. -/
def Dev.run (f : State → Out) (d : Dev) : Dev :=
  match f ⟨[], d⟩ with
  | .next t => t.dev
  | _ => d

/-- A start bit with a start command, an abort bit with its abort command (R60: the start's command arbitrates an abort in
the same write); a start that names no operation is E_BUSY while one runs, E_RANGE else (R293, R353, R371, R412), and its word's RW
fields are stored as any start's are (R4); with neither bit a plain write. -/
def Dev.startAbort (d : Dev) (a : Acc) (pg off : Nat) (x : Word) (go : Bool) (start : Option (State → Out)) (ab : Option (State → Out)) : Dev :=
  if go then
    match start with
    | some f => d.run f
    | none =>
      let d := if badValue pg off x then d else d.storeRw pg off x
      let d := match ab with | some f => d.run f | none => d
      d.err pg (if d.on pg HDR.PG_STAT_BUSY then E.BUSY else E.RANGE) off a.who.code
  else
    let d := d.regStore a pg off x
    match ab with | some f => d.run f | none => d

/-- Header registers (R49). DESIGN CHOICE: a PG_CTL word with SOFT_RESET 1 is the reset alone; its ENABLE and FREEZE bits are not
stored, whether the reset is done or refused, since no rule orders the two fields of one write (log entry 66). -/
def Dev.hdrWrite (d : Dev) (a : Acc) (pg off : Nat) (x : Word) : Option Dev :=
  let n : Fin 64 := Fin.ofNat 64 pg
  if off = 0x004 && bit x.toNat 1 then some (d.run (execSoftReset a n))
  else if off = 0x014 then some (d.run (execEvPendClear a n x))
  else if off = 0x018 then some (d.run (execEvForce a n x))
  else if off = 0x01C then some (if bit x.toNat 0 then d.run (execCommitReq a n) else d)
  else if off = 0x024 then some (if bit x.toNat 31 then d.run (execErrClear a n) else d)
  else none

/-- The pages of power, banks, placement, rectangles, scan and faults. -/
def Dev.rowWrite (d : Dev) (a : Acc) (pg off : Nat) (x : Word) : Option Dev :=
  let b (i : Nat) : Bool := bit x.toNat i
  if pg = MOOT.pg then
    if decide (0x040 ≤ off ∧ off < 0x04C) then some (d.run (execVoteWrite a (Fin.ofNat 3 ((off - 0x040) / 4)) x))
    else if off = 0x04C then some (if a.who = .filpor then (d.wr MOOT.pg MOOT.VOTE3_DOMS x.toNat).letGo else d)
    else if off = 0x084 then some (d.run (execWakeHoldClear a x))
    else if off = 0x108 then some (d.run (execDomainRetry a x))
    else none
  else if pg = CLOCK.pg then
    if off = 0x048 then some (d.run (execDomSrcWrite a x))
    else if off = 0x050 then some (if b 0 then d.run (execFircRestart a) else d)
    else none
  else if pg = CRIER.pg && decide (0x400 ≤ off ∧ off < 0x800) then some (d.run (execRouteWrite a (Fin.ofNat 256 ((off - 0x400) / 4)) x))
  else if pg = BANKS.pg then
    if off = 0x044 then some (d.startAbort a pg off x (b 8) (some (execSpareStart a x)) (if b 9 then some (execSpareAbort a) else none))
    else if decide (0x100 ≤ off ∧ off < 0x200) then
      let n := (off - 0x100) / 4
      let o := x.toNat % 16
      some (if o = d.owner n then
          (if (d.ownerBad a.who n o).isNone then (d.regStore a pg off x).ownerRevives n else d.regStore a pg off x)
        else if (d.ownerBad a.who n o).isSome then d.run (execOwnerWrite a (Fin.ofNat 64 n) (Fin.ofNat 16 o))
        else (d.regStore a pg off x).run (execOwnerWrite a (Fin.ofNat 64 n) (Fin.ofNat 16 o)))
    else none
  else if pg = REEVE.pg then
    if off = 0x044 then some (if b 12 then d.run (execClaim a x) else if b 13 then d.run (execRelease a x) else d.regStore a pg off x)
    else if off = 0x084 then some (if b 0 then d.run (execMigrationAbort a) else d)
    else none
  else if pg = RECTQ.pg then
    if off = 0x050 then some (if b 0 then d.run (execRectPost a) else d)
    else if off = 0x054 then
      let d := if b 16 then d.run (execRectAbort a (Fin.ofNat 65536 (x.toNat % 65536))) else d
      some (if b 17 then d.run (execRectAbortAll a) else d)
    else none
  else if pg = SCAN.pg && off = 0x048 then some (d.run (execSrReqWrite a x))
  else if pg = FAULT.pg then
    if off = 0x05C then some (d.run (execLogRdWrite a false x))
    else if off = 0x064 then some (d.run (execLogRdWrite a true x))
    else if off = 0x068 then some (d.run (execMouldReturn a x))
    else none
  else none

/-- The pages whose long operations start with a GO. -/
def Dev.goWrite (d : Dev) (a : Acc) (pg off : Nat) (x : Word) : Option Dev :=
  let b (i : Nat) : Bool := bit x.toNat i
  let p : Port := Fin.ofNat 2 (pg % 2)
  let q : Port := Fin.ofNat 2 ((pg + 1) % 2)
  if (pg = CAL.pg 0 || pg = CAL.pg 1) && off = 0x05C then
    some (d.startAbort a pg off x (b 8) (some (execCalLoadGo a p x)) (if b 9 then some (execCalLoadAbort a p) else none))
  else if pg = AGING.pg && off = 0x058 then
    let f := match x.toNat % 4 with
      | 0 => some (execStressLoad a x) | 1 => some (execStressReconcile a x) | 2 => some (execStressSnap a x) | _ => none
    let d' := d.startAbort a pg off x (b 8) f (if b 9 then some (execStressOpAbort a) else none)
    some (if b 10 && (!b 8 || f.isNone) then d'.run (execMarkValid a x) else d')
  else if (pg = TDL.pg 0 || pg = TDL.pg 1) && off = 0x04C then
    let d := if b 0 then d.run (execTdlRetrain a p) else d
    some (if b 1 then d.run (execTdlRestore a p) else d)
  else if (pg = TDL.pg 0 || pg = TDL.pg 1) && off = 0x060 then
    if !b 0 then some d
    else
      let op := d.rd pg TDL.CMD_OP_OPCODE
      some (if op = 1 then d.run (execTdlCmdIdent a p) else if op = 2 then d.run (execTdlCmdStatus a p)
        else if op = 4 then d.run (execTdlCmdWriteReg a p) else if op = 5 then d.run (execTdlCmdReadReg a p)
        else d.tdlGo a.who p.val op)
  else if (pg = PANEL.pg 0 || pg = PANEL.pg 1) && off = 0x040 then
    let d := if b 0 then d.run (execPanelOn a q x) else if b 1 then d.run (execPanelOff a q) else d
    some (if b 2 then d.run (execCrkClear a q) else d)
  else if pg = TRIM.pg && off = 0x040 then
    let f := match x.toNat % 8 with
      | 0 => some (execTrimSamplerGo a x) | 1 => some (execTrimVrefGo a x)
      | 2 => some (execTrimCurmodelGo a x) | 3 => some (execTrimSyncdlyGo a x) | _ => none
    some (d.startAbort a pg off x (b 8) f (if b 9 then some (execTrimAbort a) else none))
  else if pg = GRANARY.pg && off = 0x040 then
    let f := match x.toNat % 8 with
      | 0 => some (execGranaryWrite a x) | 1 => some (execGranaryTwinWrite a x) | 2 => some (execGranaryTwinRead a x)
      | 3 => some (execGranaryCtrAdd a x) | 4 => some (execGranaryCtrSet a x) | 5 => some (execGranaryCtrRead a x)
      | 6 => some (execGranaryLogAppend a x) | _ => none
    some (d.startAbort a pg off x (b 8) f (if b 9 then some (execGranaryAbort a) else none))
  else if pg = MGMT.pg && off = 0x040 then
    let f := match x.toNat % 256 with
      | 1 => some (execFwWrite a x) | 2 => some (execFwVerify a x) | 3 => some (execFwSwitch a x) | 4 => some (execFwConfirm a x)
      | 5 => some (execOwnerEnroll a x) | 6 => some (execOwnerReplace a x) | 7 => some (execIdentity a x) | 8 => some (execAttest a x)
      | _ => none
    some (d.startAbort a pg off x (b 16) f (if b 17 then some (execMbAbort a) else none))
  else if pg = SENSE.pg && off = 0x084 then some (if b 19 then d.run (execSmbXferGo a x) else d.regStore a pg off x)
  else none

/-- A write of one register by a requester that may make it. -/
def Dev.regWord (d : Dev) (a : Acc) (pg off : Nat) (x : Word) : Dev :=
  match d.hdrWrite a pg off x with
  | some d => d
  | none => match d.rowWrite a pg off x with
    | some d => d
    | none => match d.goWrite a pg off x with
      | some d => d
      | none => d.regStore a pg off x

/-- The value that a set or clear alias gives a register's RW and RWS fields (R5, R47): from the active value of RW fields and
the pending one of RWS fields. -/
def Dev.aliasWord (d : Dev) (set : Bool) (pg off : Nat) (x : Word) : Word :=
  let m := typeMask [.rw, .rws] pg off
  let base := d.shWord pg off
  (if set then base ||| x else base &&& ~~~x) &&& m

/-- A write of one register through view v (R46): plain, set alias, clear alias, or the shadow view, which ignores it. Through
an alias a SRC_d field is written when one of its bits is (R91). -/
def Dev.viewWord (d : Dev) (a : Acc) (v pg off : Nat) (x : Word) : Dev :=
  if v = 0 then d.regWord a pg off x
  else if v = 3 || typeMask [.rw, .rws] pg off = 0 then d
  else if pg = CLOCK.pg && off = 0x048 then d.domSrc a.who (d.aliasWord (v == 1) pg off x) x
  else d.regWord a pg off (d.aliasWord (v == 1) pg off x)

/-- The vote words, each of which takes writes from its own function alone, whatever WRIGHT holds (R67, R83). -/
def isVote (pg off : Nat) : Bool := pg == MOOT.pg && decide (0x040 ≤ off ∧ off < 0x04C)

/-- May this requester write this register (R67)? A vote word takes in the writes of R83, and ignores the others. -/
def Dev.mayReg (d : Dev) (who : Req) (pg off : Nat) : Bool := d.mayWrite who pg || isVote pg off

/-- A write of one register, with the bytes its enables cover (R48): one that does not cover the register is dropped with
E_RANGE, unless the vote word of another function ignores it (R83). -/
def Dev.regBytes (d : Dev) (a : Acc) (v pg off : Nat) (bs : List (Option Byte)) : Dev :=
  if bs.all (·.isSome) then d.viewWord a v pg off (BitVec.ofNat 32 (ofLeBytes (bs.map (·.getD 0))))
  else if isVote pg off && a.who.code != (off - 0x040) / 4 then d
  else d.err pg E.RANGE off a.who.code

/-- Consecutive register writes, lowest address first (R48). Reserved registers and the shadow view ignore them (R9, R46).
Without right nothing is written but votes, and the request is one violation (R50, R67). -/
def Dev.viewWords (d : Dev) (a : Acc) (v pg off : Nat) (xs : List (List (Option Byte))) : Dev :=
  if v = 3 then d
  else
    let ws := ((List.range xs.length).map fun i => (off + 4 * i, xs.getD i [])).filter fun w => regDefined pg w.1
    let d := match ws.find? fun w => !d.mayReg a.who pg w.1 with
      | some w => d.privDrop a pg w.1
      | none => d
    let right := d.mayWrite a.who pg
    ws.foldl (fun d w => if right || isVote pg w.1 then d.regBytes a v pg w.1 w.2 else d) d

/-- Whole registers, as their bytes. -/
def wordBytes (x : Word) : List (Option Byte) := (leBytes 4 x.toNat).map some

/-- A BAR0 write of len bytes (R46, R48, R78): byte i of data, where it is enabled, goes to addr + i. Of the wrong shape it is
dropped as a violation. -/
def Dev.bar0Write (d : Dev) (a : Acc) (addr len : Nat) (data : List (Option Byte)) : Dev :=
  if !shapeOk addr len then d.onlyIf (misshapen addr len true) (·.violation 0x10 a.who.code a.hdr)
  else
    let n := spanOf addr len
    let at_ := n.1 % 2 ^ 20
    d.viewWords a (at_ / 0x1000 % 4) (at_ / 0x4000) (at_ % 0x1000) ((List.range n.2).map fun i =>
      (List.range 4).map fun j => let k := n.1 + 4 * i + j; if k < addr || addr + len ≤ k then none else (data.getD (k - addr) none))

def execRegisterWrite (a : Acc) (addr len : Nat) (data : List (Option Byte)) (s : State) : Out :=
  hostWrite (.registerWrite a addr len data) a (fun d => d.bar0Write a addr len data) s

def execSetAliasWrite (a : Acc) (pg : Fin 64) (off : Nat) (x : Word) (s : State) : Out :=
  hostWrite (.setAliasWrite a pg off x) a (fun d => d.viewWords a 1 pg.val (off / 4 * 4 % 0x1000) [wordBytes x]) s

def execClearAliasWrite (a : Acc) (pg : Fin 64) (off : Nat) (x : Word) (s : State) : Out :=
  hostWrite (.clearAliasWrite a pg off x) a (fun d => d.viewWords a 2 pg.val (off / 4 * 4 % 0x1000) [wordBytes x]) s

end Sys2Proof.Machine
end

