-- ==== Sys2Proof/Machine/Dispatch.lean ====
section
/-! DEFINITION. exec: one arm per command, each a direct call of the command's meaning. -/

namespace Sys2Proof.Machine

def exec (i : Instr) (s : State) : Host.Outcome State Fault Refusal :=
  match i with
  | .registerWrite a addr len data => Sys2Proof.Machine.execRegisterWrite a addr len data s
  | .setAliasWrite a pg off x => Sys2Proof.Machine.execSetAliasWrite a pg off x s
  | .clearAliasWrite a pg off x => Sys2Proof.Machine.execClearAliasWrite a pg off x s
  | .rcRead a addr len => Sys2Proof.Machine.execRcRead a addr len s
  | .devtimeRead a => Sys2Proof.Machine.execDevtimeRead a s
  | .interruptNsRead a operate => Sys2Proof.Machine.execInterruptNsRead a operate s
  | .softReset a pg => Sys2Proof.Machine.execSoftReset a pg s
  | .errClear a pg => Sys2Proof.Machine.execErrClear a pg s
  | .evPendClear a pg x => Sys2Proof.Machine.execEvPendClear a pg x s
  | .evForce a pg x => Sys2Proof.Machine.execEvForce a pg x s
  | .commitReq a pg => Sys2Proof.Machine.execCommitReq a pg s
  | .commitCheckDone g => Sys2Proof.Machine.execCommitCheckDone g s
  | .commitApplyNoRaster g => Sys2Proof.Machine.execCommitApplyNoRaster g s
  | .configRequest f r w usReset usPerst => Sys2Proof.Machine.execConfigRequest f r w usReset usPerst s
  | .bar2BankRead f hdr da len ecc => Sys2Proof.Machine.execBar2BankRead f hdr da len ecc s
  | .bar2BankWrite f hdr da data ecc => Sys2Proof.Machine.execBar2BankWrite f hdr da data ecc s
  | .bar2SetAliasWrite f hdr da data ecc => Sys2Proof.Machine.execBar2SetAliasWrite f hdr da data ecc s
  | .bar2ClearAliasWrite f hdr da data ecc => Sys2Proof.Machine.execBar2ClearAliasWrite f hdr da data ecc s
  | .granaryWindowRead f ga len ecc => Sys2Proof.Machine.execGranaryWindowRead f ga len ecc s
  | .granaryWindowWrite f hdr ga => Sys2Proof.Machine.execGranaryWindowWrite f hdr ga s
  | .reservedBarAccess f hdr write len => Sys2Proof.Machine.execReservedBarAccess f hdr write len s
  | .malformedTlp a => Sys2Proof.Machine.execMalformedTlp a s
  | .ecrcError a => Sys2Proof.Machine.execEcrcError a s
  | .poisonedWrite a => Sys2Proof.Machine.execPoisonedWrite a s
  | .unexpectedCompletion a => Sys2Proof.Machine.execUnexpectedCompletion a s
  | .unsupportedRequest a posted => Sys2Proof.Machine.execUnsupportedRequest a posted s
  | .readCompletion f tag st poisoned data hdr line => Sys2Proof.Machine.execReadCompletion f tag st poisoned data hdr line s
  | .cplTimeout f tag line => Sys2Proof.Machine.execCplTimeout f tag line s
  | .perstAssert => Sys2Proof.Machine.execPerstAssert s
  | .perstRelease => Sys2Proof.Machine.execPerstRelease s
  | .hotReset => Sys2Proof.Machine.execHotReset s
  | .linkUp speed width flit => Sys2Proof.Machine.execLinkUp speed width flit s
  | .functionLevelReset f line => Sys2Proof.Machine.execFunctionLevelReset f line s
  | .powerStateChange f st => Sys2Proof.Machine.execPowerStateChange f st s
  | .aspmL1Entry => Sys2Proof.Machine.execAspmL1Entry s
  | .l1ExitLead => Sys2Proof.Machine.execL1ExitLead s
  | .ptmRequest => Sys2Proof.Machine.execPtmRequest s
  | .ptmDialogueDone host => Sys2Proof.Machine.execPtmDialogueDone host s
  | .ptmValidLost => Sys2Proof.Machine.execPtmValidLost s
  | .msixTableWrite f w => Sys2Proof.Machine.execMsixTableWrite f w s
  | .msixSend f v => Sys2Proof.Machine.execMsixSend f v s
  | .routeWrite a e x => Sys2Proof.Machine.execRouteWrite a e x s
  | .powerOnReset cool => Sys2Proof.Machine.execPowerOnReset cool s
  | .porNReset ns cool => Sys2Proof.Machine.execPorNReset ns cool s
  | .brownout => Sys2Proof.Machine.execBrownout s
  | .railOffDelayExpire => Sys2Proof.Machine.execRailOffDelayExpire s
  | .holdupShort => Sys2Proof.Machine.execHoldupShort s
  | .thermalTrip => Sys2Proof.Machine.execThermalTrip s
  | .tapReset => Sys2Proof.Machine.execTapReset s
  | .voteWrite a n x => Sys2Proof.Machine.execVoteWrite a n x s
  | .dropDelayExpire d => Sys2Proof.Machine.execDropDelayExpire d s
  | .domainDropDone d => Sys2Proof.Machine.execDomainDropDone d s
  | .fircReady => Sys2Proof.Machine.execFircReady s
  | .fircFail => Sys2Proof.Machine.execFircFail s
  | .fircRestart a => Sys2Proof.Machine.execFircRestart a s
  | .regulatorEnable d => Sys2Proof.Machine.execRegulatorEnable d s
  | .powerGood d => Sys2Proof.Machine.execPowerGood d s
  | .pgTimeoutExpire d => Sys2Proof.Machine.execPgTimeoutExpire d s
  | .retryBackoffExpire d => Sys2Proof.Machine.execRetryBackoffExpire d s
  | .domainRetry a x => Sys2Proof.Machine.execDomainRetry a x s
  | .wakeSourceFire src rising => Sys2Proof.Machine.execWakeSourceFire src rising s
  | .wakeHoldClear a x => Sys2Proof.Machine.execWakeHoldClear a x s
  | .alarmFire => Sys2Proof.Machine.execAlarmFire s
  | .xtalStable => Sys2Proof.Machine.execXtalStable s
  | .xt32Fail => Sys2Proof.Machine.execXt32Fail s
  | .pllLock p => Sys2Proof.Machine.execPllLock p s
  | .pllUnlock p => Sys2Proof.Machine.execPllUnlock p s
  | .domSrcWrite a x => Sys2Proof.Machine.execDomSrcWrite a x s
  | .autoPllSwitch d => Sys2Proof.Machine.execAutoPllSwitch d s
  | .senseSample r => Sys2Proof.Machine.execSenseSample r s
  | .panelTempPoll p e => Sys2Proof.Machine.execPanelTempPoll p e s
  | .ptHostStale p => Sys2Proof.Machine.execPtHostStale p s
  | .smbXferGo a x => Sys2Proof.Machine.execSmbXferGo a x s
  | .smbXferDone e => Sys2Proof.Machine.execSmbXferDone e s
  | .scrubLine b line ecc => Sys2Proof.Machine.execScrubLine b line ecc s
  | .ownerWrite a b owner => Sys2Proof.Machine.execOwnerWrite a b owner s
  | .handoverDone b => Sys2Proof.Machine.execHandoverDone b s
  | .handoverZeroFillDone b => Sys2Proof.Machine.execHandoverZeroFillDone b s
  | .bankSignDone b ecc => Sys2Proof.Machine.execBankSignDone b ecc s
  | .bankVerifyDone b ecc => Sys2Proof.Machine.execBankVerifyDone b ecc s
  | .bankZeroingDone b => Sys2Proof.Machine.execBankZeroingDone b s
  | .spareStart a x => Sys2Proof.Machine.execSpareStart a x s
  | .spareAbort a => Sys2Proof.Machine.execSpareAbort a s
  | .spareCommit => Sys2Proof.Machine.execSpareCommit s
  | .replacementCopyDone b => Sys2Proof.Machine.execReplacementCopyDone b s
  | .mtestBorrow b chunk => Sys2Proof.Machine.execMtestBorrow b chunk s
  | .mtestRestoreDone b fails => Sys2Proof.Machine.execMtestRestoreDone b fails s
  | .mtestPassDone b fails => Sys2Proof.Machine.execMtestPassDone b fails s
  | .claim a x => Sys2Proof.Machine.execClaim a x s
  | .release a x => Sys2Proof.Machine.execRelease a x s
  | .claimDone => Sys2Proof.Machine.execClaimDone s
  | .migrationCommit => Sys2Proof.Machine.execMigrationCommit s
  | .migrationAbort a => Sys2Proof.Machine.execMigrationAbort a s
  | .migrationRollbackDone => Sys2Proof.Machine.execMigrationRollbackDone s
  | .frameFle t isA isB => Sys2Proof.Machine.execFrameFle t isA isB s
  | .slotFle sl t isA isB => Sys2Proof.Machine.execSlotFle sl t isA isB s
  | .ladderTick => Sys2Proof.Machine.execLadderTick s
  | .lineStart who t hdr => Sys2Proof.Machine.execLineStart who t hdr s
  | .restartPassEnd p => Sys2Proof.Machine.execRestartPassEnd p s
  | .lineFetchDone restart ecc => Sys2Proof.Machine.execLineFetchDone restart ecc s
  | .layerWaitPoll => Sys2Proof.Machine.execLayerWaitPoll s
  | .layerWaitExpire => Sys2Proof.Machine.execLayerWaitExpire s
  | .imageComplete c => Sys2Proof.Machine.execImageComplete c s
  | .toneDeriveDone => Sys2Proof.Machine.execToneDeriveDone s
  | .toneLate => Sys2Proof.Machine.execToneLate s
  | .tithePlanDone => Sys2Proof.Machine.execTithePlanDone s
  | .rectPost a => Sys2Proof.Machine.execRectPost a s
  | .rectAbort a tag => Sys2Proof.Machine.execRectAbort a tag s
  | .rectAbortAll a => Sys2Proof.Machine.execRectAbortAll a s
  | .rectComposeStart => Sys2Proof.Machine.execRectComposeStart s
  | .rectStaged c ecc => Sys2Proof.Machine.execRectStaged c ecc s
  | .rectCommit => Sys2Proof.Machine.execRectCommit s
  | .rectDone => Sys2Proof.Machine.execRectDone s
  | .srReqWrite a x => Sys2Proof.Machine.execSrReqWrite a x s
  | .sr1Exit => Sys2Proof.Machine.execSr1Exit s
  | .sr2ExitTrigger => Sys2Proof.Machine.execSr2ExitTrigger s
  | .genlockEdge rising t pos => Sys2Proof.Machine.execGenlockEdge rising t pos s
  | .ptmReferenceEdge t => Sys2Proof.Machine.execPtmReferenceEdge t s
  | .referenceMissing => Sys2Proof.Machine.execReferenceMissing s
  | .windowOpen sl => Sys2Proof.Machine.execWindowOpen sl s
  | .windowClose sl => Sys2Proof.Machine.execWindowClose sl s
  | .syncOutTrigger n => Sys2Proof.Machine.execSyncOutTrigger n s
  | .calLoadGo a p x => Sys2Proof.Machine.execCalLoadGo a p x s
  | .calLoadAbort a p => Sys2Proof.Machine.execCalLoadAbort a p s
  | .calLoadFetchDone p => Sys2Proof.Machine.execCalLoadFetchDone p s
  | .calLoadDone p => Sys2Proof.Machine.execCalLoadDone p s
  | .tableReadDone p ecc => Sys2Proof.Machine.execTableReadDone p ecc s
  | .demuraFillDone p => Sys2Proof.Machine.execDemuraFillDone p s
  | .stressLoad a x => Sys2Proof.Machine.execStressLoad a x s
  | .stressReconcile a x => Sys2Proof.Machine.execStressReconcile a x s
  | .stressSnap a x => Sys2Proof.Machine.execStressSnap a x s
  | .markValid a x => Sys2Proof.Machine.execMarkValid a x s
  | .stressOpAbort a => Sys2Proof.Machine.execStressOpAbort a s
  | .snapPeriodExpire p => Sys2Proof.Machine.execSnapPeriodExpire p s
  | .stressLoadFetchDone => Sys2Proof.Machine.execStressLoadFetchDone s
  | .stressOpDone ecc => Sys2Proof.Machine.execStressOpDone ecc s
  | .tdlTrainDone p failed ident eyes us phase => Sys2Proof.Machine.execTdlTrainDone p failed ident eyes us phase s
  | .tdlRetrain a p => Sys2Proof.Machine.execTdlRetrain a p s
  | .tdlRestore a p => Sys2Proof.Machine.execTdlRestore a p s
  | .tdlCmdIdent a p => Sys2Proof.Machine.execTdlCmdIdent a p s
  | .tdlCmdStatus a p => Sys2Proof.Machine.execTdlCmdStatus a p s
  | .tdlCmdWriteReg a p => Sys2Proof.Machine.execTdlCmdWriteReg a p s
  | .tdlCmdReadReg a p => Sys2Proof.Machine.execTdlCmdReadReg a p s
  | .rspReceived p line r => Sys2Proof.Machine.execRspReceived p line r s
  | .rspTimeout p => Sys2Proof.Machine.execRspTimeout p s
  | .backChannelLost p => Sys2Proof.Machine.execBackChannelLost p s
  | .wmCompare p g line slot lo hi => Sys2Proof.Machine.execWmCompare p g line slot lo hi s
  | .failoverSwitch p g first => Sys2Proof.Machine.execFailoverSwitch p g first s
  | .holdTimeout => Sys2Proof.Machine.execHoldTimeout s
  | .panelOn a p x => Sys2Proof.Machine.execPanelOn a p x s
  | .panelOff a p => Sys2Proof.Machine.execPanelOff a p s
  | .crkClear a p => Sys2Proof.Machine.execCrkClear a p s
  | .railPgRise n => Sys2Proof.Machine.execRailPgRise n s
  | .seqDelayExpire p => Sys2Proof.Machine.execSeqDelayExpire p s
  | .seqWaitTimeout p => Sys2Proof.Machine.execSeqWaitTimeout p s
  | .analogReady p => Sys2Proof.Machine.execAnalogReady p s
  | .prstDelayExpire p => Sys2Proof.Machine.execPrstDelayExpire p s
  | .preadyRise p => Sys2Proof.Machine.execPreadyRise p s
  | .gclkStop p => Sys2Proof.Machine.execGclkStop p s
  | .railPgLoss n => Sys2Proof.Machine.execRailPgLoss n s
  | .preadyLoss p => Sys2Proof.Machine.execPreadyLoss p s
  | .crackMeasure p code => Sys2Proof.Machine.execCrackMeasure p code s
  | .vnegRegChange reg mv => Sys2Proof.Machine.execVnegRegChange reg mv s
  | .vnegOvercurrent oc => Sys2Proof.Machine.execVnegOvercurrent oc s
  | .trimSamplerGo a x => Sys2Proof.Machine.execTrimSamplerGo a x s
  | .trimVrefGo a x => Sys2Proof.Machine.execTrimVrefGo a x s
  | .trimCurmodelGo a x => Sys2Proof.Machine.execTrimCurmodelGo a x s
  | .trimSyncdlyGo a x => Sys2Proof.Machine.execTrimSyncdlyGo a x s
  | .trimAbort a => Sys2Proof.Machine.execTrimAbort a s
  | .trimResultReady sweep idle => Sys2Proof.Machine.execTrimResultReady sweep idle s
  | .trimAutoStart inst => Sys2Proof.Machine.execTrimAutoStart inst s
  | .granaryWrite a x => Sys2Proof.Machine.execGranaryWrite a x s
  | .granaryTwinWrite a x => Sys2Proof.Machine.execGranaryTwinWrite a x s
  | .granaryTwinRead a x => Sys2Proof.Machine.execGranaryTwinRead a x s
  | .granaryCtrAdd a x => Sys2Proof.Machine.execGranaryCtrAdd a x s
  | .granaryCtrSet a x => Sys2Proof.Machine.execGranaryCtrSet a x s
  | .granaryCtrRead a x => Sys2Proof.Machine.execGranaryCtrRead a x s
  | .granaryLogAppend a x => Sys2Proof.Machine.execGranaryLogAppend a x s
  | .granaryAbort a => Sys2Proof.Machine.execGranaryAbort a s
  | .granaryFetchDone => Sys2Proof.Machine.execGranaryFetchDone s
  | .pageProgramDone ecc => Sys2Proof.Machine.execPageProgramDone ecc s
  | .fwWrite a x => Sys2Proof.Machine.execFwWrite a x s
  | .fwVerify a x => Sys2Proof.Machine.execFwVerify a x s
  | .fwSwitch a x => Sys2Proof.Machine.execFwSwitch a x s
  | .fwConfirm a x => Sys2Proof.Machine.execFwConfirm a x s
  | .ownerEnroll a x => Sys2Proof.Machine.execOwnerEnroll a x s
  | .ownerReplace a x => Sys2Proof.Machine.execOwnerReplace a x s
  | .identity a x => Sys2Proof.Machine.execIdentity a x s
  | .attest a x => Sys2Proof.Machine.execAttest a x s
  | .mbAbort a => Sys2Proof.Machine.execMbAbort a s
  | .fwRestartDone => Sys2Proof.Machine.execFwRestartDone s
  | .watchdogExpire => Sys2Proof.Machine.execWatchdogExpire s
  | .tileRepairStart => Sys2Proof.Machine.execTileRepairStart s
  | .tileRepairCommit => Sys2Proof.Machine.execTileRepairCommit s
  | .tileRepairDone => Sys2Proof.Machine.execTileRepairDone s
  | .mouldResidueFail m line => Sys2Proof.Machine.execMouldResidueFail m line s
  | .mouldStall m line => Sys2Proof.Machine.execMouldStall m line s
  | .mouldReturn a x => Sys2Proof.Machine.execMouldReturn a x s
  | .mouldSelftestDone m pass => Sys2Proof.Machine.execMouldSelftestDone m pass s
  | .logRdWrite a viol x => Sys2Proof.Machine.execLogRdWrite a viol x s
  | .faultLogAppend => Sys2Proof.Machine.execFaultLogAppend s
  | .lifeCounterUpdate => Sys2Proof.Machine.execLifeCounterUpdate s
  | .supplyRemoved x => Sys2Proof.Machine.execSupplyRemoved x s
  | .syncOutPulseEnd n => Sys2Proof.Machine.execSyncOutPulseEnd n s
  | .syncdlyEdgeTimeout => Sys2Proof.Machine.execSyncdlyEdgeTimeout s
  | .stressMapFillDone p => Sys2Proof.Machine.execStressMapFillDone p s
  | .granaryReadDone ecc => Sys2Proof.Machine.execGranaryReadDone ecc s
  | .mboxCmdDone ecc => Sys2Proof.Machine.execMboxCmdDone ecc s

end Sys2Proof.Machine
end

