-- ==== Sys2Proof/Machine/Step.lean ====
section
/-! DEFINITION. One step: the command at the front of the queue is carried out; with none waiting, the oldest host request that
has waited behind another is performed when it may be (R71), else one XTAL cycle of device time passes (R100, R126). -/

namespace Sys2Proof.Machine

/-- With no command waiting (log entries 1, 60). -/
def State.idle (s : State) : Host.Outcome State Fault Refusal :=
  match s.dev.host.later with
  | [] => .next { s with dev := s.dev.cycle }
  | c :: cs =>
    if s.dev.servable then
      match exec c { s with dev := s.dev.serveOn } with
      | .next t => .next { t with dev := t.dev.serveOff cs }
      | o => o
    else .next { s with dev := s.dev.cycle }

def step (s : State) : Host.Outcome State Fault Refusal :=
  match s.pending with
  | c :: rest => exec c { s with pending := rest }
  | [] => s.idle

/-- The command that a table word spells goes to the front of the queue. The table gives no row bits, so no word spells one,
and the state stays as it is. -/
def State.withFetchWord (s : State) (nbits w : Nat) : State :=
  match decodeTableWord nbits w with
  | some c => { s with pending := c :: s.pending }
  | none => s

end Sys2Proof.Machine
end

