-- ==== Sys2Proof/Machine/Pins.lean ====
section
/-! DEFINITION. The signals as the balls show them (R24, R25, R27, R39, R41, R230, R339, R344, R348): what the device drives, read
off its state. -/

namespace Sys2Proof.Machine

/-- What a ball shows: driven low or high, high impedance (a released open drain among them), or a stream of its own: a running
clock, lanes that send. -/
inductive Level where
  | low | high | hiZ | runs
  deriving DecidableEq, Repr

def Level.of (b : Bool) : Level := if b then .high else .low

/-- The output balls of R24; port A is 0, port B is 1; `tx p n` is lane n of the driver link. The lanes of a disabled group stay idle
(R310); a holding link's go idle with its domain (R331). -/
inductive Ball where
  | pet | clkreq | wake | tx (p n : Nat) | gclk (p : Nat) | gsync (p : Nat) | emit (p : Nat) | prst (p : Nat)
  | railEn (n : Nat) | syncOut (n : Nat) | smb | alert | gpio (n : Nat) | tdo | crkDrv (p : Nat)
  deriving DecidableEq, Repr

/-- Where a pad's supply comes from (R24). -/
inductive PadSupply where
  | vio | vao | vin
  deriving DecidableEq, Repr

def Ball.supply : Ball → PadSupply
  | .gclk _ | .gsync _ | .emit _ | .prst _ | .syncOut _ | .smb | .tdo => .vio
  | .clkreq | .wake | .railEn _ | .alert | .gpio _ => .vao
  | .pet | .tx _ _ | .crkDrv _ => .vin

/-- The logic domain of a ball (R24). -/
def Ball.domain : Ball → Nat
  | .pet => 2
  | .tx p _ | .gclk p | .gsync p => 4 + p
  | .crkDrv p => 6 + p
  | .smb => 1
  | _ => 0

/-- The reset state of a ball (R24); electrical idle is no drive. -/
def Ball.resetLevel : Ball → Level
  | .clkreq | .gsync _ | .emit _ | .prst _ | .railEn _ | .syncOut _ | .crkDrv _ => .low
  | .pet | .wake | .tx _ _ | .gclk _ | .smb | .alert | .gpio _ | .tdo => .hiZ

/-- A panel signal (R27): the ports' balls, the rails and the crack loop. -/
def Ball.ofPanel : Ball → Bool
  | .tx _ _ | .gclk _ | .gsync _ | .emit _ | .prst _ | .railEn _ | .crkDrv _ => true
  | _ => false

def Dev.padUp (d : Dev) : PadSupply → Bool
  | .vio => d.pwr.vio
  | .vao => d.pwr.vao
  | .vin => d.pwr.vin

/-- The logic domain of a ball runs: D0 while VAO, or in a rail-off sequence VHOLD, feeds it and the internal reset is not held (R24, R31,
R33); another while it is on. -/
def Dev.logicUp (d : Dev) (n : Nat) : Bool := if n = 0 then (d.pwr.vao || d.pwr.seqOff.isSome) && !d.pwr.held else d.domOn n

/-- The panel-control pads and the rail enables, which VHOLD feeds in a rail-off sequence (R33). -/
def Ball.heldUp : Ball → Bool
  | .emit _ | .prst _ | .railEn _ => true
  | _ => false

/-- What a ball's logic drives. GSYNC_x is low outside its pulses (R348), the crack loop's source is off outside a measurement (R346), and
EMIT_x is low in every panel state but LIT (R348). -/
def Dev.drives (d : Dev) : Ball → Level
  | .pet => if d.link == 0 || d.link == 7 then .hiZ else .runs
  | .clkreq => if d.host.clkreq then .hiZ else .low
  | .wake => if d.pwr.wakeN then .low else .hiZ
  | .tx p n => if 1 ≤ d.tdlState p && d.tdlState p ≤ 3 && (groupsOn d.regs p).contains (n / 2) then .runs else .hiZ
  | .gclk p => if (d.panelSt p).gclk then .runs else .hiZ
  | .gsync _ | .crkDrv _ => .low
  | .emit p => Level.of ((d.portR p).emit && d.panelState p == 7)
  | .prst p => Level.of (d.panelSt p).prst
  | .railEn n => Level.of (bit d.pwr.rails n)
  | .syncOut n => Level.of (d.syncOut n)
  | .alert => if d.alertLow then .low else .hiZ
  | .smb | .gpio _ | .tdo => .hiZ

/-- The level of a ball (R24, R25, R27): high impedance without its pad supply, its reset state without its logic domain or, for a panel
signal, in factory test, else what its logic drives. -/
def Dev.level (d : Dev) (b : Ball) : Level :=
  if !d.padUp b.supply && !(d.pwr.seqOff.isSome && b.heldUp) then .hiZ
  else if !d.logicUp b.domain || (d.pwr.testMode && b.ofPanel) then b.resetLevel
  else d.drives b

/-- VREFn_x in volts while it drives (R41, R343): V = 0.20 + L × 2.80 / 4,095 + (T − 128) × 62.5 µV, clamped to 0.20 V to 3.00 V; none:
pulled to GND. -/
def Dev.vrefVolts (d : Dev) (p n : Nat) : Option Rat :=
  let pg := PANEL.pg p
  if (d.panelSt p).vref && d.on pg PANEL.VREF_EN (i := n) && d.domOn (6 + p) && d.pwr.vin && !d.pwr.testMode then
    let l : Rat := d.rd pg PANEL.VREF_LADDER (i := n)
    let t : Rat := d.rd pg PANEL.VREF_TRIM (i := n)
    some (clampR (mkRat 1 5 + l * mkRat 28 10 / 4095 + (t - 128) * mkRat 625 10000000) (mkRat 1 5) 3)
  else none

/-- The setpoint of VNEG in volts by port p's VNEG_SET (R344). -/
def Dev.vnegVolts (d : Dev) (p : Nat) : Rat := -1 - (d.rd (PANEL.pg p) PANEL.VNEG_SET_N : Rat) * mkRat 2 100

end Sys2Proof.Machine
end

