-- ==== Sys2Proof/Machine/Wire.lean ====
section
/-! DEFINITION. The driver link as its lanes carry it (R309, R311-R313, R315, R316, R318): blocks, scrambling, LINE packets, the blocks of
a line window. -/

namespace Sys2Proof.Machine

/-! ### Rates (R309) -/

/-- Lane rate of a RATE code, kb/s. -/
def laneKbps (rate : Nat) : Nat := 6750000 * 2 ^ rate

/-- The port PLL runs at half the lane rate, kHz. -/
def portPllKhz (rate : Nat) : Nat := laneKbps rate / 2

/-- The back channel's divider of the port PLL. -/
def backDivider (rate : Nat) : Nat := 2 ^ (rate + 1)

/-! ### Blocks (R311) -/

inductive BlockKind where
  | idle | lineStart | line | cmd | sync | clear | bias
  deriving DecidableEq, Repr

def BlockKind.all : List BlockKind := [.idle, .lineStart, .line, .cmd, .sync, .clear, .bias]

/-- The 4-bit header; a response on the back channel has the header of a command. -/
def BlockKind.header : BlockKind → Nat
  | .idle => 0x3 | .lineStart => 0x5 | .line => 0x6 | .cmd => 0x9 | .sync => 0xA | .clear => 0xC | .bias => 0xF

/-- What a header stands for; others are invalid. -/
def headerKind (h : Nat) : Option BlockKind := BlockKind.all.find? fun k => k.header == h

/-- A block: kind and 128-bit payload. -/
structure Block where
  kind : BlockKind
  payload : Nat
  deriving DecidableEq, Repr

/-- The 132 bits as they are sent: header bit 0 first, payload bit 0 after header bit 3. -/
def Block.sent (b : Block) : Nat := b.kind.header + b.payload % 2 ^ 128 * 16

/-! ### Scrambling (R312) -/

/-- One payload bit through x^23 + x^18 + 1: the bit sent and the next state. -/
def scrambleBit (s : Nat) (b : Bool) : Bool × Nat :=
  let k := bit s 22 ^^ bit s 17
  (b ^^ k, (2 * s + b2n k) % 2 ^ 23)

/-- n payload bits from bit i on: the scrambled payload, and the state after them. -/
def scrambleFrom (x : Nat) : Nat → Nat → Nat → Nat × Nat
  | 0, _, s => (0, s)
  | n + 1, i, s =>
    let q := scrambleBit s (bit x i)
    let r := scrambleFrom x n (i + 1) q.2
    (b2n q.1 * 2 ^ i + r.1, r.2)

/-- The state that forward lane L starts a line window with; the back channel's bursts start as lane 0. -/
def laneSeed (lane : Nat) : Nat := (0x5A5A5A ^^^ (lane <<< 16)) % 2 ^ 23

/-- The blocks of a window as lane L scrambles them; headers stay. -/
def scrambleBlocks : Nat → List Block → List Block
  | _, [] => []
  | s, b :: l => let q := scrambleFrom b.payload 128 0 s; { b with payload := q.1 } :: scrambleBlocks q.2 l

/-! ### Single-block packets (R316) -/

/-- A single-block packet: 96 bits and the CRC-32C of their bytes. -/
def single (k : BlockKind) (x : Nat) : Block := ⟨k, x % 2 ^ 96 + crc32c (leBytes 12 x) * 2 ^ 96⟩

def idleBlock : Block := ⟨.idle, 0⟩

/-- SYNC: phase 0 runs, 1 to 3 are training's; count: the blocks sent on the lane since training began. -/
def syncBlock (line slot phase frame count : Nat) : Block :=
  single .sync (line % 2 ^ 13 + slot % 4 * 2 ^ 13 + phase % 4 * 2 ^ 15 + frame % 2 ^ 32 * 2 ^ 32 + count % 2 ^ 32 * 2 ^ 64)

def BiasBlk.block (b : BiasBlk) : Block := single .bias (b.mode % 4 + b.pol % 2 * 4 + b2n b.en * 8 + b.frame % 2 ^ 32 * 2 ^ 32)

/-- CLEAR of `rows` rows from `first` on, 0 for all of them. -/
def clearBlock (first rows : Nat) (memory : Bool) : Block := single .clear (first % 2 ^ 13 + rows % 2 ^ 13 * 2 ^ 13 + b2n memory * 2 ^ 26)

/-- CMD (R317): the response, if one is asked for, comes in the slot of line rsp. -/
def TdlCmd.block (c : TdlCmd) (rsp : Nat) : Block :=
  single .cmd (c.op % 256 + c.grp % 16 * 2 ^ 8 + b2n c.rsp * 2 ^ 12 + (if c.rsp then rsp % 2 ^ 13 * 2 ^ 13 else 0) + c.a0 % 2 ^ 32 * 2 ^ 32 +
    c.a1 % 2 ^ 32 * 2 ^ 64)

/-- SET_LANES to a group: the lanes in use and the effective line. -/
def setLanesCmd (grp lanes line : Nat) : TdlCmd :=
  { op := 0x03, grp := grp, a0 := lanes % 4 + line % 2 ^ 13 * 4, a1 := 0, asked := 0, src := 0, rsp := false }

/-- SET_LANES of R324: the surviving lane. -/
def Failover.setLanes (f : Failover) : TdlCmd := setLanesCmd f.grp (2 ^ (1 - f.lane % 2)) f.line

/-- The SET_LANES that go out in the window of line y of port p (R324, R326): of failovers, and of lanes that a RESTORE returns. -/
def Dev.setLanesCmds (d : Dev) (p y : Nat) : List TdlCmd :=
  (List.range 12).filterMap fun g =>
    if !d.setLanesNow p y g then none
    else match (d.tdlSt p).failing g, (d.tdlSt p).ret with
      | some f, _ => some f.setLanes
      | none, some r => some (setLanesCmd g ((d.lanesFailed p &&& (r.lanes ^^^ 0xFFFFFF)) / 4 ^ g % 4 ^^^ 3) r.line)
      | none, none => none

/-- TRAIN with a phase (R317). Of when the device sends one the spec says nothing (log entry 66). -/
def trainCmd (phase : Nat) : TdlCmd := { op := 0x08, grp := 15, a0 := phase % 4, a1 := 0, asked := 0, src := 0, rsp := false }

/-- A response (R316): OPCODE echoed, group, CODE, DATA0, DATA1. -/
def rspBlock (op grp code d0 d1 : Nat) : Block :=
  single .cmd (op % 256 + grp % 16 * 2 ^ 8 + code % 16 * 2 ^ 12 + d0 % 2 ^ 32 * 2 ^ 32 + d1 % 2 ^ 32 * 2 ^ 64)

/-! ### LINE packets (R313) -/

/-- The first 64 stream bits of group e.1's LINE packet of a line; e: group, COL0, NCOL. -/
def Dev.lineHead (d : Dev) (p line slot : Nat) (resend : Bool) (e : Nat × Nat × Nat) : Nat :=
  let f := d.frameNo
  let mode := d.rd (CAL.pg p) CAL.CTL_BB_MODE
  line % 2 ^ 13 + slot % 4 * 2 ^ 13 + polarity mode f e.2.1 line * 2 ^ 15 + mode % 4 * 2 ^ 16 + b2n (codeDepth d.regs p == 12) * 2 ^ 18 +
    b2n resend * 2 ^ 19 + e.1 % 16 * 2 ^ 20 + f % 256 * 2 ^ 24 + e.2.1 % 2 ^ 13 * 2 ^ 32 + e.2.2 % 2 ^ 13 * 2 ^ 45

/-- The bytes of the packet up to its CRC, for the codes of the whole line. -/
def Dev.lineBody (d : Dev) (p line slot : Nat) (resend : Bool) (codes : List Nat) (e : Nat × Nat × Nat) : List Byte :=
  leBytes 8 (d.lineHead p line slot resend e) ++ codeBytes (codeDepth d.regs p) ((codes.drop (3 * e.2.1)).take (3 * e.2.2))

/-- The packet's blocks: the stream, its CRC, zeros to the end of the last block; N_LINE of them. -/
def Dev.linePacket (d : Dev) (p line slot : Nat) (resend : Bool) (codes : List Nat) (e : Nat × Nat × Nat) : List Block :=
  let body := d.lineBody p line slot resend codes e
  let bits := ofLeBytes (body ++ leBytes 4 (crc32c body))
  (List.range (nLine (codeDepth d.regs p) e.2.2)).map fun j => ⟨if j = 0 then .lineStart else .line, bits / 2 ^ (128 * j) % 2 ^ 128⟩

/-! ### A line window (R315) -/

/-- The lanes that carry group g: both, or the one that has not failed. -/
def Dev.lanesOf (d : Dev) (p g : Nat) : List Nat := [2 * g, 2 * g + 1].filter fun n => !bit (d.lanesFailed p) n

/-- The part of a packet that lane n carries: blocks in turn on both lanes, all of them on a surviving one. -/
def Dev.laneShare (d : Dev) (p n : Nat) (bs : List Block) : List Block :=
  match d.lanesOf p (n / 2) with
  | [a] => if a = n then bs else []
  | [_, _] => (bs.zipIdx.filter fun e => e.2 % 2 == n % 2).map (·.1)
  | _ => []

/-- What a window of line y sends: the codes of a programmed line, whether it is a slot FLE's, the CLEAR and the commands due, and the blocks
of a resend on this lane. -/
structure WindowIn where
  line : Nat
  slot : Nat
  codes : Option (List Nat)
  fle : Bool
  clear : Option Block
  cmds : List TdlCmd
  resend : List Block
  deriving DecidableEq, Repr

/-- The blocks of the window that starts, on lane n of port p, before scrambling; `count`: BLOCK_CNT of its SYNC, `room`: the window's block
positions. -/
def Dev.windowBlocks (d : Dev) (p n : Nat) (i : WindowIn) (count room : Nat) : List Block :=
  match (spansOf d.regs p d.mode.w).find? fun e => e.1 == n / 2 with
  | none => []
  | some e =>
    let first := match i.codes with
      | some c => d.laneShare p n (d.linePacket p i.line i.slot false c e)
      | none => syncBlock i.line i.slot 0 d.frameNo count ::
          (if i.fle then ((d.panelSt p).biasBlk.toList.map BiasBlk.block) else [])
    let lower := d.lanesOf p (n / 2) == [n] || n % 2 == 0
    let mine := i.cmds.filter fun c => c.grp == n / 2 || c.grp == 15
    let on_ (c : TdlCmd) : Bool := match if c.op = 3 then (d.tdlSt p).failing (n / 2) else none with
      | some f => n != f.lane
      | none => lower
    let cmds := (mine.filter on_).map fun c => c.block (c.rspAt.getD (rspLine d.mode i.line))
    let l := first ++ i.clear.toList ++ cmds ++ i.resend
    (l ++ List.replicate (room - l.length) idleBlock).take room

/-- What goes out in the window of line y as the state stands (R315): the CLEAR that is due, SET_LANES, the command, a broadcast. -/
def Dev.windowIn (d : Dev) (p y : Nat) (codes : Option (List Nat)) (fle : Bool) (resend : List Block) : WindowIn :=
  let x := d.tdlSt p
  let clear := if (d.panelSt p).clearDue then some (clearBlock 0 0 (d.rd (PANEL.pg p) PANEL.PANEL_CFG_TYPE == 2)) else none
  ⟨y, d.slotNo, codes, fle, clear, d.setLanesCmds p y ++ (x.cmd.toList.filter (·.ask)) ++ x.cast.toList, resend⟩

/-- The window as the lane sends it. -/
def Dev.windowSent (d : Dev) (p n : Nat) (i : WindowIn) (count room : Nat) : List Block :=
  scrambleBlocks (laneSeed n) (d.windowBlocks p n i count room)

/-! ### Training (R312, R321) -/

/-- A lane's blocks in training, as they are scrambled: the LFSR starts again at each SYNC block (R312). -/
def scrambleTraining (lane : Nat) : Nat → List Block → List Block
  | _, [] => []
  | s, b :: l =>
    let q := scrambleFrom b.payload 128 0 (if b.kind = .sync then laneSeed lane else s)
    { b with payload := q.1 } :: scrambleTraining lane q.2 l

/-- SYNC blocks of a phase of training, from BLOCK_CNT `count` on (R316, R321): SYNC carries the reference's line and slot. -/
def Dev.trainSync (d : Dev) (phase count n : Nat) : List Block :=
  (List.range n).map fun i => syncBlock (d.rd SCAN.pg SCAN.POS_LINE) d.slotNo phase d.frameNo (count + i)

/-- A test packet of VERIFY (R313, R321): LINE 8,191, with the codes drawn for it. -/
def Dev.testPacket (d : Dev) (p : Nat) (codes : List Nat) (e : Nat × Nat × Nat) : List Block := d.linePacket p 8191 0 false codes e

/-! ### The back channel (R312, R318) -/

/-- A burst: two preamble blocks of alternating bits, unscrambled, the RSP block, scrambled from the burst's own start as if its first
block were the LFSR's (R312), and a block of silence (none). DEDUCED: the preamble's blocks take the LFSR along (log entry 61). -/
def rspBurst (rsp : Block) : List (Option Block) :=
  let pre : Block := ⟨.idle, ofLeBytes (List.replicate 16 0xAA)⟩
  let s := (scrambleFrom 0 128 0 (scrambleFrom 0 128 0 (laneSeed 0)).2).2
  [some pre, some pre, some { rsp with payload := (scrambleFrom rsp.payload 128 0 s).1 }, none]

end Sys2Proof.Machine
end

