-- ==== Sys2Proof/Safety.lean ====
section
/-! DEFINITION. The terms in which claims about the block are stated: a command that runs, what it leaves unchanged, the events
it raises, and the conditions that stand in EV_RAW. The spec names no unsafe state; an orderly run is one whose states are
settled and whose tables and memories are in canonical form. -/

namespace Sys2Proof.Machine

/-- Registers that the wake logic and the Moot write on their own account (R80-R88, R93, R96, R383, R387): MOOT's EV_RAW, EV_PEND,
VOTE4-VOTE11, WAKE_HOLD, WAKE_LAST and DOM_STAT; CLOCK's EV_RAW, EV_PEND and OSC_STAT; GRANARY's EV_RAW and EV_PEND;
CRIER.HELD_CNT. -/
def wakeKeys : List Nat :=
  [rkey 0x01 0x00C, rkey 0x01 0x014, rkey 0x01 0x050, rkey 0x01 0x054, rkey 0x01 0x058, rkey 0x01 0x05C, rkey 0x01 0x060] ++
  [rkey 0x01 0x064, rkey 0x01 0x068, rkey 0x01 0x06C, rkey 0x01 0x084, rkey 0x01 0x0A4, rkey 0x01 0x100, rkey 0x01 0x104] ++
  [rkey 0x02 0x00C, rkey 0x02 0x014, rkey 0x02 0x040, rkey 0x24 0x00C, rkey 0x24 0x014, rkey 0x04 0x04C]

/-- CRIER.HELD_CNT. -/
abbrev heldKey : Nat := rkey 0x04 0x04C

/-- HOSTIF's PG_STAT, the link state. -/
abbrev linkKey : Nat := rkey 0x05 0x008

/-- No event fires a wake (WAKE_EN.EVENT is 0, as at reset, R83), and EV_RAW shows the standing conditions. -/
def Dev.quiet (d : Dev) : Prop := d.rd MOOT.pg MOOT.WAKE_EN_EVENT = 0 ∧ d.settled = true

/-- Device d is b but for register words, the power state and the standing message requests, a new one of which takes the link out
of L1 (R385). -/
def Dev.Rest (b d : Dev) : Prop :=
  d = { b with regs := d.regs, pwr := d.pwr, host := { b.host with
    reqs := d.host.reqs, l1Req := d.host.l1Req, narrow := d.host.narrow, clkreq := d.host.clkreq } } ∧
  (b.inL1 = false → d.host.l1Req = b.host.l1Req ∧ d.host.narrow = b.host.narrow ∧ d.host.clkreq = b.host.clkreq)

/-- Events that the wake logic and the standing conditions raise on their own account: EV_WAKE, EV_DOMAIN_FAILED, EV_FIRC_FAIL,
EV_XT32_FAIL, EV_NV_INTERRUPTED, EV_BB_INVALID (R390). -/
def wakeEvs : List (Nat × Nat) := [(0x01, 0), (0x01, 1), (0x02, 0), (0x02, 2), (0x24, 4), (0x24, 5)]

/-- Two register files agree on every register but those of ks. -/
def Regs.But (ks : List Nat) (b d : Regs) : Prop := ∀ k, k ∉ ks → d.word k = b.word k

/-- Bit i of page p's EV_PEND. -/
def Dev.pend (d : Dev) (p i : Nat) : Bool := bit (d.word p 0x014).toNat i

/-- From device b to d, registers ks change and events evs (page and bit of each) are raised; the Moot may have acted. -/
def Dev.Changes (ks : List Nat) (evs : List (Nat × Nat)) (b d : Dev) : Prop :=
  Dev.Rest b d ∧
  (∀ k, k ∉ ks → k ∉ wakeKeys → (b.inL1 = false ∨ k ≠ linkKey) → (∀ p, k ≠ rkey p 0x014) → d.regs.word k = b.regs.word k) ∧
  ∀ p i, rkey p 0x014 ∉ ks →
    ((b.pend p i || evs.contains (p, i)) = true → d.pend p i = true) ∧
    (d.pend p i = true → (b.pend p i || evs.contains (p, i) || wakeEvs.contains (p, i)) = true)

/-- The same, and when b is quiet nothing else changes: the domains stay as they are, EV_PEND gains the events and no others, and
with no event no message is requested. -/
def Dev.Only (ks : List Nat) (evs : List (Nat × Nat)) (b d : Dev) : Prop :=
  Dev.Changes ks evs b d ∧
  (b.quiet → d.pwr = b.pwr ∧ (evs = [] → d.host = b.host) ∧
    (∀ k, k ∉ ks → (evs = [] ∨ k ≠ heldKey ∧ (b.inL1 = false ∨ k ≠ linkKey)) → (∀ p, k ≠ rkey p 0x014) → d.regs.word k = b.regs.word k) ∧
    ∀ p i, rkey p 0x014 ∉ ks → d.pend p i = (b.pend p i || evs.contains (p, i)))

/-- Register words stay but for those that q picks, the wake registers, EV_PEND and, in L1, the link state. -/
def Dev.WordsBut (q : Nat → Bool) (b d : Dev) : Prop :=
  ∀ k, q k = false → k ∉ wakeKeys → (b.inL1 = false ∨ k ≠ linkKey) → (∀ p, k ≠ rkey p 0x014) → d.regs.word k = b.regs.word k

/-- The events that a write x of page pg's EV_FORCE latches. -/
def forced (pg : Nat) (x : Word) : List (Nat × Nat) :=
  ((List.range 32).filter fun i => bit (x &&& evMask pg).toNat i).map fun i => (pg, i)

/-- Entry v of an MSI-X table, e before, after a table write (R384). -/
def entryAfter (w : MsixWrite) (v : Fin 256) (e : MsixEntry) : MsixEntry :=
  match w with
  | .addr u x => if u = v then { e with addr := x.toNat } else e
  | .data u x => if u = v then { e with data := x.toNat } else e
  | .mask u b => if u = v then { e with mask := b } else e
  | _ => e

/-- Domain n is held whatever else happens: PF0 is in D0 and votes for it (R82). -/
def Dev.hostHolds (d : Dev) (n : Nat) : Bool := (d.fn 0).dstate == 0 && bit (d.rd MOOT.pg MOOT.VOTE_DOMS) n

/-- A hold may wake domain n: the device is neither held in reset, tripped nor losing its rails, and an image runs (R33, R45, R411). -/
def Dev.mayWake (d : Dev) (n : Nat) : Bool :=
  !d.pwr.held && !d.pwr.tripped && d.pwr.seqOff.isNone && (decide (n < 3) || d.rd MGMT.pg HDR.PG_STAT_STATE != 2)

/-- The registers of page pg. -/
def onPage (pg k : Nat) : Bool := k / 0x1000 == pg

/-- The registers that logging a violation or a fault writes beside EV_PEND (R77, R401): the FAULT page, HOSTIF.VIOL_CNT. -/
def logKey (k : Nat) : Bool := onPage 0x26 k || k == rkey 0x05 0x06C

/-- Only registers ks, the logs, the link's own state and the power state differ. -/
def Dev.LogOnly (ks : List Nat) (b d : Dev) : Prop :=
  d = { b with regs := d.regs, pwr := d.pwr, host := d.host, flt := d.flt } ∧ Dev.WordsBut (fun k => logKey k || ks.contains k) b d

/-- The newest record of the violation ring is of this kind and function, VIOL_CNT counts it unless the page is frozen, and its
event is pending (R77). -/
def Dev.Logged (b d : Dev) (kind func : Nat) : Prop :=
  let last := (d.flt.viol + 2 ^ 32 - 1) % 2 ^ 32
  (d.violWord last 0).toNat % 256 = kind ∧ (d.violWord last 0).toNat / 256 % 16 = func ∧
  (b.frozen HOSTIF.pg = false → d.rd HOSTIF.pg HOSTIF.VIOL_CNT_COUNT = satU 32 (b.rd HOSTIF.pg HOSTIF.VIOL_CNT_COUNT + 1)) ∧
  (if kind = 0x14 then d.pend BANKS.pg 1 else if kind < 0x10 then d.pend HOSTIF.pg 0 else d.pend HOSTIF.pg 1) = true

/-- The newest fault record has this class, port and place (R401). -/
def Dev.FaultNewest (d : Dev) (cls port loc : Nat) : Prop :=
  let n := (d.flt.wr + 2 ^ 32 - 1) % 2 ^ 32
  (d.faultWord n 0).toNat % 256 = cls ∧ (d.faultWord n 0).toNat / 256 % 16 = port ∧ (d.faultWord n 4).toNat = loc

/-- The request of a is performed at once: it is Filpor's, or its function answers and no earlier request waits (R71, R73). -/
def Dev.awake (d : Dev) (a : Acc) : Bool := d.takes a.who

/-- The request of a meets a function that does not answer: it is not in D0, or its Memory Space Enable is 0 (R63, R73). -/
def Dev.deaf (d : Dev) (a : Acc) : Bool := a.who != .filpor && !d.host.serving && !d.halted && !d.answers a.who.code

/-- The request of a waits in its turn behind an earlier one (R71). -/
def Dev.queues (d : Dev) (a : Acc) : Bool :=
  a.who != .filpor && !d.host.serving && !d.halted && d.answers a.who.code && !d.hostFree

/-- Registers some write of which does more than store: those with commands of their own (the table's rows), those whose stored
value acts at once, and the wake registers. -/
def actingReg (pg off : Nat) : Bool :=
  if pg = 0x01 then decide (0x040 ≤ off ∧ off < 0x088) || off == 0x0A4 || decide (0x100 ≤ off)
  else if pg = 0x02 then decide (0x040 ≤ off ∧ off < 0x04C) || off == 0x050
  else if pg = 0x03 then decide (0x1C0 ≤ off)
  else if pg = 0x04 then decide (0x400 ≤ off) || off == 0x04C
  else if pg = 0x06 then off == 0x044 || off == 0x084
  else if pg = 0x07 then off == 0x044 || decide (0x100 ≤ off ∧ off < 0x200)
  else if pg = 0x17 then off == 0x050 || off == 0x054
  else if pg = 0x18 then off == 0x048
  else if pg = 0x1A || pg = 0x1B then off == 0x05C
  else if pg = 0x1C then off == 0x040 || off == 0x058
  else if pg = 0x1D then decide (0x08C ≤ off ∧ off ≤ 0x094) || decide (0x0CC ≤ off ∧ off ≤ 0x0D4)
  else if pg = 0x1E || pg = 0x1F then off == 0x04C || off == 0x060
  else if pg = 0x21 || pg = 0x22 then off == 0x040
  else if pg = 0x23 then off == 0x040 || off == 0x048 || decide (0x1C0 ≤ off)
  else if pg = 0x24 || pg = 0x25 then off == 0x040
  else if pg = 0x26 then off == 0x05C || off == 0x064 || off == 0x068
  else if pg = 0x27 then decide (0x054 ≤ off ∧ off < 0x088)
  else false

/-- Pages on which ENABLE or FREEZE does more than is stored: SCAN and SYNC (the raster and the reference), AGING (tracking), FAULT. -/
def actingCtl (pg : Nat) : Bool := pg == 0x18 || pg == 0x19 || pg == 0x1C || pg == 0x26

/-- A plain write of x to the register does no more than store it by field type: it is a register of its block that does not
act, or PG_CTL without SOFT_RESET on a page where it does not act, and the value is one the spec accepts. -/
def storesOnly (pg off : Nat) (x : Word) : Bool :=
  decide (pg < 0x28 ∧ off < 0x1000 ∧ off % 4 = 0) && !badValue pg off x &&
    (if off < 0x02C then off == 0x004 && !bit x.toNat 1 && !actingCtl pg else !actingReg pg off)

/-- Command c runs at s: it answers a next state, the queue as it was, and its device satisfies P. -/
def Ran (c : Instr) (s : State) (P : Dev → Prop) : Prop :=
  ∃ t, exec c s = .next t ∧ t.pending = s.pending ∧ P t.dev

/-- Page pg records error code for the register at off and requester func (R50): the first in ERR_CODE and ERR_INFO, a later one
in OVERRUN. -/
def Dev.ErrShown (b d : Dev) (pg code off func : Nat) : Prop :=
  if b.rd pg HDR.ERR_CODE_CODE = 0 then
    d.rd pg HDR.ERR_CODE_CODE = code ∧ d.word pg 0x028 = BitVec.ofNat 32 (pg + off * 256 + func * 2 ^ 20)
  else d.rd pg HDR.ERR_CODE_CODE = b.rd pg HDR.ERR_CODE_CODE ∧ d.rd pg HDR.ERR_CODE_OVERRUN = 1 ∧
    d.word pg 0x028 = b.word pg 0x028

/-- The command that the next step carries out: the front of the queue, or on an empty one the host request that waits next (R71). -/
def State.front (s : State) : Option Instr :=
  match s.pending with
  | c :: _ => some c
  | [] => if s.dev.servable then s.dev.host.later.head? else none

/-- The registers in which a page records an error. -/
def errKeys (pg : Nat) : List Nat := [rkey pg 0x024, rkey pg 0x028]

/-- A GO of Granary operation op by a, with word x, is taken (R86, R370, R380): the right to write, no ABORT, no command running,
D1 on, a function named, a good shape, and the record within the host area. -/
def Dev.nvTakes (d : Dev) (a : Acc) (op : Nat) (x : Word) : Bool :=
  d.mayWrite a.who GRANARY.pg && GRANARY.CMD_ABORT.of x == 0 && d.nv.cmd.isNone && d.domOn 1 && GRANARY.CMD_FUNC.of x != 3 &&
    nvShapeOk op (d.rd GRANARY.pg GRANARY.DST_GA) (d.rd GRANARY.pg GRANARY.LEN_BYTES) (d.rd GRANARY.pg GRANARY.GEOM_PAGES) &&
    decide (hostArea ≤ d.rd GRANARY.pg GRANARY.DST_GA) &&
    decide (d.rd GRANARY.pg GRANARY.DST_GA + nvSpan op (d.rd GRANARY.pg GRANARY.LEN_BYTES) (d.rd GRANARY.pg GRANARY.GEOM_PAGES) ≤ 2 ^ 25)

/-- A GO of mailbox command op by a, with word x, is taken (R86, R412): the right to write and to command, no ABORT, no command
running, D1 on, a function named, arguments in range, and the state that the command asks for. -/
def Dev.mbTakes (d : Dev) (a : Acc) (op : Nat) (x : Word) : Bool :=
  d.mayWrite a.who MGMT.pg && MGMT.MB_CMD_ABORT.of x == 0 && d.mgmt.cmd.isNone && d.domOn 1 && MGMT.MB_CMD_FUNC.of x != 3 &&
    mbShapeOk op (d.rd MGMT.pg MGMT.MB_ARG 0) (d.rd MGMT.pg MGMT.MB_ARG 1) (d.rd MGMT.pg MGMT.MB_LEN_BYTES)
      (d.rd MGMT.pg MGMT.MB_SRC_LO + 2 ^ 32 * d.rd MGMT.pg MGMT.MB_SRC_HI) (d.rd MGMT.pg MGMT.MB_DST_LO + 2 ^ 32 * d.rd MGMT.pg MGMT.MB_DST_HI) &&
    (!mbPf0 op || a.who == .pf0) && !d.mbStateBad op (d.rd MGMT.pg MGMT.MB_ARG 0)

/-- Mailbox command op runs on device d: MB_STAT shows it ACTIVE, the page is busy (R412). -/
def Dev.mbRuns (d : Dev) (op : Nat) : Bool :=
  d.mgmt.cmd.any (fun c => c.op == op && !c.late) && d.word MGMT.pg 0x060 == BitVec.ofNat 32 (4 + op * 2 ^ 16) &&
    d.on MGMT.pg HDR.PG_STAT_BUSY

/-- The state keeps EV_RAW in step with the standing conditions (R381). -/
def State.settled (s : State) : Bool := s.dev.settled

end Sys2Proof.Machine
end

