-- ==== Sys2Proof/Certificates/Slice0/Obligations.lean ====
section
/-! DEFINITION. The obligations: what the commands of the JX8640 do, stated from the numbered rules of spec/. A statement whose
basis is the model's own choice says so and names the log entry. -/

open Sys2Proof Sys2Proof.Machine

/-- A write of a register by a requester with the right to it stores RW bits in the active value, RWS bits in the shadow, clears
the W1C bits written as 1 and ignores the rest; a write of EV_EN stores it, and an event it makes deliverable is delivered. A
write through the shadow view, or of a page the map does not define, changes nothing. Nothing else changes. A write of two
registers writes both; one of a register whose value acts stores its RW bits as well. A write of any permitted length programs no
byte of the Granary and answers nothing. (R4, R5, R8, R46, R48, R67, 03_register_pages) -/
def Obligations.RegisterWriteStores : Prop :=
  ∀ (s : State) (a : Acc) (pg off : Nat) (x : Word) (y : Word) (addr len : Nat) (xs : List (Option Byte)),
    (s.dev.awake a = true → s.dev.mayWrite a.who pg = true → storesOnly pg off x = true →
      Ran (.registerWrite a (pg * 0x4000 + off) 4 (wordBytes x)) s fun d =>
        d.word pg off = (mux (rwBits pg off) x (s.dev.word pg off) &&& ~~~(x &&& w1cBits pg off)) ∧
        d.sh.word (rkey pg off) = mux (rwsBits pg off) x (s.dev.sh.word (rkey pg off)) ∧
        Regs.But [rkey pg off] s.dev.sh d.sh ∧
        Dev.Only [rkey pg off] [] { s.dev with sh := d.sh } d) ∧
    (s.dev.awake a = true → s.dev.mayWrite a.who pg = true → pg < 0x28 → (evSource pg).2 ≠ 0 →
      Ran (.registerWrite a (pg * 0x4000 + 0x010) 4 (wordBytes x)) s fun d =>
        d.word pg 0x010 = mux (rwBits pg 0x010) x (s.dev.word pg 0x010) ∧
        Dev.Changes [rkey pg 0x010] [] { s.dev with sh := d.sh } d) ∧
    (s.dev.awake a = true → off < 0x1000 → off % 4 = 0 → 0x28 ≤ pg → pg < 0x40 →
      Ran (.registerWrite a (pg * 0x4000 + off) 4 (wordBytes x)) s fun d =>
        Dev.Only [] [] s.dev d) ∧
    (s.dev.awake a = true → off < 0x1000 → off % 4 = 0 → pg < 0x40 →
      Ran (.registerWrite a (pg * 0x4000 + 0x3000 + off) 4 (wordBytes x)) s fun d =>
        Dev.Only [] [] s.dev d) ∧
    (s.dev.awake a = true → s.dev.mayWrite a.who pg = true → storesOnly pg off x = true → storesOnly pg (off + 4) y = true → off %
      8 = 0 →
      Ran (.registerWrite a (pg * 0x4000 + off) 8 (wordBytes x ++ wordBytes y)) s fun d =>
        d.word pg off = (mux (rwBits pg off) x (s.dev.word pg off) &&& ~~~(x &&& w1cBits pg off)) ∧
        d.word pg (off + 4) = (mux (rwBits pg (off + 4)) y (s.dev.word pg (off + 4)) &&& ~~~(y &&& w1cBits pg (off + 4))) ∧
        d.sh.word (rkey pg off) = mux (rwsBits pg off) x (s.dev.sh.word (rkey pg off)) ∧
        d.sh.word (rkey pg (off + 4)) = mux (rwsBits pg (off + 4)) y (s.dev.sh.word (rkey pg (off + 4))) ∧
        Dev.Only [rkey pg off, rkey pg (off + 4)] [] { s.dev with sh := d.sh } d) ∧
    (s.dev.awake a = true → s.dev.mayWrite a.who pg = true → actingReg pg off = true → badValue pg off x = false → pg < 0x28 →
      0x02C ≤ off → off < 0x1000 → off % 4 = 0 → (pg = BANKS.pg → off < 0x100 ∨ 0x200 ≤ off) →
      Ran (.registerWrite a (pg * 0x4000 + off) 4 (wordBytes x)) s fun d =>
        ((d.word pg off ^^^ x) &&& rwBits pg off &&& ~~~(ownRow pg off)) = 0 ∧
        (d.nv.bad = s.dev.nv.bad → d.nv.mem = s.dev.nv.mem)) ∧
    (s.dev.awake a = true → s.dev.mayWrite a.who pg = true → actingCtl pg = true → bit x.toNat 1 = false →
      Ran (.registerWrite a (pg * 0x4000 + 0x004) 4 (wordBytes x)) s fun d =>
        ((d.word pg 0x004 ^^^ x) &&& rwBits pg 0x004) = 0 ∧
        d.bank.mem = s.dev.bank.mem ∧
        (d.nv.bad = s.dev.nv.bad → d.nv.mem = s.dev.nv.mem)) ∧
    (s.dev.awake a = true → shapeOk addr len = true →
      Ran (.registerWrite a addr len xs) s fun d =>
        (d.nv.bad = s.dev.nv.bad → d.nv.mem = s.dev.nv.mem) ∧
        d.host.cpl = s.dev.host.cpl)

/-- A register write without right to its page is dropped, recorded as E_PRIV with the requester and logged as a PRIV violation;
one whose registers do not fill an aligned block of a length the spec names is dropped and logged as a SHAPE violation, unless all
of it is reserved (log entry 61); one that does not cover its register, by its length or its byte enables, is dropped with
E_RANGE; one with a value outside its field's range is dropped with E_RANGE; one at a reserved offset is ignored and records
nothing, whoever makes it; one by a function that does not answer (not in D0, or Memory Space Enable 0) is an Unsupported Request.
Nothing else changes. (R48, R50, R67, R73, R77, R78, 03_register_pages, 04_host_link) -/
def Obligations.RegisterWriteDropped : Prop :=
  ∀ (s : State) (a : Acc) (pg off addr len i : Nat) (x : Word) (xs : List (Option Byte)),
    (s.dev.awake a = true → s.dev.mayWrite a.who pg = false → regDefined pg off = true → off < 0x1000 → off % 4 = 0 → isVote pg
      off = false →
      Ran (.registerWrite a (pg * 0x4000 + off) 4 (wordBytes x)) s fun d =>
        Dev.ErrShown s.dev d pg E.PRIV off a.who.code ∧
        Dev.Logged s.dev d 0x13 a.who.code ∧
        Dev.LogOnly (errKeys pg) s.dev d) ∧
    (s.dev.awake a = true → shapeOk addr len = false → misshapen addr len true = false →
      Ran (.registerWrite a addr len xs) s fun d =>
        Dev.Only [] [] s.dev d) ∧
    (s.dev.awake a = true → shapeOk addr len = false → misshapen addr len true = true →
      Ran (.registerWrite a addr len xs) s fun d =>
        Dev.Logged s.dev d 0x10 a.who.code ∧
        Dev.LogOnly [] s.dev d) ∧
    (s.dev.awake a = true → s.dev.mayWrite a.who pg = true → regDefined pg off = true → off < 0x1000 → off % 4 = 0 → isVote pg off
      = false → 0 < len → len < 4 → i + len ≤ 4 →
      Ran (.registerWrite a (pg * 0x4000 + off + i) len xs) s fun d =>
        Dev.ErrShown s.dev d pg E.RANGE off a.who.code ∧
        Dev.Only (errKeys pg) [] s.dev d) ∧
    (s.dev.awake a = true → s.dev.mayWrite a.who pg = true → regDefined pg off = true → off < 0x1000 → off % 4 = 0 → isVote pg off
      = false → xs.length = 4 → xs.contains none = true →
      Ran (.registerWrite a (pg * 0x4000 + off) 4 xs) s fun d =>
        Dev.ErrShown s.dev d pg E.RANGE off a.who.code ∧
        Dev.Only (errKeys pg) [] s.dev d) ∧
    (s.dev.awake a = true → s.dev.mayWrite a.who pg = true → badValue pg off x = true → 0x02C ≤ off → off < 0x1000 → off % 4 = 0 →
      actingReg pg off = false →
      Ran (.registerWrite a (pg * 0x4000 + off) 4 (wordBytes x)) s fun d =>
        Dev.ErrShown s.dev d pg E.RANGE off a.who.code ∧
        Dev.Only (errKeys pg) [] s.dev d) ∧
    (s.dev.awake a = true → regDefined pg off = false → pg < 0x40 → off < 0x1000 → off % 4 = 0 → 0 < len → len ≤ 4 → i + len ≤ 4 →
      Ran (.registerWrite a (pg * 0x4000 + off + i) len xs) s fun d =>
        Dev.Only [] [] s.dev d) ∧
    (s.dev.deaf a = true →
      Ran (.registerWrite a addr len xs) s fun d =>
        bit (d.fn a.who.code).aer 20 = true ∧
        Dev.Only [] [] (s.dev.leaveL1.aerFn a.who.code .unsupported a.hdr) d) ∧
    (s.dev.queues a = true →
      Ran (.registerWrite a addr len xs) s fun d =>
        d.host.later = s.dev.host.later ++ [.registerWrite a addr len xs] ∧
        d.inL1 = false ∧
        Dev.Only [] [] { s.dev.leaveL1 with host := { s.dev.leaveL1.host with later := d.host.later } } d)

/-- A write through the set alias sets, through the clear alias clears, the bits of RW fields (in the active value) and of RWS
fields (in the shadow) that are 1 in the data, and leaves every other bit of the register and everything else. The condition
storesOnly leaves out registers whose commands have statements of their own. (R5, R46, R47, R67, 03_register_pages) -/
def Obligations.AliasWritesChangeBits : Prop :=
  ∀ (s : State) (a : Acc) (pg : Fin 64) (off : Nat) (x : Word),
    (s.dev.awake a = true → s.dev.mayWrite a.who pg.val = true → storesOnly pg.val off (s.dev.aliasWord true pg.val off x) = true
      →
      Ran (.setAliasWrite a pg off x) s fun d =>
        d.word pg.val off = mux (rwBits pg.val off) (s.dev.word pg.val off ||| x) (s.dev.word pg.val off) ∧
        d.sh.word (rkey pg.val off) = mux (rwsBits pg.val off) (s.dev.sh.word (rkey pg.val off) ||| x) (s.dev.sh.word (rkey pg.val
          off)) ∧
        Regs.But [rkey pg.val off] s.dev.sh d.sh ∧
        Dev.Only [rkey pg.val off] [] { s.dev with sh := d.sh } d) ∧
    (s.dev.awake a = true → s.dev.mayWrite a.who pg.val = true → storesOnly pg.val off (s.dev.aliasWord false pg.val off x) = true
      →
      Ran (.clearAliasWrite a pg off x) s fun d =>
        d.word pg.val off = mux (rwBits pg.val off) (s.dev.word pg.val off &&& ~~~x) (s.dev.word pg.val off) ∧
        d.sh.word (rkey pg.val off) = mux (rwsBits pg.val off) (s.dev.sh.word (rkey pg.val off) &&& ~~~x) (s.dev.sh.word (rkey
          pg.val off)) ∧
        Regs.But [rkey pg.val off] s.dev.sh d.sh ∧
        Dev.Only [rkey pg.val off] [] { s.dev with sh := d.sh } d)

/-- An aligned 4-byte read in the normal view completes with the register's word (but for COMPOSE_STAT during a compose, whose
LINE is free, log entry 29) and clears its RC fields; a read of DEVTIME_LO, INTERRUPT_NS_LO or OPERATE_NS_LO completes with the
low word and latches the high one; a read of the wrong shape completes with zeros and is logged; a read by a function in D3
completes with UR; a host request leaves the link out of L1. Nothing else changes. A read of every permitted length answers as
many bytes. (R4, R48, R73, R78, R99, R404, 03_register_pages) -/
def Obligations.ReadsReplyAndClear : Prop :=
  ∀ (s : State) (a : Acc) (pg off addr len : Nat),
    (s.settled = true → s.dev.awake a = true → pg < 0x28 → off < 0x1000 → off % 4 = 0 → (off = 0x040 → pg ≠ AOBB.pg ∧ pg ≠
      FAULT.pg) → (off = 0x048 → pg ≠ FAULT.pg) → (off = 0x05C → pg ≠ COUCH.pg ∨ s.dev.composing = false) →
      Ran (.rcRead a (pg * 0x4000 + off) 4) s fun d =>
        d.host.cpl = ⟨leBytes 4 (s.dev.readReg pg off).toNat, 0, false⟩ ∧
        d.word pg off = (s.dev.word pg off &&& ~~~(typeMask [.rc] pg off)) ∧
        Dev.Only [rkey pg off] [] { s.dev with host := { s.dev.host with cpl := d.host.cpl } } d) ∧
    (s.dev.awake a = true →
      Ran (.devtimeRead a) s fun d =>
        d.host.cpl = ⟨leBytes 4 s.dev.devtime, 0, false⟩ ∧
        d.word AOBB.pg 0x044 = BitVec.ofNat 32 (s.dev.devtime / 2 ^ 32) ∧
        Dev.Only [rkey AOBB.pg 0x044] [] { s.dev with host := { s.dev.host with cpl := d.host.cpl } } d) ∧
    (s.dev.awake a = true →
      Ran (.interruptNsRead a false) s fun d =>
        d.host.cpl = ⟨leBytes 4 s.dev.flt.intNs, 0, false⟩ ∧
        d.word FAULT.pg 0x044 = BitVec.ofNat 32 (s.dev.flt.intNs / 2 ^ 32) ∧
        Dev.Only [rkey FAULT.pg 0x044] [] { s.dev with host := { s.dev.host with cpl := d.host.cpl } } d) ∧
    (s.dev.awake a = true →
      Ran (.interruptNsRead a true) s fun d =>
        d.host.cpl = ⟨leBytes 4 s.dev.flt.opNs, 0, false⟩ ∧
        d.word FAULT.pg 0x04C = BitVec.ofNat 32 (s.dev.flt.opNs / 2 ^ 32) ∧
        Dev.Only [rkey FAULT.pg 0x04C] [] { s.dev with host := { s.dev.host with cpl := d.host.cpl } } d) ∧
    (s.dev.awake a = true → shapeOk addr len = false → misshapen addr len false = true →
      Ran (.rcRead a addr len) s fun d =>
        d.host.cpl = ⟨List.replicate len 0, 0, false⟩ ∧
        Dev.Logged s.dev d 0x10 a.who.code ∧
        Dev.LogOnly [] s.dev d) ∧
    (s.dev.deaf a = true →
      Ran (.rcRead a addr len) s fun d =>
        d.host.cpl = ⟨[], 1, false⟩ ∧
        bit (d.fn a.who.code).aer 20 = true ∧
        Dev.Only [] [] ((s.dev.leaveL1.aerFn a.who.code .unsupported a.hdr true).replyStatus 1) d) ∧
    (a.who ≠ .filpor → s.dev.host.serving = false → s.dev.halted = false → s.dev.inL1 = true →
      Ran (.devtimeRead a) s fun d =>
        d.inL1 = false) ∧
    (s.dev.deaf a = true →
      Ran (.devtimeRead a) s fun d =>
        d.host.cpl = ⟨[], 1, false⟩ ∧
        Dev.Only [] [] ((s.dev.leaveL1.aerFn a.who.code .unsupported a.hdr true).replyStatus 1) d) ∧
    (s.dev.awake a = true → shapeOk addr len = true →
      Ran (.rcRead a addr len) s fun d =>
        (d.host.cpl.data.length = len ∧ d.host.cpl.status = 0 ∧ d.host.cpl.poisoned = false) ∧
        d.bank.mem = s.dev.bank.mem ∧
        d.nv.mem = s.dev.nv.mem ∧
        d.sh = s.dev.sh)

/-- ERR_CODE.CLR clears CODE, OVERRUN and ERR_INFO. A W1C write of EV_PEND clears the bits written as 1 and leaves only message
requests that an event or no holding supports. EV_FORCE latches the page's events written as 1. Nothing else changes. Without the
right to the page each is dropped, recorded as E_PRIV and logged. (R49, R50, R67, R381, R384, 03_register_pages, 21_events) -/
def Obligations.HeaderCommands : Prop :=
  ∀ (s : State) (a : Acc) (pg : Fin 64) (x : Word),
    (s.dev.awake a = true → pg.val < 0x28 → s.dev.mayWrite a.who pg.val = true →
      Ran (.errClear a pg) s fun d =>
        d.word pg.val 0x024 = 0 ∧
        d.word pg.val 0x028 = 0 ∧
        Dev.Only (errKeys pg.val) [] s.dev d) ∧
    (s.dev.awake a = true → s.settled = true → pg.val < 0x28 → s.dev.mayWrite a.who pg.val = true →
      Ran (.evPendClear a pg x) s fun d =>
        d.word pg.val 0x014 = (s.dev.word pg.val 0x014 &&& ~~~x) ∧
        d.host.reqs.all (fun q => s.dev.host.reqs.any fun r => r.f == q.f && r.v == q.v && !(r.held && !d.vecDeliverable r.f r.v))
          = true ∧
        Dev.Changes [rkey pg.val 0x014] [] s.dev d) ∧
    (s.dev.awake a = true → pg.val < 0x28 → s.dev.mayWrite a.who pg.val = true →
      Ran (.evForce a pg x) s fun d =>
        Dev.Only [] (forced pg.val x) s.dev d) ∧
    (s.dev.awake a = true → pg.val < 0x28 → s.dev.mayWrite a.who pg.val = false →
      Ran (.errClear a pg) s fun d =>
        Dev.ErrShown s.dev d pg.val E.PRIV 0x024 a.who.code ∧
        Dev.Logged s.dev d 0x13 a.who.code ∧
        Dev.LogOnly (errKeys pg.val) s.dev d) ∧
    (s.dev.awake a = true → pg.val < 0x28 → s.dev.mayWrite a.who pg.val = false →
      Ran (.evForce a pg x) s fun d =>
        Dev.ErrShown s.dev d pg.val E.PRIV 0x018 a.who.code ∧
        Dev.Logged s.dev d 0x13 a.who.code ∧
        Dev.LogOnly (errKeys pg.val) s.dev d)

/-- When EV_FORCE makes an enabled event pending that was not deliverable, with the Crier powered, the vector of its ROUTE entry
is requested; when its ROUTE has WAKE and WAKE_EN.EVENT is 1, WAKE_LAST shows the EVENT source and EV_WAKE is pending. A ROUTE
write stores VECTOR, FUNC, ALERT and WAKE, and a deliverable event that moves requests its new vector. (R381, R382, R383, R387,
21_events) -/
def Obligations.EventDelivery : Prop :=
  ∀ (s : State) (a : Acc) (pg : Fin 64) (i : Fin 32) (e : Fin 256) (x : Word),
    (s.dev.awake a = true → pg.val < 0x28 → s.dev.mayWrite a.who pg.val = true → i.val < (evSource pg.val).2 → bit (s.dev.word
      pg.val 0x010).toNat i.val = true → s.dev.deliverable (evOf pg.val i.val) = false → s.dev.crierOn = true → s.dev.routeFn
      (evOf pg.val i.val) < 3 →
      Ran (.evForce a pg (BitVec.ofNat 32 (2 ^ i.val))) s fun d =>
        d.host.reqs.any (fun r => r.f == s.dev.routeFn (evOf pg.val i.val) && r.v == s.dev.routeVec (evOf pg.val i.val)) = true ∧
        d.pend pg.val i.val = true) ∧
    (s.dev.awake a = true → pg.val < 0x28 → s.dev.mayWrite a.who pg.val = true → i.val < (evSource pg.val).2 → bit (s.dev.word
      pg.val 0x010).toNat i.val = true → s.dev.deliverable (evOf pg.val i.val) = false → s.dev.wakeRouted (evOf pg.val i.val) =
      true → s.dev.rd MOOT.pg MOOT.WAKE_EN_EVENT = 1 →
      Ran (.evForce a pg (BitVec.ofNat 32 (2 ^ i.val))) s fun d =>
        bit (d.rd MOOT.pg MOOT.WAKE_LAST_SRC) 5 = true ∧
        d.pend MOOT.pg 0 = true) ∧
    (s.dev.awake a = true → s.dev.mayWrite a.who CRIER.pg = true →
      Ran (.routeWrite a e x) s fun d =>
        d.word CRIER.pg (0x400 + 4 * e.val) = mux 0xFFF x (s.dev.word CRIER.pg (0x400 + 4 * e.val)) ∧
        ((s.dev.deliverable e.val && s.dev.crierOn && decide (d.routeFn e.val < 3) && (d.routeFn e.val != s.dev.routeFn e.val ||
          d.routeVec e.val != s.dev.routeVec e.val)) = true → d.host.reqs.any (fun r => r.f == d.routeFn e.val && r.v ==
          d.routeVec e.val) = true) ∧
        Dev.Changes [rkey CRIER.pg (0x400 + 4 * e.val)] [] s.dev d)

/-- A soft reset of a page that R51 does not refuse leaves the page's RW and RWS fields, active and shadow, at their reset values
(but BANK_CFG.OWNER and the battery-backed words, log entry 13), and ERR_CODE, ERR_INFO and EV_PEND 0; one that R51 refuses
records E_STATE and changes nothing else. On pages whose blocks run no operation nothing outside the page changes. (R51, R60,
R117, R378, 03_register_pages) -/
def Obligations.SoftResetResets : Prop :=
  ∀ (s : State) (a : Acc) (pg : Fin 64) (off : Fin 0x1000),
    (s.dev.awake a = true → s.settled = true → pg.val < 0x28 → pg.val ∉ [0x01, 0x02, 0x24] → s.dev.mayWrite a.who pg.val = true →
      s.dev.softRefused pg.val = false →
      Ran (.softReset a pg) s fun d =>
        d.word pg.val 0x024 = 0 ∧
        d.word pg.val 0x028 = 0 ∧
        d.word pg.val 0x014 = 0 ∧
        (((d.word pg.val off.val ^^^ resetWord (rkey pg.val off.val)) &&& typeMask [.rw, .rws] pg.val off.val &&& ~~~(softKept
          pg.val off.val)) = 0 ∨ off.val = 0x014) ∧
        ((d.sh.word (rkey pg.val off.val) ^^^ resetWord (rkey pg.val off.val)) &&& rwsBits pg.val off.val) = 0) ∧
    (s.dev.awake a = true → s.settled = true → pg.val ∈ [0x04, 0x05, 0x08, 0x16, 0x20] → s.dev.mayWrite a.who pg.val = true →
      Ran (.softReset a pg) s fun d =>
        Dev.WordsBut (onPage pg.val) s.dev d ∧
        d = { s.dev with regs := d.regs, sh := d.sh, host := { s.dev.host with reqs := d.host.reqs } }) ∧
    (s.dev.awake a = true → pg.val < 0x28 → s.dev.mayWrite a.who pg.val = true → s.dev.softRefused pg.val = true →
      Ran (.softReset a pg) s fun d =>
        Dev.ErrShown s.dev d pg.val E.STATE 0x004 a.who.code ∧
        Dev.Only (errKeys pg.val) [] s.dev d) ∧
    (s.dev.awake a = true → pg.val ∈ [0x01, 0x02, 0x24] → s.dev.mayWrite a.who pg.val = true → s.dev.softRefused pg.val = false →
      Ran (.softReset a pg) s fun d =>
        d.word pg.val 0x024 = 0 ∧
        d.word pg.val 0x028 = 0 ∧
        d.nv.mem = s.dev.nv.mem)

/-- On a page of a commit group with no check running, COMMIT.REQ takes a copy of the group's shadow values, with the page and
requester, and RESULT reads CHECKING; while a check runs it is dropped with E_BUSY, but one in the cycle of the request that
started the check is absorbed (R58); on a page outside the groups RESULT reads IMMEDIATE. Nothing else changes. (R52, R53, R56,
R57, R58, 03_register_pages) -/
def Obligations.CommitRequest : Prop :=
  ∀ (s : State) (a : Acc) (pg : Fin 64) (g : Group) (h : Nat),
    (s.dev.awake a = true → pageGroup pg.val = some g → s.dev.mayWrite a.who pg.val = true → (s.dev.grp g.num).check = none →
      Ran (.commitReq a pg) s fun d =>
        d.grp g.num =
          { s.dev.grp g.num with check := some ⟨pg.val, a.who.code, s.dev.sh.filter fun e => (pageGroup (e.1 / 0x1000)).map Group.num == some g.num⟩, result := 1 } ∧
        (h ≠ g.num → d.grp h = s.dev.grp h) ∧
        Dev.Only [] [] { s.dev with groups := d.groups } d) ∧
    (s.dev.awake a = true → pageGroup pg.val = some g → s.dev.mayWrite a.who pg.val = true → (s.dev.grp g.num).check ≠ none →
      a.same = false →
      Ran (.commitReq a pg) s fun d =>
        Dev.ErrShown s.dev d pg.val E.BUSY 0x01C a.who.code ∧
        Dev.Only (errKeys pg.val) [] s.dev d) ∧
    (s.dev.awake a = true → pageGroup pg.val = some g → s.dev.mayWrite a.who pg.val = true → (s.dev.grp g.num).check ≠ none →
      a.same = true →
      Ran (.commitReq a pg) s fun d =>
        Dev.Only [] [] s.dev d) ∧
    (s.dev.awake a = true → pg.val < 0x28 → pageGroup pg.val = none → s.dev.mayWrite a.who pg.val = true →
      Ran (.commitReq a pg) s fun d =>
        d.rd pg.val HDR.COMMIT_STAT_RESULT = 6 ∧
        Dev.Only [rkey pg.val 0x020] [] s.dev d)

/-- When no failure is found and the banks suffice, the checked copy becomes the group's pending capture, RESULT reads PENDING and
the target is the next frame, or the present one where the capture moves without an FLE; a failure leaves the pending capture,
reads REJECTED and is recorded on the page of the request. With no raster, or for a dark port, a pending capture moves: the
group's RWS fields take its values, RESULT reads APPLIED (CHECKING while a later check runs), and no other page's RWS field, no
shadow value and no other group changes. (R53, R54, R55, R57, R194, 03_register_pages) -/
def Obligations.CommitOutcome : Prop :=
  ∀ (s : State) (g : Fin 4) (c : Check) (b : Bad) (k : Capture) (h pg off : Nat),
    (s.dev.bank.claim = none → (s.dev.grp g.val).check = some c → firstBad (s.dev.groupBad g.val c) = none → (s.dev.placeCheck
      (s.dev.viewWith g.val c.copy)).1 = 0 →
      Ran (.commitCheckDone g) s fun d =>
        (d.grp g.val).pend = some ⟨c.copy, (if s.dev.atOnce g.val then s.dev.frameNo else s.dev.frameNo + 1) % 2 ^ 24,
          !s.dev.atOnce g.val, s.dev.mapsNow⟩ ∧
        (d.grp g.val).result = 2 ∧
        (d.grp g.val).check = none ∧
        (h ≠ g.val → d.grp h = s.dev.grp h) ∧
        d.sh = s.dev.sh ∧
        (d.word pg off &&& rwsBits pg off) = (s.dev.word pg off &&& rwsBits pg off)) ∧
    (s.dev.bank.claim = none → (s.dev.grp g.val).check = some c → c.pg < 0x28 → firstBad (s.dev.groupBad g.val c) = some b →
      Ran (.commitCheckDone g) s fun d =>
        (d.grp g.val).pend = (s.dev.grp g.val).pend ∧
        (d.grp g.val).result = 4 ∧
        (d.grp g.val).check = none ∧
        (h ≠ g.val → d.grp h = s.dev.grp h) ∧
        d.rd c.pg HDR.ERR_CODE_CODE = (if s.dev.rd c.pg HDR.ERR_CODE_CODE = 0 then b.code % 256 else s.dev.rd c.pg
          HDR.ERR_CODE_CODE) ∧
        Dev.Changes (rkey REEVE.pg 0x054 :: errKeys c.pg) ((if d.pend SCAN.pg 5 then [(SCAN.pg, 5)] else []) ++ (if d.pend
          REEVE.pg 0 then [(REEVE.pg, 0)] else [])) { s.dev with groups := d.groups } d) ∧
    ((s.dev.grp g.val).pend = some k → k.byRaster = false →
      Ran (.commitApplyNoRaster g) s fun d =>
        (d.grp g.val).pend = none ∧
        (d.grp g.val).result = (if (s.dev.grp g.val).check.isSome then (s.dev.grp g.val).result else 3) ∧
        (h ≠ g.val → d.grp h = s.dev.grp h) ∧
        d.sh = s.dev.sh ∧
        (d.word pg off &&& rwsBits pg off) = (if (pageGroup pg).map Group.num = some g.val ∧ off < 0x1000 then k.copy.word (rkey
          pg off) else s.dev.word pg off) &&& rwsBits pg off) ∧
    ((s.dev.grp g.val).pend = none →
      Ran (.commitApplyNoRaster g) s fun d =>
        Dev.Only [] [] s.dev d) ∧
    ((s.dev.grp g.val).check = some c →
      Ran (.commitCheckDone g) s fun d =>
        (d.grp g.val).check = none ∧
        ((d.grp g.val).result = 4 ∨ (d.grp g.val).pend.isSome = true) ∧
        d.sh = s.dev.sh ∧
        d.nv.mem = s.dev.nv.mem)

/-- Each of these TLPs is discarded and logged as a violation of its kind with its function, is reported by AER on the function it
matched, and changes nothing else but the logs; an unsupported non-posted request completes with UR; a write to the Granary window
and an access to a reserved BAR space are logged, and a read of reserved space returns zeros. (R65, R66, R77, R78, 04_host_link)
-/
def Obligations.LinkErrorsLogged : Prop :=
  ∀ (s : State) (a : Acc) (posted write : Bool) (f : Fin 3) (hdr : List Word) (ga len : Nat),
    (Ran (.malformedTlp a) s fun d =>
        Dev.Logged s.dev d 0x01 a.who.code ∧
        (a.who.code < 3 → bit (d.fn a.who.code).aer 18 = true) ∧
        Dev.LogOnly [] s.dev d) ∧
    (s.dev.ecrcChecked a.who = true →
      Ran (.ecrcError a) s fun d =>
        Dev.Logged s.dev d 0x02 a.who.code ∧
        (a.who.code < 3 → bit (d.fn a.who.code).aer 19 = true) ∧
        Dev.LogOnly [] s.dev d) ∧
    (s.dev.ecrcChecked a.who = false →
      Ran (.ecrcError a) s fun d =>
        Dev.Only [] [] s.dev.leaveL1 d) ∧
    (Ran (.poisonedWrite a) s fun d =>
        Dev.Logged s.dev d 0x03 a.who.code ∧
        (a.who.code < 3 → bit (d.fn a.who.code).aer 12 = true) ∧
        Dev.LogOnly [] s.dev d) ∧
    (Ran (.unexpectedCompletion a) s fun d =>
        Dev.Logged s.dev d 0x05 a.who.code ∧
        (a.who.code < 3 → bit (d.fn a.who.code).aer 16 = true) ∧
        Dev.LogOnly [] s.dev d) ∧
    (Ran (.unsupportedRequest a posted) s fun d =>
        Dev.Logged s.dev d 0x08 a.who.code ∧
        (a.who.code < 3 → bit (d.fn a.who.code).aer 20 = true) ∧
        d.host.cpl = (if posted then s.dev.host.cpl else ⟨[], 1, false⟩) ∧
        Dev.LogOnly [] s.dev d) ∧
    (s.dev.takes (Req.ofFn f) = true →
      Ran (.granaryWindowWrite f hdr ga) s fun d =>
        Dev.Logged s.dev d 0x11 f.val ∧
        Dev.LogOnly [] s.dev d) ∧
    (s.dev.takes (Req.ofFn f) = true →
      Ran (.reservedBarAccess f hdr write len) s fun d =>
        Dev.Logged s.dev d 0x12 f.val ∧
        d.host.cpl = (if write then s.dev.host.cpl else ⟨List.replicate len 0, 0, false⟩) ∧
        Dev.LogOnly [] s.dev d)

/-- PERST_N and a loss of the link put every function's configuration at its defaults and LINK_STAT at 0; with no read in progress
they touch only the link's registers. Link-up publishes rate, width and the fetch budget. A function-level reset resets one
function and ends its reads. A D-state write changes only that function's state, and the link's when it leaves or enters L2; A
request of a function that comes in L1 takes the link out of L1 and is performed as from there on (R68), shown of one write or
read of each kind. L1 entry and exit move only the link (whose enables count is the model's choice, log entry 61). On PERST_N
release the link trains and the HOST wake source fires when enabled. (R68, R70, R73, R74, R76, R87, R102, R401, 04_host_link) -/
def Obligations.LinkStates : Prop :=
  ∀ (s : State) (f : Fin 3) (st : Fin 3) (g line speed width : Nat) (flit : Bool) (a : Acc) (addr len : Nat) (xs : List (Option
    Byte)) (pg : Fin 64) (x : Word) (hdr : List Word) (ecc : Ecc),
    (Ran (.perstAssert) s fun d =>
        d.pwr.perst = true ∧
        (g < 3 → d.fn g = Fn.cleared) ∧
        d.link = 7 ∧
        d.word HOSTIF.pg 0x040 = 0 ∧
        (s.dev.on HOSTIF.pg HOSTIF.LINK_STAT_DL_UP = true → d.pend HOSTIF.pg 3 = true)) ∧
    (s.dev.host.reads = [] → s.dev.host.todo = [] →
      Ran (.perstAssert) s fun d =>
        d = { s.dev with regs := d.regs, pwr := d.pwr, host := d.host } ∧
        d.host.reads = [] ∧
        Dev.WordsBut (onPage HOSTIF.pg) s.dev d) ∧
    (s.dev.pwr.perst = false →
      Ran (.hotReset) s fun d =>
        (g < 3 → d.fn g = Fn.cleared) ∧
        d.link = 0 ∧
        d.word HOSTIF.pg 0x040 = 0 ∧
        d.host.downAt = (if s.dev.on HOSTIF.pg HOSTIF.LINK_STAT_DL_UP then some s.dev.devtime else s.dev.host.downAt) ∧
        (s.dev.on HOSTIF.pg HOSTIF.LINK_STAT_DL_UP = true → d.pend HOSTIF.pg 3 = true)) ∧
    (s.dev.pwr.perst = false → speed ∈ [1, 2, 3, 4, 5, 6] → width ∈ [1, 2, 4, 8] →
      Ran (.linkUp speed width flit) s fun d =>
        d.word HOSTIF.pg 0x040 = BitVec.ofNat 32 (speed + width * 16 + b2n flit * 2 ^ 10 + 2 ^ 11) ∧
        d.rd HOSTIF.pg HOSTIF.FETCH_BUDGET_MBPS = fetchBudget speed width ∧
        d.link = 2 ∧
        (s.dev.on HOSTIF.pg HOSTIF.LINK_STAT_DL_UP = false → d.pend HOSTIF.pg 2 = true) ∧
        (s.dev.host.downAt.isSome = true → Dev.FaultNewest d 0x0D 15 0) ∧
        Dev.LogOnly [rkey HOSTIF.pg 0x040, HOSTIF.FETCH_BUDGET_MBPS.key HOSTIF.pg 0 0, rkey HOSTIF.pg 0x008] s.dev d) ∧
    (Ran (.functionLevelReset f line) s fun d =>
        d.fn f.val = Fn.cleared ∧
        (g ≠ f.val → d.fn g = s.dev.fn g) ∧
        d.host.reads.all (fun r => r.fn != f.val) = true) ∧
    ((s.dev.host.reads.any fun r => r.fn == f.val) = false → (s.dev.host.todo.any fun w => w.fn == f.val) = false →
      s.dev.couch.pass = none →
      Ran (.functionLevelReset f line) s fun d =>
        d = { s.dev with regs := d.regs, pwr := d.pwr, host := d.host } ∧
        Dev.WordsBut (fun k => k == rkey HOSTIF.pg 0x00C) s.dev d) ∧
    (Ran (.powerStateChange f st) s fun d =>
        d.fn f.val = { s.dev.fn f.val with dstate := st.val } ∧
        (g ≠ f.val → d.fn g = s.dev.fn g) ∧
        d.answers f.val = (st.val == 0 && (s.dev.fn f.val).mse) ∧
        ((s.dev.dom 3 = 4 → d.dom 3 = 4) → Dev.Changes [rkey HOSTIF.pg 0x008] [] { s.dev with host := d.host } d)) ∧
    (s.dev.linkIdle = true → (s.dev.link = 2 ∨ s.dev.link = 3) →
      Ran (.aspmL1Entry) s fun d =>
        d.host.l1Req = (s.dev.fn 0).aspmL1 ∧
        d.host.narrow = (s.dev.on HOSTIF.pg HOSTIF.LINKPM_CTL_L0P_EN && s.dev.on HOSTIF.pg HOSTIF.LINK_STAT_FLIT && decide (1 <
          s.dev.rd HOSTIF.pg HOSTIF.LINK_STAT_WIDTH)) ∧
        d.link = (if (s.dev.fn 0).aspmL1 then (if (s.dev.fn 0).l12 then 6 else if (s.dev.fn 0).l11 then 5 else 4) else if
          d.host.narrow then 3 else s.dev.link) ∧
        Dev.Only [rkey HOSTIF.pg 0x008] [] { s.dev with host := d.host } d) ∧
    (Ran (.l1ExitLead) s fun d =>
        d.host.l1Req = false ∧
        d.host.narrow = false ∧
        d.host.ltrActive = true ∧
        d.link = (if 3 ≤ s.dev.link ∧ s.dev.link ≤ 6 then 2 else s.dev.link) ∧
        Dev.Only [rkey HOSTIF.pg 0x008] [] { s.dev with host := d.host } d) ∧
    (s.dev.pwr.perst = true →
      Ran (.perstRelease) s fun d =>
        d.pwr.perst = false ∧
        d.link = 1 ∧
        (bit (s.dev.word MOOT.pg 0x088).toNat 0 = true → d.pend MOOT.pg 0 = true ∧ bit (d.rd MOOT.pg MOOT.WAKE_LAST_SRC) 0 = true) ∧
        Dev.Changes [rkey HOSTIF.pg 0x008] [] s.dev d) ∧
    (a.who ≠ .filpor → s.dev.host.serving = false → s.dev.halted = false →
      exec (.registerWrite a addr len xs) s = exec (.registerWrite a addr len xs) { s with dev := s.dev.leaveL1 }) ∧
    (a.who ≠ .filpor → s.dev.host.serving = false → s.dev.halted = false →
      exec (.setAliasWrite a pg addr x) s = exec (.setAliasWrite a pg addr x) { s with dev := s.dev.leaveL1 }) ∧
    (a.who ≠ .filpor → s.dev.host.serving = false → s.dev.halted = false →
      exec (.evPendClear a pg x) s = exec (.evPendClear a pg x) { s with dev := s.dev.leaveL1 }) ∧
    (a.who ≠ .filpor → s.dev.host.serving = false → s.dev.halted = false →
      exec (.softReset a pg) s = exec (.softReset a pg) { s with dev := s.dev.leaveL1 }) ∧
    (a.who ≠ .filpor → s.dev.host.serving = false → s.dev.halted = false →
      exec (.commitReq a pg) s = exec (.commitReq a pg) { s with dev := s.dev.leaveL1 }) ∧
    (a.who ≠ .filpor → s.dev.host.serving = false → s.dev.halted = false →
      exec (.rectPost a) s = exec (.rectPost a) { s with dev := s.dev.leaveL1 }) ∧
    (a.who ≠ .filpor → s.dev.host.serving = false → s.dev.halted = false →
      exec (.granaryWrite a x) s = exec (.granaryWrite a x) { s with dev := s.dev.leaveL1 }) ∧
    (a.who ≠ .filpor → s.dev.host.serving = false → s.dev.halted = false →
      exec (.identity a x) s = exec (.identity a x) { s with dev := s.dev.leaveL1 }) ∧
    (a.who ≠ .filpor → s.dev.host.serving = false → s.dev.halted = false →
      exec (.claim a x) s = exec (.claim a x) { s with dev := s.dev.leaveL1 }) ∧
    (a.who ≠ .filpor → s.dev.host.serving = false → s.dev.halted = false →
      exec (.stressSnap a x) s = exec (.stressSnap a x) { s with dev := s.dev.leaveL1 }) ∧
    (a.who ≠ .filpor → s.dev.host.serving = false → s.dev.halted = false →
      exec (.trimAbort a) s = exec (.trimAbort a) { s with dev := s.dev.leaveL1 }) ∧
    (a.who ≠ .filpor → s.dev.host.serving = false → s.dev.halted = false →
      exec (.devtimeRead a) s = exec (.devtimeRead a) { s with dev := s.dev.leaveL1 }) ∧
    (s.dev.host.serving = false → s.dev.halted = false →
      exec (.bar2BankRead f hdr addr len ecc) s = exec (.bar2BankRead f hdr addr len ecc) { s with dev := s.dev.leaveL1 }) ∧
    (s.dev.host.serving = false → s.dev.halted = false →
      exec (.bar2BankWrite f hdr addr xs ecc) s = exec (.bar2BankWrite f hdr addr xs ecc) { s with dev := s.dev.leaveL1 }) ∧
    (s.dev.host.serving = false → s.dev.halted = false →
      exec (.granaryWindowRead f addr len ecc) s = exec (.granaryWindowRead f addr len ecc) { s with dev := s.dev.leaveL1 })

/-- A configuration read of a ready device completes with the register's value and changes nothing else; a write changes only that
field of that function; in factory test, with PERST_N asserted or after a rail-off there is no completion, and before the device
is ready it may complete with CRS. An MSI-X write changes one table entry or control bit; a read of BAR4 answers the table and the
PBA. A standing request that nothing holds goes out as one message with the entry's address and data, and MSG_CNT counts it. (R27,
R64, R73, R78, R102, R384, R385, 04_host_link, 21_events) -/
def Obligations.ConfigAndMessages : Prop :=
  ∀ (s : State) (f : Fin 3) (r : CfgReg) (n us up g off len : Nat) (w : Option Nat) (m : MsixWrite) (v : Fin 256),
    (s.dev.pwr.testMode = false → s.dev.pwr.perst = false → s.dev.halted = false → 40000 ≤ us → 20000 ≤ up →
      Ran (.configRequest f r none us up) s fun d =>
        d.host.cpl = ⟨leBytes 4 ((s.dev.fn f.val).cfg f.val r), 0, false⟩ ∧
        Dev.Only [] [] { s.dev.leaveL1 with host := { s.dev.leaveL1.host with cpl := d.host.cpl } } d) ∧
    (s.dev.pwr.testMode = false → s.dev.pwr.perst = false → s.dev.halted = false → 40000 ≤ us → 20000 ≤ up → s.dev.host.todo.all
      (fun w => w.fn != f.val) = true →
      Ran (.configRequest f r (some n) us up) s fun d =>
        d.host.cpl = ⟨[], 0, false⟩ ∧
        d.fn f.val = (s.dev.fn f.val).cfgWrite r n ∧
        (g ≠ f.val → d.fn g = s.dev.fn g) ∧
        d = { s.dev with regs := d.regs, pwr := d.pwr, host := d.host } ∧
        Dev.WordsBut (fun k => k == rkey HOSTIF.pg 0x00C || k == rkey HOSTIF.pg 0x008) s.dev d) ∧
    ((s.dev.pwr.testMode = true ∨ s.dev.pwr.perst = true ∨ s.dev.halted = true) →
      Ran (.configRequest f r w us up) s fun d =>
        d.host.cpl = ⟨[], 3, false⟩ ∧
        Dev.Only [] [] { s.dev with host := { s.dev.host with cpl := d.host.cpl } } d) ∧
    (s.dev.pwr.testMode = false → s.dev.pwr.perst = false → s.dev.halted = false → us < 40000 →
      Ran (.configRequest f r w us up) s fun d =>
        d.host.cpl.status = 0 ∨ d.host.cpl = ⟨[], 2, false⟩) ∧
    (s.dev.takes (Req.ofFn f) = true →
      Ran (.msixTableWrite f m) s fun d =>
        (d.fn f.val).entry v.val = entryAfter m v ((s.dev.fn f.val).entry v.val) ∧
        (g ≠ f.val → d.fn g = s.dev.fn g) ∧
        Dev.Changes [] [] { s.dev with host := d.host } d) ∧
    (Ran (.msixTableWrite f (.enable true)) s fun d =>
        (d.fn f.val).msixEn = true ∧
        Dev.Changes [] [] { s.dev with host := d.host } d) ∧
    (s.dev.takes (Req.ofFn f) = true →
      Ran (.msixTableWrite f (.read off len)) s fun d =>
        d.host.cpl = ⟨(List.range len).map fun i => s.dev.bar4Byte f.val (off + i), 0, false⟩ ∧
        Dev.Only [] [] { s.dev with host := { s.dev.host with cpl := d.host.cpl } } d) ∧
    (s.dev.host.reqs.any (fun r => r.f == f.val && r.v == v.val && !r.held) = true → s.dev.holding f.val v.val = false →
      Ran (.msixSend f v) s fun d =>
        d.host.lastMsg = some ⟨f.val, v.val, ((s.dev.fn f.val).entry v.val).addr, ((s.dev.fn f.val).entry v.val).data⟩ ∧
        (s.dev.frozen CRIER.pg = false → d.rd CRIER.pg CRIER.MSG_CNT_COUNT = satU CRIER.MSG_CNT_COUNT.w (s.dev.rd CRIER.pg
          CRIER.MSG_CNT_COUNT + 1)) ∧
        Dev.Changes [CRIER.MSG_CNT_COUNT.key CRIER.pg 0 0, rkey HOSTIF.pg 0x008] [] { s.dev with host := d.host } d)

/-- A PTM request goes out while PTM is enabled, PERIOD_MS is not 0 and the link is up. A dialogue sets VALID, starts AGE_MS anew
and records the offset (less what a slew under way still has to remove: the model's reading, log entry 65); with DISCIPLINE 1 an
offset over 1 ms steps DEVTIME at once and raises the step's event, any other is slewed. Losing PTM clears VALID and lets device
time run free. Where PTM is not the raster's reference no other register or state changes. (R75, R241, 04_host_link,
13_genlock_slots) -/
def Obligations.PtmDialogues : Prop :=
  ∀ (s : State) (h : Nat),
    ((s.dev.fn 0).ptmEn = true → s.dev.rd HOSTIF.pg HOSTIF.PTM_CTL_PERIOD_MS ≠ 0 → s.dev.on HOSTIF.pg HOSTIF.LINK_STAT_DL_UP =
      true →
      Ran (.ptmRequest) s fun d =>
        Dev.Only [] [] { s.dev with host := { s.dev.host with ptmReq := true } } d) ∧
    (s.dev.host.ptmReq = true → s.dev.on SYNC.pg SYNC.DISC_CTL_DISCIPLINE = false →
      Ran (.ptmDialogueDone h) s fun d =>
        d.on HOSTIF.pg HOSTIF.PTM_STAT_VALID = true ∧
        d.host.ptmReq = false ∧
        d.host.ptmAt = some s.dev.devtime ∧
        d.tm = { s.dev.tm with ofs := (h : Int) - s.dev.devtime - s.dev.tm.slew / 50 } ∧
        d = { s.dev with regs := d.regs, pwr := d.pwr, host := d.host, tm := d.tm, sync := d.sync }) ∧
    (s.dev.host.ptmReq = true → s.dev.on SYNC.pg SYNC.DISC_CTL_DISCIPLINE = false → s.dev.src ≠ 2 →
      Ran (.ptmDialogueDone h) s fun d =>
        Dev.Only [HOSTIF.PTM_STAT_VALID.key HOSTIF.pg 0 0, rkey HOSTIF.pg 0x00C] []
          { s.dev with tm := d.tm, host := { s.dev.host with ptmReq := false, ptmAt := d.host.ptmAt } } d) ∧
    (s.dev.host.ptmReq = true → s.dev.on SYNC.pg SYNC.DISC_CTL_DISCIPLINE = true → s.dev.devtime + 1000000 < h →
      Ran (.ptmDialogueDone h) s fun d =>
        d.tm = { s.dev.tm with ns := s.dev.tm.ns + (h - s.dev.devtime), slew := 0, ofs := 0 } ∧
        d.on HOSTIF.pg HOSTIF.PTM_STAT_VALID = true ∧
        d.pend SYNC.pg 4 = true ∧
        d.rd SYNC.pg SYNC.DEVTIME_OFS_NS = satS32 ((h : Int) - s.dev.devtime)) ∧
    (s.dev.host.ptmReq = true → s.dev.on SYNC.pg SYNC.DISC_CTL_DISCIPLINE = true → h ≤ s.dev.devtime + 1000000 →
      Ran (.ptmDialogueDone h) s fun d =>
        d.tm = { s.dev.tm with ofs := 0, slew := ((h : Int) - s.dev.devtime) * 50 } ∧
        d.on HOSTIF.pg HOSTIF.PTM_STAT_VALID = true ∧
        d.rd SYNC.pg SYNC.DEVTIME_OFS_NS = satS32 ((h : Int) - s.dev.devtime)) ∧
    (Ran (.ptmValidLost) s fun d =>
        d.on HOSTIF.pg HOSTIF.PTM_STAT_VALID = false ∧
        d.tm = { s.dev.tm with slew := 0, ofs := s.dev.tm.ofs + s.dev.tm.slew / 50 } ∧
        ((s.dev.fn 0).ptmEn = true → bit (s.dev.word HOSTIF.pg 0x00C).toNat 4 = false → d.pend HOSTIF.pg 4 = true) ∧
        d = { s.dev with regs := d.regs, pwr := d.pwr, host := d.host, tm := d.tm, sync := d.sync }) ∧
    ((s.dev.fn 0).ptmEn = true → bit (s.dev.word HOSTIF.pg 0x00C).toNat 4 = false → s.dev.src ≠ 2 →
      Ran (.ptmValidLost) s fun d =>
        Dev.Only [HOSTIF.PTM_STAT_VALID.key HOSTIF.pg 0 0, rkey HOSTIF.pg 0x00C] [(HOSTIF.pg, 4)] { s.dev with tm := d.tm } d)

/-- A BAR2 read by a function whose access is an owner access, of a bank that need not wait, completes with the bytes at the DA,
poisoned exactly when a word it touches is uncorrectable, and changes nothing else when the cells answer without error; a
non-owner's completes with zeros, is logged as NOT_OWNER and recorded in NO_LOG and ERR_CODE; an access that must wait is queued,
and a later one behind it; a function that does not answer gets UR. (R65, R71, R73, R108, R110, R115, R116, R77, 06_memory_banks)
-/
def Obligations.BankReads : Prop :=
  ∀ (s : State) (f : Fin 3) (hdr : List Word) (da len : Nat) (ecc : Ecc),
    (s.dev.takes (Req.ofFn f) = true → da < 2 ^ 30 → s.dev.handover (bankOf da) = false → s.dev.ownerAccess (f.val + 1) (bankOf
      da) false = true → s.dev.mustWait (f.val + 1) da = false → (wordsOf da len).any s.dev.isBad = false →
      Ran (.bar2BankRead f hdr da len ⟨[], []⟩) s fun d =>
        d.host.cpl = ⟨s.dev.bytes da len, 0, false⟩ ∧
        Dev.Only [] []
          { s.dev with host := { s.dev.host with cpl := d.host.cpl }, bank := { s.dev.bank with fresh := d.bank.fresh } } d) ∧
    (s.dev.takes (Req.ofFn f) = true → da < 2 ^ 30 → s.dev.handover (bankOf da) = false → s.dev.ownerAccess (f.val + 1) (bankOf
      da) false = true → s.dev.mustWait (f.val + 1) da = false → (wordsOf da len).any s.dev.isBad = true →
      Ran (.bar2BankRead f hdr da len ⟨[], []⟩) s fun d =>
        d.host.cpl = ⟨s.dev.bytes da len, 0, true⟩ ∧
        d.pend BANKS.pg 0 = true ∧
        { d.bank with fresh := s.dev.bank.fresh } = s.dev.bank ∧
        Dev.WordsBut (fun k => logKey k || onPage BANKS.pg k) s.dev d) ∧
    (s.dev.takes (Req.ofFn f) = true → da < 2 ^ 30 → (s.dev.bankRec (bankOf da)).next = none → s.dev.ownerAccess (f.val + 1)
      (bankOf da) false = false →
      Ran (.bar2BankRead f hdr da len ecc) s fun d =>
        d.host.cpl = ⟨List.replicate len 0, 0, false⟩ ∧
        Dev.Logged s.dev d 0x14 f.val ∧
        Dev.ErrShown s.dev d BANKS.pg E.NOT_OWNER (0x100 + 4 * bankOf da) f.val ∧
        d.word BANKS.pg 0x058 = BitVec.ofNat 32 (da + 2 ^ 31) ∧
        Dev.LogOnly ([rkey BANKS.pg 0x058, rkey BANKS.pg 0x05C] ++ errKeys BANKS.pg) s.dev d) ∧
    (s.dev.takes (Req.ofFn f) = true → da < 2 ^ 30 → s.dev.handover (bankOf da) = false → s.dev.ownerAccess (f.val + 1) (bankOf
      da) false = true → s.dev.mustWait (f.val + 1) da = true →
      Ran (.bar2BankRead f hdr da len ecc) s fun d =>
        Dev.Only [] []
          { s.dev with bank := { s.dev.bank with waiting := s.dev.bank.waiting ++ [⟨0, f.val, hdr, da, len, [], ecc⟩] } } d) ∧
    (s.dev.deaf ⟨Req.ofFn f, hdr, false⟩ = true →
      Ran (.bar2BankRead f hdr da len ecc) s fun d =>
        d.host.cpl = ⟨[], 1, false⟩ ∧
        Dev.Only [] [] ((s.dev.leaveL1.aerFn f.val .unsupported hdr true).replyStatus 1) d) ∧
    (s.dev.queues ⟨Req.ofFn f, hdr, false⟩ = true →
      Ran (.bar2BankRead f hdr da len ecc) s fun d =>
        Dev.Only [] []
          { s.dev.leaveL1 with host := { s.dev.leaveL1.host with later := s.dev.host.later ++ [.bar2BankRead f hdr da len ecc] } }
          d)

/-- An owner's BAR2 write of a bank that need not wait puts each enabled byte at its address and leaves every other byte of
memory; through the set (clear) alias it sets (clears) the bits of those bytes that are 1 in the data. With no uncorrectable word
among them no register but the bank's own status changes. A word written in full is good again. A non-owner's write changes no
memory and is logged; one that must wait is queued. (R65, R108, R110, R111, R115, R116, R117, R122, 06_memory_banks) -/
def Obligations.BankWrites : Prop :=
  ∀ (s : State) (f : Fin 3) (hdr : List Word) (da x w : Nat) (data : List (Option Byte)) (ecc : Ecc),
    (s.dev.takes (Req.ofFn f) = true → da < 2 ^ 30 → s.dev.handover (bankOf da) = false → s.dev.ownerAccess (f.val + 1) (bankOf
      da) true = true → s.dev.mustWait (f.val + 1) da = false → (wordsOf da data.length).any s.dev.isBad = false →
      s.dev.bank.spareDue = [] →
      Ran (.bar2BankWrite f hdr da data ⟨[], []⟩) s fun d =>
        d.byte x = (if da ≤ x then (data.getD (x - da) none).getD (s.dev.byte x) else s.dev.byte x) ∧
        d.bank.bad = s.dev.bank.bad ∧
        Dev.Only [rkey BANKS.pg (0x200 + 4 * bankOf da)] [] { s.dev with bank := d.bank } d) ∧
    (s.dev.takes (Req.ofFn f) = true → da < 2 ^ 30 → s.dev.handover (bankOf da) = false → s.dev.ownerAccess (f.val + 1) (bankOf
      da) true = true → s.dev.mustWait (f.val + 1) da = false → w ∈ fullWords da data →
      Ran (.bar2BankWrite f hdr da data ⟨[], []⟩) s fun d =>
        d.isBad w = false ∧
        (d.bank.bad.filter (· != w) = s.dev.bank.bad.filter (· != w) ∨ (fullWords da data).length ≠ 1 ∨ data.length ≠ 8)) ∧
    (s.dev.takes (Req.ofFn f) = true → da < 2 ^ 30 → s.dev.handover (bankOf da) = false → s.dev.ownerAccess (f.val + 1) (bankOf
      da) true = true → s.dev.mustWait (f.val + 1) da = false → (wordsOf da data.length).any s.dev.isBad = false →
      s.dev.bank.spareDue = [] →
      Ran (.bar2SetAliasWrite f hdr da data ⟨[], []⟩) s fun d =>
        d.byte x = (if da ≤ x then s.dev.byte x ||| (data.getD (x - da) none).getD 0 else s.dev.byte x) ∧
        d.bank.bad = s.dev.bank.bad ∧
        Dev.Only [rkey BANKS.pg (0x200 + 4 * bankOf da)] [] { s.dev with bank := d.bank } d) ∧
    (s.dev.takes (Req.ofFn f) = true → da < 2 ^ 30 → s.dev.handover (bankOf da) = false → s.dev.ownerAccess (f.val + 1) (bankOf
      da) true = true → s.dev.mustWait (f.val + 1) da = false → (wordsOf da data.length).any s.dev.isBad = false →
      s.dev.bank.spareDue = [] →
      Ran (.bar2ClearAliasWrite f hdr da data ⟨[], []⟩) s fun d =>
        d.byte x = (if da ≤ x then s.dev.byte x &&& ~~~((data.getD (x - da) none).getD 0) else s.dev.byte x) ∧
        d.bank.bad = s.dev.bank.bad ∧
        Dev.Only [rkey BANKS.pg (0x200 + 4 * bankOf da)] [] { s.dev with bank := d.bank } d) ∧
    (s.dev.takes (Req.ofFn f) = true → da < 2 ^ 30 → (s.dev.bankRec (bankOf da)).next = none → s.dev.ownerAccess (f.val + 1)
      (bankOf da) true = false →
      Ran (.bar2BankWrite f hdr da data ecc) s fun d =>
        Dev.Logged s.dev d 0x14 f.val ∧
        Dev.ErrShown s.dev d BANKS.pg E.NOT_OWNER (0x100 + 4 * bankOf da) f.val ∧
        Dev.LogOnly ([rkey BANKS.pg 0x058, rkey BANKS.pg 0x05C] ++ errKeys BANKS.pg) s.dev d) ∧
    (s.dev.takes (Req.ofFn f) = true → da < 2 ^ 30 → s.dev.handover (bankOf da) = true → (s.dev.bankRec (bankOf da)).next = some
      (f.val + 1) →
      Ran (.bar2BankWrite f hdr da data ecc) s fun d =>
        Dev.Only [] []
          { s.dev with bank := { s.dev.bank with waiting := s.dev.bank.waiting ++ [⟨1, f.val, hdr, da, data.length, data, ecc⟩] } }
          d)

/-- A scrub of a clean line changes nothing, of a line with a corrected error only counts it. An accepted OWNER write starts a
drain that keeps the owner; its end changes the owner, raises the event and empties a bank that is to be zero-filled; refusals are
recorded. A bank that is to be zero-filled is ZEROING after the drain. ZEROING ends READY with zeros; SIGN ends in retention with
the signature of the bank's bytes; VERIFY ends READY on a match, LOST with its code, record and event otherwise. The contents of
other banks stay. Each of them does so whatever the cells answer and whatever waits. (R110, R112, R117, R118, R120, R121, R122,
R128, R142, 06_memory_banks) -/
def Obligations.BankUpkeep : Prop :=
  ∀ (s : State) (a : Acc) (b : Fin 64) (line da x o : Nat) (ow : Fin 16) (ecc : Ecc),
    (s.dev.on BANKS.pg BANKS.ECC_CTL_SCRUB_EN = true → s.dev.bankState b.val = 5 → (wordsOf (b.val * 2 ^ 24 + line % 2 ^ 18 * 64)
      64).any s.dev.isBad = false →
      Ran (.scrubLine b line ⟨[], []⟩) s fun d =>
        Dev.Only [] [] { s.dev with bank := { s.dev.bank with fresh := d.bank.fresh } } d) ∧
    (s.dev.on BANKS.pg BANKS.ECC_CTL_SCRUB_EN = true → s.dev.bankState b.val = 5 → da / 64 = b.val * 2 ^ 18 + line % 2 ^ 18 →
      s.dev.bank.borrowed = [] → (wordsOf (b.val * 2 ^ 24 + line % 2 ^ 18 * 64) 64).any s.dev.isBad = false →
      Ran (.scrubLine b line ⟨[(da, false)], []⟩) s fun d =>
        (s.dev.frozen BANKS.pg = false → d.rd BANKS.pg BANKS.BANK_STAT_CORR_CNT b.val = satU BANKS.BANK_STAT_CORR_CNT.w (s.dev.rd
          BANKS.pg BANKS.BANK_STAT_CORR_CNT b.val + 1)) ∧
        Dev.Only [BANKS.BANK_STAT_CORR_CNT.key BANKS.pg b.val 0] []
          { s.dev with bank := { s.dev.bank with fresh := d.bank.fresh } } d) ∧
    (s.dev.awake a = true → a.who = .pf0 → ow.val < 12 → (s.dev.region b.val = 0 ∨ s.dev.region b.val = 6) → s.dev.handover b.val
      = false → (s.dev.bankRec b.val).deferred = none → s.dev.bankState b.val = 5 → s.dev.couch.pass = none →
      Ran (.ownerWrite a b ow) s fun d =>
        d.handover b.val = true ∧
        (d.bankRec b.val).next = some ow.val ∧
        d.owner b.val = s.dev.owner b.val ∧
        (d.bankRec b.val).zeroFill = (decide (1 ≤ ow.val ∧ ow.val ≤ 3 ∧ (s.dev.owner b.val ≤ 3 ∨ s.dev.owner b.val = Own.MTEST))
          && s.dev.owner b.val != ow.val) ∧
        Dev.Only [rkey BANKS.pg (0x200 + 4 * b.val)] [] { s.dev with bank := d.bank } d ∧
        d.bank.mem = s.dev.bank.mem) ∧
    (s.dev.awake a = true → s.dev.mayWrite a.who BANKS.pg = true → ow.val < 12 → a.who ≠ .pf0 → s.dev.owner b.val ≠ Own.of a.who →
      Ran (.ownerWrite a b ow) s fun d =>
        Dev.ErrShown s.dev d BANKS.pg E.NOT_OWNER (0x100 + 4 * b.val) a.who.code ∧
        Dev.Only (errKeys BANKS.pg) [] s.dev d) ∧
    (s.dev.handover b.val = true → (s.dev.bankRec b.val).next = some o → o < 12 → s.dev.itemOf b.val = none → (s.dev.region b.val
      = 0 ∨ s.dev.region b.val = 6) → s.dev.bank.waiting = [] →
      Ran (.handoverDone b) s fun d =>
        d.owner b.val = o ∧
        d.handover b.val = false ∧
        d.pend BANKS.pg 2 = true ∧
        d.byte x = (if (s.dev.bankRec b.val).zeroFill ∧ bankOf x = b.val then 0 else s.dev.byte x) ∧
        d.bankState b.val = (if (s.dev.bankRec b.val).zeroFill ∧ s.dev.bankState b.val = 5 then 4 else s.dev.bankState b.val) ∧
        Dev.WordsBut (fun k => onPage BANKS.pg k || onPage REEVE.pg k || k == COUCH.STATS_BANK_BANK.key COUCH.pg 0 0) s.dev d) ∧
    ((s.dev.bankRec b.val).zeroFill = true → (s.dev.bankRec b.val).deferred = none → s.dev.handover b.val = false →
      s.dev.bank.waiting = [] → s.dev.bank.spareDue = [] →
      Ran (.handoverZeroFillDone b) s fun d =>
        (d.bankRec b.val).zeroFill = false ∧
        d.bankState b.val = (if s.dev.bankState b.val = 4 then 5 else s.dev.bankState b.val) ∧
        d.bank.mem = s.dev.bank.mem ∧
        Dev.Only [rkey BANKS.pg (0x200 + 4 * b.val)] [] { s.dev with bank := d.bank } d) ∧
    (s.dev.bankState b.val = 4 → (s.dev.bankRec b.val).zeroFill = false → (s.dev.bankRec b.val).deferred = none →
      s.dev.bank.waiting = [] → s.dev.bank.spareDue = [] →
      Ran (.bankZeroingDone b) s fun d =>
        d.bankState b.val = 5 ∧
        d.byte x = (if bankOf x = b.val then 0 else s.dev.byte x) ∧
        Dev.Only [rkey BANKS.pg (0x200 + 4 * b.val)] [] { s.dev with bank := d.bank } d) ∧
    (s.dev.bankState b.val = 1 →
      Ran (.bankSignDone b ⟨[], []⟩) s fun d =>
        d.bankState b.val = 2 ∧
        (d.bankRec b.val).sig = crc64 (s.dev.bytes (b.val * 2 ^ 24) (2 ^ 24)) ∧
        d.bank.mem = s.dev.bank.mem ∧
        Dev.Only [rkey BANKS.pg (0x200 + 4 * b.val)] [] { s.dev with bank := d.bank } d) ∧
    (s.dev.bankState b.val = 3 → (s.dev.bankRec b.val).markLost = false → (s.dev.bank.bad.any fun w => w / 2 ^ 21 == b.val) =
      false → crc64 (s.dev.bytes (b.val * 2 ^ 24) (2 ^ 24)) = (s.dev.bankRec b.val).sig → (s.dev.bankRec b.val).deferred = none →
      s.dev.bank.waiting = [] → s.dev.bank.spareDue = [] →
      Ran (.bankVerifyDone b ⟨[], []⟩) s fun d =>
        d.bankState b.val = 5 ∧
        d.bank.mem = s.dev.bank.mem ∧
        Dev.WordsBut (fun k => onPage BANKS.pg k || onPage (TDL.pg 0) k || onPage (TDL.pg 1) k) s.dev d) ∧
    (s.dev.bankState b.val = 3 → (s.dev.bankRec b.val).markLost = true → s.dev.itemOf b.val = none → (s.dev.bankRec
      b.val).deferred = none → s.dev.bank.waiting = [] → s.dev.bank.spareDue = [] →
      Ran (.bankVerifyDone b ⟨[], []⟩) s fun d =>
        d.bankState b.val = 6 ∧
        d.pend BANKS.pg 3 = true ∧
        d.rd BANKS.pg HDR.ERR_CODE_CODE = (if s.dev.rd BANKS.pg HDR.ERR_CODE_CODE = 0 then E.RETENTION_LOST else s.dev.rd BANKS.pg
          HDR.ERR_CODE_CODE) ∧
        Dev.FaultNewest d 0x05 15 b.val ∧
        d.bank.mem = s.dev.bank.mem) ∧
    (Ran (.replacementCopyDone b) s fun d =>
        (d.bankRec b.val).copying = false ∧
        Dev.Only [] [] { s.dev with bank := { s.dev.bank with banks := d.bank.banks } } d) ∧
    (s.dev.on BANKS.pg BANKS.ECC_CTL_SCRUB_EN = true → s.dev.bankState b.val = 5 → s.dev.bank.fresh = [] → ecc.single = [] →
      Ran (.scrubLine b line ecc) s fun d =>
        d.nv.mem = s.dev.nv.mem ∧
        (x / 64 ≠ b.val * 2 ^ 18 + line % 2 ^ 18 → d.byte x = s.dev.byte x)) ∧
    (s.dev.bankState b.val = 1 →
      Ran (.bankSignDone b ecc) s fun d =>
        d.bankState b.val = 2 ∧
        (d.bankRec b.val).sig = crc64 (d.bytes (b.val * 2 ^ 24) (2 ^ 24)) ∧
        d.nv.mem = s.dev.nv.mem) ∧
    (s.dev.bankState b.val = 3 → (s.dev.bankRec b.val).deferred = none →
      Ran (.bankVerifyDone b ecc) s fun d =>
        5 ≤ d.bankState b.val ∧
        d.nv.mem = s.dev.nv.mem) ∧
    (s.dev.handover b.val = true → (s.dev.bankRec b.val).next = some o → o < 12 →
      Ran (.handoverDone b) s fun d =>
        (s.dev.itemOf b.val = none ∧ (s.dev.region b.val = 0 ∨ s.dev.region b.val = 6) → d.owner b.val = o) ∧
        d.handover b.val = false ∧
        d.pend BANKS.pg 2 = true)

/-- SPARE_CTL.START by PF0 on a READY bank, with none running, makes the bank SPARING, shows the sparing in SPARE_STAT, marks the
operation BUSY and opens a fault record; with a sparing running it is dropped with E_BUSY, on a bank not READY with E_STATE, by
another function as without right. An abort puts the bank back in READY and ends ABORTED; the commit point maps the bank to its
spare, READY with no hard errors, ends COMPLETED and raises the event. No byte of another bank changes. (R60, R67, R123, R124,
06_memory_banks) -/
def Obligations.SparingRuns : Prop :=
  ∀ (s : State) (a : Acc) (x : Word) (b y : Nat),
    (s.dev.awake a = true → a.who = .pf0 → BANKS.SPARE_CTL_ABORT.of x = 0 → s.dev.sparing = false → BANKS.SPARE_CTL_BANK.of x = b
      → s.dev.bankState b = 5 → s.dev.servedBy b = none → s.dev.spareFree (if b < 32 then 0 else 1) = true →
      Ran (.spareStart a x) s fun d =>
        d.bankState b = 7 ∧
        d.word BANKS.pg 0x048 = BitVec.ofNat 32 (4 + b * 256) ∧
        d.on BANKS.pg HDR.PG_STAT_BUSY = true ∧
        Dev.FaultNewest d 0x03 15 b ∧
        d.bank = { s.dev.bank with spareTo := if b < 32 then 0 else 1 } ∧
        Dev.WordsBut (fun k => logKey k || onPage BANKS.pg k) s.dev d) ∧
    (s.dev.awake a = true → a.who = .pf0 → BANKS.SPARE_CTL_ABORT.of x = 0 → s.dev.sparing = true →
      Ran (.spareStart a x) s fun d =>
        Dev.ErrShown s.dev d BANKS.pg E.BUSY 0x044 0 ∧
        d.bank = s.dev.bank ∧
        Dev.WordsBut (fun k => k == rkey BANKS.pg 0x044 || (errKeys BANKS.pg).contains k) s.dev d) ∧
    (s.dev.awake a = true → a.who = .pf0 → BANKS.SPARE_CTL_ABORT.of x = 0 → s.dev.sparing = false → s.dev.bankState
      (BANKS.SPARE_CTL_BANK.of x) ≠ 5 →
      Ran (.spareStart a x) s fun d =>
        Dev.ErrShown s.dev d BANKS.pg E.STATE 0x044 0 ∧
        d.bank = s.dev.bank ∧
        Dev.WordsBut (fun k => k == rkey BANKS.pg 0x044 || (errKeys BANKS.pg).contains k) s.dev d) ∧
    (s.dev.awake a = true → s.dev.mayWrite a.who BANKS.pg = true → a.who ≠ .pf0 → BANKS.SPARE_CTL_ABORT.of x = 0 →
      Ran (.spareStart a x) s fun d =>
        Dev.ErrShown s.dev d BANKS.pg E.PRIV 0x044 a.who.code ∧
        Dev.Logged s.dev d 0x13 a.who.code ∧
        d.bank = s.dev.bank) ∧
    (s.dev.awake a = true → s.dev.mayWrite a.who BANKS.pg = true → s.dev.sparing = true → s.dev.bank.spareDue = [] →
      s.dev.bankState b = 7 → s.dev.rd BANKS.pg BANKS.SPARE_STAT_BANK = b →
      Ran (.spareAbort a) s fun d =>
        d.bankState b = 5 ∧
        d.sparing = false ∧
        d.rd BANKS.pg BANKS.SPARE_STAT_OUTCOME = 1 ∧
        d.on BANKS.pg HDR.PG_STAT_BUSY = false ∧
        Dev.ErrShown s.dev d BANKS.pg E.ABORTED 0x044 a.who.code ∧
        d.servedBy b = s.dev.servedBy b ∧
        (bankOf y ≠ b → d.byte y = s.dev.byte y) ∧
        Dev.WordsBut (fun k => logKey k || onPage BANKS.pg k) s.dev d) ∧
    (s.dev.sparing = true → s.dev.bank.spareDue = [] → s.dev.bankState b = 7 → s.dev.rd BANKS.pg BANKS.SPARE_STAT_BANK = b →
      s.dev.bank.spareTo = 0 →
      Ran (.spareCommit) s fun d =>
        d.bankState b = 5 ∧
        d.servedBy b = some 0 ∧
        d.rd BANKS.pg BANKS.BANK_STAT_HARD_CNT b = 0 ∧
        d.sparing = false ∧
        d.rd BANKS.pg BANKS.SPARE_STAT_OUTCOME = 0 ∧
        d.pend BANKS.pg 4 = true ∧
        d.rd BANKS.pg BANKS.SPARE_STAT_PROGRESS_KIB = 16384 ∧
        (bankOf y ≠ b → d.byte y = s.dev.byte y) ∧
        Dev.WordsBut (fun k => logKey k || onPage BANKS.pg k) s.dev d) ∧
    (s.dev.sparing = true → s.dev.bank.spareDue = [] → s.dev.bankState b = 7 → s.dev.rd BANKS.pg BANKS.SPARE_STAT_BANK = b →
      s.dev.bank.spareTo = 1 → s.dev.on BANKS.pg BANKS.SPARE_MAP_S0_VALID = false →
      Ran (.spareCommit) s fun d =>
        d.bankState b = 5 ∧
        d.servedBy b = some 1 ∧
        d.rd BANKS.pg BANKS.SPARE_STAT_OUTCOME = 0 ∧
        d.pend BANKS.pg 4 = true) ∧
    (s.dev.sparing = true → s.dev.bank.spareDue = [] → s.dev.bankState b = 7 → s.dev.rd BANKS.pg BANKS.SPARE_STAT_BANK = b →
      s.dev.bank.spareTo < 2 →
      Ran (.spareCommit) s fun d =>
        d.servedBy b = some s.dev.bank.spareTo ∧
        d.sparing = false ∧
        d.rd BANKS.pg BANKS.SPARE_STAT_OUTCOME = 0 ∧
        d.pend BANKS.pg 4 = true ∧
        (bankOf y ≠ b → d.byte y = s.dev.byte y))

/-- With MTEST and LENT_EN enabled at economy level 0, a chunk of a lent READY bank out of handover is borrowed and shown, where
R127 lets it; its return with no failure ends the loan and changes nothing else; failures are counted and raise the event. A
whole-bank pass of the FREE bank under test counts, leaves the bank zero-filled and owned by none. No byte of another bank
changes. A pass with failures counts them too. A test that a scrub, a signature or a check may follow: a clean scrub changes no
byte, ZEROING ends READY, SIGN ends in RETAIN, VERIFY of a bank marked LOST ends LOST. (R121, R125, R126, R127, R303,
06_memory_banks) -/
def Obligations.MemoryTestBorrows : Prop :=
  ∀ (s : State) (b : Fin 64) (c : Fin 4096) (n x line : Nat) (ecc : Ecc),
    (s.dev.mtestOn = true → s.dev.on MTEST.pg MTEST.MT_CTL_LENT_EN = true → s.dev.on BANKS.pg BANKS.BANK_CFG_LEND b.val = true →
      s.dev.bankState b.val = 5 → s.dev.handover b.val = false → (s.dev.bank.borrowed.any fun e => e.1 == b.val) = false →
      s.dev.borrowable b.val c.val = true →
      Ran (.mtestBorrow b c) s fun d =>
        d.word MTEST.pg 0x044 = BitVec.ofNat 32 (b.val + c.val * 256) ∧
        d.mtestState = 2 ∧
        Dev.Only [rkey MTEST.pg 0x044] []
          { s.dev with bank := { s.dev.bank with borrowed := s.dev.bank.borrowed ++ [(b.val, c.val)] } } d) ∧
    ((s.dev.bank.borrowed.any fun e => e.1 == b.val) = true → s.dev.bank.waiting = [] →
      Ran (.mtestRestoreDone b 0) s fun d =>
        (d.bank.borrowed.any fun e => e.1 == b.val) = false ∧
        d.bank.mem = s.dev.bank.mem ∧
        Dev.Only [] [] { s.dev with bank := d.bank } d) ∧
    ((s.dev.bank.borrowed.any fun e => e.1 == b.val) = true → s.dev.bank.waiting = [] → 0 < n → s.dev.frozen MTEST.pg = false →
      s.dev.on BANKS.pg BANKS.ECC_CTL_AUTO_SPARE = false → s.dev.servedBy b.val = none →
      Ran (.mtestRestoreDone b n) s fun d =>
        d.rd MTEST.pg MTEST.MT_FAILS_COUNT = satU MTEST.MT_FAILS_COUNT.w (s.dev.rd MTEST.pg MTEST.MT_FAILS_COUNT + n) ∧
        d.rd BANKS.pg BANKS.BANK_STAT_HARD_CNT b.val = satU 8 (s.dev.rd BANKS.pg BANKS.BANK_STAT_HARD_CNT b.val + n) ∧
        Dev.Only [MTEST.MT_FAILS_COUNT.key MTEST.pg 0 0, BANKS.BANK_STAT_HARD_CNT.key BANKS.pg b.val 0] [(MTEST.pg, 0)]
          { s.dev with bank := d.bank } d) ∧
    (s.dev.mtestOn = true → s.dev.underTest = some b.val → s.dev.bankState b.val = 5 →
      Ran (.mtestPassDone b 0) s fun d =>
        d.owner b.val = 0 ∧
        d.byte x = (if bankOf x = b.val then 0 else s.dev.byte x) ∧
        (s.dev.frozen MTEST.pg = false → d.rd MTEST.pg MTEST.MT_PASSES_COUNT = satU MTEST.MT_PASSES_COUNT.w (s.dev.rd MTEST.pg
          MTEST.MT_PASSES_COUNT + 1)) ∧
        Dev.Only [rkey MTEST.pg 0x044, MTEST.MT_PASSES_COUNT.key MTEST.pg 0 0, BANKS.BANK_CFG_OWNER.key BANKS.pg b.val 0] []
          { s.dev with bank := d.bank } d) ∧
    (s.dev.mtestOn = true → s.dev.underTest = some b.val → s.dev.bankState b.val = 5 → 0 < n → s.dev.frozen MTEST.pg = false →
      s.dev.on BANKS.pg BANKS.ECC_CTL_AUTO_SPARE = false → s.dev.servedBy b.val = none →
      Ran (.mtestPassDone b n) s fun d =>
        d.owner b.val = 0 ∧
        d.rd MTEST.pg MTEST.MT_FAILS_COUNT = satU MTEST.MT_FAILS_COUNT.w (s.dev.rd MTEST.pg MTEST.MT_FAILS_COUNT + n) ∧
        d.rd MTEST.pg MTEST.MT_PASSES_COUNT = satU MTEST.MT_PASSES_COUNT.w (s.dev.rd MTEST.pg MTEST.MT_PASSES_COUNT + 1) ∧
        d.pend MTEST.pg 0 = true ∧
        d.byte x = (if bankOf x = b.val then 0 else s.dev.byte x)) ∧
    (s.dev.on BANKS.pg BANKS.ECC_CTL_SCRUB_EN = true → s.dev.bankState b.val = 5 → (wordsOf (b.val * 2 ^ 24 + line % 2 ^ 18 * 64)
      64).any s.dev.isBad = false →
      Ran (.scrubLine b line ⟨[], []⟩) s fun d =>
        d.bank.mem = s.dev.bank.mem) ∧
    (s.dev.bankState b.val = 4 → (s.dev.bankRec b.val).zeroFill = false →
      Ran (.bankZeroingDone b) s fun d =>
        5 ≤ d.bankState b.val ∧
        d.nv.mem = s.dev.nv.mem) ∧
    (s.dev.bankState b.val = 1 →
      Ran (.bankSignDone b ecc) s fun d =>
        d.bankState b.val = 2) ∧
    (s.dev.bankState b.val = 3 → (s.dev.bankRec b.val).markLost = true → (s.dev.bankRec b.val).deferred = none →
      Ran (.bankVerifyDone b ecc) s fun d =>
        d.bankState b.val = 6 ∨ d.bankState b.val = 8) ∧
    (Ran (.replacementCopyDone b) s fun d =>
        (d.bankRec b.val).copying = false)

/-- A claim of a FREE bank for PF0-PF2, with none in progress, no check running and banks enough for the active and pending
configurations, makes the bank CLAIMED and starts its handover, with CLAIM_STAT.BUSY; a release starts the handover of a claimed
bank to nobody; when the handover has ended BUSY clears and the event is raised. A claim for no function, or while one runs, is
dropped with E_RANGE or E_BUSY. An accepted OWNER write starts the drain as well, its end raises the event, and a zero-fill ends.
(R67, R134, R144, 06_memory_banks, 07_placement) -/
def Obligations.ClaimsAndReleases : Prop :=
  ∀ (s : State) (a : Acc) (x : Word) (b o : Nat) (c : ClaimSt) (n : Fin 64) (ow : Fin 16),
    (s.dev.awake a = true → s.dev.mayWrite a.who REEVE.pg = true → REEVE.CLAIM_DO_RELEASE.of x = 0 → REEVE.CLAIM_BANK.of x = b →
      REEVE.CLAIM_FOR.of x = o → 1 ≤ o → o ≤ 3 → s.dev.claimBusy = false → [0, 1, 2, 3].any (fun g => (s.dev.grp g).check.isSome)
      = false → s.dev.bankState b ≠ 8 → s.dev.region b = 0 → s.dev.handover b = false → (s.dev.bankRec b).deferred = none →
      s.dev.needMost + 1 ≤ s.dev.avail.length →
      Ran (.claim a x) s fun d =>
        d.claimBusy = true ∧
        d.region b = 6 ∧
        d.handover b = true ∧
        (d.bankRec b).next = some o ∧
        d.bank.mem = s.dev.bank.mem ∧
        (s.dev.couch.pass = none → Dev.WordsBut (fun k => onPage BANKS.pg k || onPage REEVE.pg k || k == COUCH.STATS_BANK_BANK.key
          COUCH.pg 0 0) s.dev d ∧ d = { s.dev with regs := d.regs, pwr := d.pwr, host := d.host, bank := d.bank })) ∧
    (s.dev.awake a = true → s.dev.mayWrite a.who REEVE.pg = true → REEVE.CLAIM_DO_RELEASE.of x = 0 → (REEVE.CLAIM_FOR.of x = 0 ∨ 3
      < REEVE.CLAIM_FOR.of x) →
      Ran (.claim a x) s fun d =>
        Dev.ErrShown s.dev d REEVE.pg E.RANGE 0x044 a.who.code ∧
        Dev.Only (rkey REEVE.pg 0x044 :: errKeys REEVE.pg) [] s.dev d) ∧
    (s.dev.awake a = true → s.dev.mayWrite a.who REEVE.pg = true → REEVE.CLAIM_DO_CLAIM.of x = 0 → REEVE.CLAIM_BANK.of x = b →
      s.dev.claimBusy = false → s.dev.region b = 6 → s.dev.handover b = false → (s.dev.bankRec b).deferred = none →
      Ran (.release a x) s fun d =>
        d.claimBusy = true ∧
        d.handover b = true ∧
        (d.bankRec b).next = some 0 ∧
        d.bank.mem = s.dev.bank.mem ∧
        (s.dev.couch.pass = none → Dev.Only [rkey REEVE.pg 0x044, REEVE.CLAIM_STAT_BUSY.key REEVE.pg 0 0,
          BANKS.BANK_STAT_HANDOVER.key BANKS.pg b 0] [] { s.dev with bank := d.bank } d)) ∧
    (s.dev.awake a = true → s.dev.mayWrite a.who REEVE.pg = true → REEVE.CLAIM_DO_CLAIM.of x = 0 → s.dev.claimBusy = true →
      Ran (.release a x) s fun d =>
        Dev.ErrShown s.dev d REEVE.pg E.BUSY 0x044 a.who.code ∧
        Dev.Only (rkey REEVE.pg 0x044 :: errKeys REEVE.pg) [] s.dev d) ∧
    (s.dev.bank.claim = some c → c.waitFle = false → c.waitCheck = none → s.dev.handover c.bank = false →
      Ran (.claimDone) s fun d =>
        d.claimBusy = false ∧
        d.bank.claim = none ∧
        d.pend REEVE.pg 5 = true ∧
        d.bank.mem = s.dev.bank.mem ∧
        Dev.WordsBut (fun k => onPage BANKS.pg k || onPage REEVE.pg k || k == COUCH.STATS_BANK_BANK.key COUCH.pg 0 0) s.dev d) ∧
    (s.dev.awake a = true → a.who = .pf0 → ow.val < 12 → (s.dev.region n.val = 0 ∨ s.dev.region n.val = 6) → s.dev.handover n.val
      = false → (s.dev.bankRec n.val).deferred = none → s.dev.bankState n.val = 5 → s.dev.couch.pass = none →
      Ran (.ownerWrite a n ow) s fun d =>
        d.handover n.val = true) ∧
    (s.dev.handover n.val = true → (s.dev.bankRec n.val).next = some o → o < 12 →
      Ran (.handoverDone n) s fun d =>
        d.handover n.val = false ∧
        d.pend BANKS.pg 2 = true) ∧
    ((s.dev.bankRec n.val).zeroFill = true → (s.dev.bankRec n.val).deferred = none → s.dev.handover n.val = false →
      Ran (.handoverZeroFillDone n) s fun d =>
        (d.bankRec n.val).zeroFill = false)

/-- At the commit point of a migration of an item whose banks are distinct, the region's SEED takes the new value, OUTCOME reads
COMPLETED, the event is raised, and every byte of the rows moved reads at its item offset as before, although its address has
changed, as does the mark of its word; bytes outside the rows moved do not change. An abort before it starts the roll-back with
E_ABORTED, whose end reads ABORTED with the old seed; at both every byte reads at its item offset as before. (R138, R139, R140,
07_placement) -/
def Obligations.MigrationMoves : Prop :=
  ∀ (s : State) (a : Acc) (m : Migration) (it : Item) (off x : Nat),
    (memWf s.dev.bank.mem = true → s.dev.reeve.mig = some m → m.rollback = false → m.region ∈ [3, 4, 5] → s.dev.item (kindOfRegion
      m.region) = some it → it.banks.Nodup → it.banks ≠ [] → m.rows ≤ 4096 → off < m.rows * it.banks.length * 4096 →
      Ran (.migrationCommit) s fun d =>
        d.word REEVE.pg (seedOff m.region) = m.seed ∧
        d.reeve.mig = none ∧
        d.rd REEVE.pg REEVE.MIG_STAT_OUTCOME = 0 ∧
        d.pend REEVE.pg 2 = true ∧
        d.byte (hashDA it.banks m.seed off) = s.dev.byte (s.dev.itemDA (kindOfRegion m.region) off) ∧
        d.bank.bad.contains (hashDA it.banks m.seed off / 8) = s.dev.bank.bad.contains (s.dev.itemDA (kindOfRegion m.region) off /
          8) ∧
        ((x / 2 ^ 24 ∈ it.banks ∧ x % 2 ^ 24 < s.dev.migRows m * 4096) ∨ d.byte x = s.dev.byte x) ∧
        Dev.WordsBut (onPage REEVE.pg) s.dev d) ∧
    (memWf s.dev.bank.mem = true → s.dev.awake a = true → s.dev.mayWrite a.who REEVE.pg = true → s.dev.reeve.mig = some m →
      m.rollback = false → m.region ∈ [3, 4, 5] → s.dev.item (kindOfRegion m.region) = some it → it.banks.Nodup → it.banks ≠ [] →
      m.rows ≤ 4096 → off < 4096 * it.banks.length * 4096 →
      Ran (.migrationAbort a) s fun d =>
        Dev.ErrShown s.dev d REEVE.pg E.ABORTED 0x084 a.who.code ∧
        d.reeve = { s.dev.reeve with mig := some { m with rollback := true } } ∧
        d.byte (d.itemDA (kindOfRegion m.region) off) = s.dev.byte (s.dev.itemDA (kindOfRegion m.region) off) ∧
        d.word REEVE.pg (seedOff m.region) = s.dev.word REEVE.pg (seedOff m.region) ∧
        Dev.WordsBut (onPage REEVE.pg) s.dev d) ∧
    (memWf s.dev.bank.mem = true → s.dev.reeve.mig = some m → m.rollback = true → m.region ∈ [3, 4, 5] → s.dev.item (kindOfRegion
      m.region) = some it → it.banks.Nodup → it.banks ≠ [] → s.dev.rd REEVE.pg REEVE.MIG_STAT_ROWS_DONE ≤ 4096 → off < 4096 *
      it.banks.length * 4096 →
      Ran (.migrationRollbackDone) s fun d =>
        d.reeve.mig = none ∧
        d.rd REEVE.pg REEVE.MIG_STAT_OUTCOME = 1 ∧
        d.rd REEVE.pg REEVE.MIG_STAT_ROWS_DONE = 0 ∧
        d.word REEVE.pg (seedOff m.region) = s.dev.word REEVE.pg (seedOff m.region) ∧
        d.byte (d.itemDA (kindOfRegion m.region) off) = s.dev.byte (s.dev.itemDA (kindOfRegion m.region) off) ∧
        Dev.WordsBut (onPage REEVE.pg) s.dev d)

/-- A power-on reset that neither a rail-off sequence nor a hot tripped device holds off leaves no commit, compose, raster or bank
byte, DEVTIME and FRAME_NO at 0, D1 and D2 waking and D3 to D15 off, CAUSE as due, and with VAO or VBAT present keeps the
battery-backed words. POR_N does the same with its own CAUSE from 10 us, and nothing up to 1 us; with a supply missing it leaves
the device held in reset. Supplies that come back during a rail-off sequence are noted for its end, and those that come back on a
tripped device that is not cool are there and no more. TESTMODE is sampled at the reset. A TAP reset touches the TAP alone. (R31,
R39, R99, R101, R102, R116, R121, R216, R378, 02_package_signals, 05_power_clocks_wake) -/
def Obligations.PowerOnResets : Prop :=
  ∀ (s : State) (w : PorIn) (q : SeqOff) (ns i pg off : Nat) (n : Fin 16),
    (s.dev.pwr.seqOff = none → (s.dev.pwr.tripped = true → w.cool = true) →
      Ran (.powerOnReset w) s fun d =>
        d.bank.mem = [] ∧
        d.scan.run = false ∧
        d.couch.pass = none ∧
        d.groups = [] ∧
        d.sh = [] ∧
        d.tm = ⟨0, 0, false, 0, 0⟩ ∧
        d.frameNo = 0 ∧
        d.dom n.val = (if n.val = 0 then 5 else if n.val < 3 then 1 else 0) ∧
        d.pwr.held = false ∧
        d.pwr.tripped = false ∧
        d.pwr.testMode = w.test ∧
        d.pwr.vbat = w.vbat ∧
        (s.dev.pwr.vao = true ∨ s.dev.pwr.vbat = true → d.rd AOBB.pg AOBB.AO_LOG_CAUSE = (if s.dev.pwr.due = 0 then 1 else
          s.dev.pwr.due % 8) ∧ (i < 48 → d.word AOBB.pg (0x100 + 4 * i) = s.dev.word AOBB.pg (0x100 + 4 * i))) ∧
        (0x06 ≤ pg ∧ pg < 0x21 ∧ off < 0x1000 → d.word pg off = resetWord (rkey pg off) ∨ off = 0x014)) ∧
    (s.dev.supplied = true → s.dev.pwr.seqOff = none → (s.dev.pwr.tripped = true → w.cool = true) → 10000 ≤ ns →
      Ran (.porNReset ns w) s fun d =>
        d.bank.mem = [] ∧
        d.scan.run = false ∧
        d.groups = [] ∧
        d.tm = ⟨0, 0, false, 0, 0⟩ ∧
        d.frameNo = 0 ∧
        d.dom n.val = (if n.val = 0 then 5 else if n.val < 3 then 1 else 0) ∧
        (s.dev.pwr.vao = true ∨ s.dev.pwr.vbat = true → d.rd AOBB.pg AOBB.AO_LOG_CAUSE = 2)) ∧
    (s.dev.supplied = false → s.dev.halted = false → 10000 ≤ ns →
      Ran (.porNReset ns w) s fun d =>
        d.pwr.held = true ∧
        d.bank.mem = [] ∧
        d.scan.run = false ∧
        d.groups = [] ∧
        d.tm = ⟨0, 0, false, 0, 0⟩ ∧
        d.dom n.val = (if n.val = 0 then 5 else 0) ∧
        d.pwr.vio = s.dev.pwr.vio) ∧
    (ns ≤ 1000 →
      Ran (.porNReset ns w) s fun d =>
        Dev.Only [] [] s.dev d) ∧
    (s.dev.pwr.seqOff = some q →
      Ran (.powerOnReset w) s fun d =>
        Dev.Only [] []
          { s.dev with pwr := { s.dev.pwr with vin := true, vhold := true, seqOff := some { q with again := some w } } } d) ∧
    (s.dev.pwr.seqOff = none → s.dev.pwr.tripped = true → w.cool = false →
      Ran (.powerOnReset w) s fun d =>
        d.supplied = true ∧
        d.pwr.vbat = w.vbat ∧
        Dev.Only [] []
          { s.dev with pwr := { d.pwr with vin := s.dev.pwr.vin, vao := s.dev.pwr.vao, vio := s.dev.pwr.vio, vhold := s.dev.pwr.vhold, vbat := s.dev.pwr.vbat, testMode := s.dev.pwr.testMode, held := s.dev.pwr.held } }
          { d with pwr := { d.pwr with vin := s.dev.pwr.vin, vao := s.dev.pwr.vao, vio := s.dev.pwr.vio, vhold := s.dev.pwr.vhold, vbat := s.dev.pwr.vbat, testMode := s.dev.pwr.testMode, held := s.dev.pwr.held } }) ∧
    (Ran (.tapReset) s fun d =>
        d.pwr.tapActive = false ∧
        Dev.Only [] [] { s.dev with pwr := { s.dev.pwr with tapActive := false } } d)

/-- A brown-out sets its AO_LOG bit, drops both EMIT outputs and turns D2 to D15 off, and starts the rail-off sequence with port
A's highest step; a thermal trip does the same with its own AO_LOG bit and CAUSE. Each delay of the sequence drops the next rail;
at its end the device is held for its reset, which comes at once where the supplies are back, or tripped. A hold-up that ends
early drops every rail at once. Losing VAO loses device time and, unless a brown-out's sequence runs on VHOLD, all of D0 but what
R101 keeps; losing VIO or VBAT alone changes nothing else; losing VAO and VBAT re-initialises the battery-backed words. Without
VIO every ball of its pads is high impedance; after a brown-out no EMIT is high and no lane sends. (R24, R25, R31, R33, R35, R45,
R99, R100, R342, R378, 02_package_signals) -/
def Obligations.SuppliesFail : Prop :=
  ∀ (s : State) (n : Fin 16) (p : Port) (q : SeqOff) (w : PorIn) (r : Nat) (l : List Nat) (i : Nat) (bl : Ball),
    (s.dev.pwr.held = false → s.dev.pwr.tripped = false → s.dev.pwr.seqOff = none →
      Ran (.brownout) s fun d =>
        d.pwr.vin = false ∧
        (s.dev.railsDown 0 = r :: l → d.pwr.rails = clearBit s.dev.pwr.rails r) ∧
        bit (d.word AOBB.pg 0x1FC).toNat 6 = true ∧
        (d.portR p.val).emit = false ∧
        (2 ≤ n.val → d.dom n.val = 0) ∧
        (d.pwr.seqOff.isSome = true ∨ d.pwr.held = true) ∧
        (d.pwr.seqOff.isSome = true → d.bank.mem = s.dev.bank.mem ∧ d.devtime = s.dev.devtime)) ∧
    (s.dev.pwr.held = false → s.dev.pwr.tripped = false → s.dev.pwr.seqOff = none →
      Ran (.thermalTrip) s fun d =>
        d.rd AOBB.pg AOBB.AO_LOG_CAUSE = 4 ∧
        bit (d.word AOBB.pg 0x1FC).toNat 5 = true ∧
        (d.portR p.val).emit = false ∧
        (2 ≤ n.val → d.dom n.val = 0) ∧
        (d.pwr.seqOff.isSome = true ∨ d.pwr.tripped = true) ∧
        d.bank.mem = s.dev.bank.mem ∧
        d.devtime = s.dev.devtime) ∧
    (s.dev.pwr.seqOff = some q → q.rails = r :: l →
      Ran (.railOffDelayExpire) s fun d =>
        d.pwr.rails = clearBit s.dev.pwr.rails r ∧
        d.pwr.seqOff = some { q with rails := l } ∧
        Dev.Only [rkey (PANEL.pg 0) 0x0CC, rkey (PANEL.pg 1) 0x0CC] []
          { s.dev with pwr := { s.dev.pwr with rails := clearBit s.dev.pwr.rails r, seqOff := some { q with rails := l } } } d) ∧
    (s.dev.pwr.seqOff = some q → q.rails = [] →
      Ran (.railOffDelayExpire) s fun d =>
        d.pwr.seqOff = none ∧
        (if q.thermal then d.pwr.tripped = true ∧ d.dom 1 = 0 else (q.again = none → d.pwr.held = true ∧ d.pwr.due = 3) ∧ (q.again
          = some w → (s.dev.pwr.tripped = true → w.cool = true) → d.pwr.held = false ∧ d.bank.mem = [] ∧ d.dom 1 = 1))) ∧
    (s.dev.pwr.seqOff = some q →
      Ran (.holdupShort) s fun d =>
        d.pwr.rails = 0 ∧
        bit (d.word AOBB.pg 0x1FC).toNat 4 = true ∧
        d.pwr.seqOff = none ∧
        (if q.thermal then d.pwr.tripped = true ∧ d.bank.mem = s.dev.bank.mem else d.pwr.held = true ∧ d.bank.mem = [])) ∧
    ((s.dev.pwr.seqOff = none ∨ s.dev.pwr.vin = true) →
      Ran (.supplyRemoved .vao) s fun d =>
        d.pwr.vao = false ∧
        d.pwr.held = true ∧
        d.tm = ⟨0, 0, false, 0, 0⟩ ∧
        d.bank.mem = [] ∧
        (1 ≤ n.val → d.dom n.val = 0) ∧
        (s.dev.pwr.vbat = true ∧ i < 48 → d.word AOBB.pg (0x100 + 4 * i) = s.dev.word AOBB.pg (0x100 + 4 * i))) ∧
    (s.dev.pwr.seqOff = some q → s.dev.pwr.vin = false → s.dev.pwr.vbat = true →
      Ran (.supplyRemoved .vao) s fun d =>
        Dev.Only [] []
          { s.dev with tm := ⟨0, 0, false, 0, 0⟩, pwr := { s.dev.pwr with vao := false, seqOff := some { q with again := none } } }
          d) ∧
    (Ran (.supplyRemoved .vio) s fun d =>
        d.pwr.vio = false ∧
        (s.dev.pwr.vao = true ∨ s.dev.pwr.vbat = true → Dev.Only [] [] { s.dev with pwr := { s.dev.pwr with vio := false } } d)) ∧
    (s.dev.pwr.vao = true →
      Ran (.supplyRemoved .vbat) s fun d =>
        d.pwr.vbat = false ∧
        Dev.Only [] [] { s.dev with pwr := { s.dev.pwr with vbat := false } } d) ∧
    (s.dev.pwr.vao = false → i < 62 →
      Ran (.supplyRemoved .vbat) s fun d =>
        d.word AOBB.pg (0x100 + 4 * i) = 0 ∧
        d.word AOBB.pg 0x1F8 = 2) ∧
    (bl.supply = .vio →
      Ran (.supplyRemoved .vio) s fun d =>
        d.level bl = .hiZ) ∧
    (s.dev.pwr.held = false → s.dev.pwr.tripped = false → s.dev.pwr.seqOff = none →
      Ran (.brownout) s fun d =>
        d.level (.emit p.val) ≠ .high ∧
        d.level (.tx (p.val) i) ≠ .runs)

/-- A function's write of its own vote word stores it, and a domain it names that is off starts to wake unless the device is held
or no image runs; a write of another function's word changes nothing. An enabled wake source, on the edge that counts, shows in
WAKE_LAST and WAKE_HOLD, raises EV_WAKE and wakes the mapped domains that are off; a WAKE_HOLD write clears the bits written as 1.
The alarm disarms itself, shows FIRED and raises its event. (R81, R82, R83, R85, R87, R88, R99, 05_power_clocks_wake) -/
def Obligations.VotesAndWakes : Prop :=
  ∀ (s : State) (a : Acc) (n : Fin 3) (x : Word) (k : Fin 16) (src : Fin 6) (rising : Bool),
    (s.dev.awake a = true → a.who.code = n.val →
      Ran (.voteWrite a n x) s fun d =>
        d.rd MOOT.pg MOOT.VOTE_DOMS n.val = x.toNat % 2 ^ MOOT.VOTE_DOMS.w ∧
        ((s.dev.fn n.val).dstate = 0 ∧ 0 < k.val ∧ bit x.toNat k.val = true ∧ s.dev.dom k.val = 0 ∧ s.dev.mayWake k.val = true →
          d.dom k.val = 1) ∧
        ((s.dev.dom 3 = 4 → d.dom 3 = 4) → Dev.Changes [MOOT.VOTE_DOMS.key MOOT.pg n.val 0] [] s.dev d)) ∧
    (s.dev.awake a = true → a.who.code ≠ n.val →
      Ran (.voteWrite a n x) s fun d =>
        Dev.Only [] [] s.dev d) ∧
    (bit (s.dev.word MOOT.pg 0x088).toNat src.val = true → s.dev.wakeEdge src.val rising = true →
      Ran (.wakeSourceFire src rising) s fun d =>
        bit (d.rd MOOT.pg MOOT.WAKE_LAST_SRC) src.val = true ∧
        d.pend MOOT.pg 0 = true ∧
        (0 < k.val ∧ bit (if src.val = 0 then s.dev.rd MOOT.pg MOOT.WAKE_MAP0_DOMS else s.dev.rd MOOT.pg MOOT.WAKE_MAP_DOMS
          (src.val - 1)) k.val = true → bit (d.rd MOOT.pg MOOT.WAKE_HOLD_DOMS) k.val = true ∧ (s.dev.dom k.val = 0 ∧ s.dev.mayWake
          k.val = true → d.dom k.val = 1))) ∧
    ((bit (s.dev.word MOOT.pg 0x088).toNat src.val = false ∨ s.dev.wakeEdge src.val rising = false) →
      Ran (.wakeSourceFire src rising) s fun d =>
        Dev.Only [] [] s.dev d) ∧
    (s.dev.awake a = true → s.settled = true → s.dev.mayWrite a.who MOOT.pg = true →
      Ran (.wakeHoldClear a x) s fun d =>
        d.word MOOT.pg 0x084 = (s.dev.word MOOT.pg 0x084 &&& ~~~x) ∧
        ((s.dev.dom 3 = 4 → d.dom 3 = 4) → Dev.Changes [rkey MOOT.pg 0x084] [] s.dev d)) ∧
    (s.dev.on AOBB.pg AOBB.ALARM_CTL_ARM = true → s.dev.rd AOBB.pg AOBB.ALARM_LO_NS_LO + 2 ^ 32 * s.dev.rd AOBB.pg
      AOBB.ALARM_HI_NS_HI ≤ s.dev.devtime →
      Ran (.alarmFire) s fun d =>
        d.on AOBB.pg AOBB.ALARM_CTL_ARM = false ∧
        d.on AOBB.pg AOBB.ALARM_CTL_FIRED = true ∧
        d.pend AOBB.pg 0 = true ∧
        (bit (s.dev.word MOOT.pg 0x088).toNat 4 = true → bit (d.rd MOOT.pg MOOT.WAKE_LAST_SRC) 4 = true))

/-- A waking domain gets its regulator in its turn; power-good releases it to FIRC, or after a FIRC failure to the slow clock, and
its banks start VERIFY or ZEROING; a missing power-good leads to RETRY_WAIT, after the fourth attempt to FAILED with the AO_LOG
bit and a record; the backoff starts the next attempt; RETRY wakes a FAILED domain, and records E_STATE for another. A drop that
no hold stops makes the domain DROPPING, its banks in use SIGN, the others empty; at its end the domain is off unless held. (R85,
R86, R88, R93, R96, R97, R120, R121, R420, 05_power_clocks_wake, 06_memory_banks) -/
def Obligations.DomainsWakeAndDrop : Prop :=
  ∀ (s : State) (a : Acc) (n : Fin 16) (b : Fin 64) (x : Word),
    (s.dev.dom n.val = 1 → (s.dev.domRec n.val).regOn = false → (s.dev.on CLOCK.pg CLOCK.OSC_STAT_FIRC_READY = true ∨
      (s.dev.domRec n.val).slow = true) → (List.range n.val).all (fun k => s.dev.dom k != 1 || (s.dev.domRec k).regOn) = true →
      Ran (.regulatorEnable n) s fun d =>
        (d.domRec n.val) = { s.dev.domRec n.val with regOn := true } ∧
        Dev.Only [] [] { s.dev with pwr := d.pwr } d) ∧
    (1 ≤ n.val → s.dev.dom n.val = 1 → (s.dev.domRec n.val).regOn = true → s.dev.hostHolds n.val = true →
      Ran (.powerGood n) s fun d =>
        d.dom n.val = (if (s.dev.domRec n.val).slow then 5 else 3) ∧
        ((s.dev.domRec n.val).slow = true → d.rd CLOCK.pg CLOCK.DOM_SRC_SRC 0 (n.val - 1) = 2) ∧
        (8 ≤ n.val ∧ b.val / 8 = n.val - 8 → d.bankState b.val = (if s.dev.bankState b.val = 2 then 3 else if s.dev.bankState
          b.val = 0 then 4 else s.dev.bankState b.val)) ∧
        d.bank.mem = s.dev.bank.mem) ∧
    (1 ≤ n.val → s.dev.dom n.val = 1 → (s.dev.domRec n.val).regOn = true → (s.dev.domRec n.val).attempt < 4 →
      Ran (.pgTimeoutExpire n) s fun d =>
        d.dom n.val = 2 ∧
        (d.domRec n.val) = { s.dev.domRec n.val with regOn := false } ∧
        Dev.Only [MOOT.DOM_STAT_STATE.key MOOT.pg (n.val / 8) 0] [] { s.dev with pwr := d.pwr } d) ∧
    (1 ≤ n.val → n.val < 8 → s.dev.dom n.val = 1 → (s.dev.domRec n.val).regOn = true → 4 ≤ (s.dev.domRec n.val).attempt →
      s.dev.hostHolds n.val = true →
      Ran (.pgTimeoutExpire n) s fun d =>
        d.dom n.val = 8 ∧
        bit (d.word AOBB.pg 0x1FC).toNat (16 + n.val) = true ∧
        Dev.FaultNewest d 0x0B 15 n.val) ∧
    (1 ≤ n.val → s.dev.dom n.val = 2 →
      Ran (.retryBackoffExpire n) s fun d =>
        d.dom n.val = 1 ∧
        (d.domRec n.val) = { s.dev.domRec n.val with regOn := true, attempt := (s.dev.domRec n.val).attempt + 1 } ∧
        Dev.Changes [] [] s.dev d) ∧
    (s.dev.awake a = true → s.dev.mayWrite a.who MOOT.pg = true → 1 ≤ n.val → bit x.toNat n.val = true → s.dev.dom n.val = 8 →
      Ran (.domainRetry a x) s fun d =>
        d.dom n.val = 1 ∧
        (d.domRec n.val).attempt = 1 ∧
        Dev.Changes (errKeys MOOT.pg) [] s.dev d) ∧
    (s.dev.awake a = true → s.dev.mayWrite a.who MOOT.pg = true → 1 ≤ n.val → x = BitVec.ofNat 32 (2 ^ n.val) → s.dev.dom n.val ≠
      8 →
      Ran (.domainRetry a x) s fun d =>
        Dev.ErrShown s.dev d MOOT.pg E.STATE 0x108 a.who.code ∧
        Dev.Changes (errKeys MOOT.pg) [] s.dev d) ∧
    (1 ≤ n.val → s.dev.dom n.val = 6 → s.dev.hold n.val = false →
      Ran (.dropDelayExpire n) s fun d =>
        d.dom n.val = 7 ∧
        d.rd CLOCK.pg CLOCK.DOM_SRC_SRC 0 (n.val - 1) = b2n (bit (s.dev.word CLOCK.pg 0x04C).toNat n.val) ∧
        (8 ≤ n.val ∧ b.val / 8 = n.val - 8 ∧ s.dev.bankState b.val = 5 → d.bankState b.val = (if s.dev.on BANKS.pg
          BANKS.BANK_CFG_DROP_OFF b.val ∨ s.dev.owner b.val = 0 then 0 else 1))) ∧
    (1 ≤ n.val → s.dev.dom n.val = 7 → (n.val < 8 ∨ (groupBanks n.val).all (fun b => s.dev.bankState b != 1) = true) →
      Ran (.domainDropDone n) s fun d =>
        (s.dev.hostHolds n.val = true ∧ s.dev.mayWake n.val = true → d.dom n.val = 1) ∧
        (d.dom n.val = 0 ∨ d.dom n.val = 1) ∧
        Dev.Changes [] [] s.dev d)

/-- A successful completion of a Granary, stress or layer source read puts its bytes into the buffer at their address, and with
the last byte the read is outstanding no more; a short one leaves the rest outstanding. One for a read that has ended is discarded
byte for byte, unlogged where a reset ended it, else with its errors logged and reported like any other; one that matches nothing
is logged and reported as unexpected; one with an error status, a poisoned one and a timeout are logged with what the function
reports, a timeout also counted. A Granary window read completes with the bytes at the address, poisoned where a word is
uncorrectable, and is held while it reaches the page being programmed. Whatever the read was for, its last byte frees the tag; the
last source byte of FW_WRITE begins to program the slot. A time-out that Device Control 2 disables does nothing; one of a read
that has ended frees its tag, logged unless a reset ended it. (R66, R69, R76, R78, R366, 04_host_link, 20_nonvolatile) -/
def Obligations.DeviceReadsEnd : Prop :=
  ∀ (s : State) (f : Fin 3) (tag : Nat) (st : CplStatus) (po : Bool) (data : List Byte) (hdr : List Word) (line ga len : Nat) (r :
    DevRead) (c : NvCmd) (o : StressOp) (ecc : Ecc) (m n : Nat) (b : Bool) (k : MbCmd) (e : Dropped),
    (s.dev.findRead f.val tag = some r → r.job = .granary → s.dev.nv.cmd = some c → s.dev.host.todo = [] → r.len ≤ data.length →
      Ran (.readCompletion f tag .sc false data hdr line) s fun d =>
        d.nv.cmd = some { c with bytes := putCells c.bytes r.addr (data.take r.len) } ∧
        d.findRead f.val tag = none ∧
        Dev.Only [] [] { s.dev with nv := d.nv, host := d.host } d) ∧
    (s.dev.findRead f.val tag = some r → r.job = .stressLoad → s.dev.aging.op = some o → s.dev.host.todo = [] → r.len ≤
      data.length →
      Ran (.readCompletion f tag .sc false data hdr line) s fun d =>
        d.aging.op = some { o with bytes := putCells o.bytes r.addr (data.take r.len) } ∧
        d.findRead f.val tag = none ∧
        Dev.Only [] [] { s.dev with aging := d.aging, host := d.host } d) ∧
    (s.dev.findRead f.val tag = some r → r.job = .layer m → s.dev.host.todo = [] → (s.dev.layer m).use = .fresh → (s.dev.layer
      m).failLine = none → r.len ≤ data.length →
      Ran (.readCompletion f tag .sc false data hdr line) s fun d =>
        (d.layer m).bytes = putCells (s.dev.layer m).bytes r.addr (data.take r.len) ∧
        d.findRead f.val tag = none ∧
        Dev.Only [] [] { s.dev with couch := d.couch, host := d.host } d) ∧
    (s.dev.findRead f.val tag = some r → (r.job = .granary ∨ r.job = .stressLoad) → s.dev.host.todo = [] → data.length < r.len → r
      ∈ s.dev.host.reads →
      Ran (.readCompletion f tag .sc false data hdr line) s fun d =>
        { r with addr := r.addr + data.length, len := r.len - data.length } ∈ d.host.reads) ∧
    (s.dev.findRead f.val tag = none → s.dev.host.dropped = [⟨f.val, tag, n, b⟩] → s.dev.host.todo = [] → (po = false ∨ b = true)
      →
      Ran (.readCompletion f tag .sc po data hdr line) s fun d =>
        d.host.dropped = (if n ≤ data.length then [] else [⟨f.val, tag, n - data.length, b⟩]) ∧
        Dev.Only [] [] { s.dev with host := d.host } d) ∧
    (s.dev.findRead f.val tag = none → s.dev.findDropped f.val tag = some e → e.silent = true → st ≠ .sc → s.dev.host.todo = [] →
      Ran (.readCompletion f tag st po data hdr line) s fun d =>
        d.findDropped f.val tag = none ∧
        Dev.Only [] [] { s.dev with host := d.host } d) ∧
    (s.dev.findRead f.val tag = none → s.dev.findDropped f.val tag = some e → e.silent = false → st ≠ .sc →
      Ran (.readCompletion f tag st po data hdr line) s fun d =>
        Dev.Logged s.dev d 0x07 f.val ∧
        (s.dev.host.todo = [] → d.findDropped f.val tag = none)) ∧
    (s.dev.findRead f.val tag = none → s.dev.findDropped f.val tag = some e → e.silent = false →
      Ran (.readCompletion f tag .sc true data hdr line) s fun d =>
        Dev.Logged s.dev d 0x04 f.val ∧
        bit (d.fn f.val).aer 12 = true) ∧
    (s.dev.findRead f.val tag = none → s.dev.findDropped f.val tag = none →
      Ran (.readCompletion f tag st po data hdr line) s fun d =>
        Dev.Logged s.dev d 0x05 f.val ∧
        bit (d.fn f.val).aer 16 = true ∧
        Dev.LogOnly [] s.dev d) ∧
    (s.dev.findRead f.val tag = some r → st ≠ .sc →
      Ran (.readCompletion f tag st po data hdr line) s fun d =>
        Dev.Logged s.dev d 0x07 f.val ∧
        (st = .ur → bit (d.fn f.val).status 13 = true) ∧
        (st = .ca → bit (d.fn f.val).status 12 = true ∧ bit (d.fn f.val).aer 15 = true)) ∧
    (s.dev.findRead f.val tag = some r →
      Ran (.readCompletion f tag .sc true data hdr line) s fun d =>
        Dev.Logged s.dev d 0x04 f.val ∧
        bit (d.fn f.val).aer 12 = true ∧
        bit (d.fn f.val).status 15 = true) ∧
    (s.dev.findRead f.val tag = some r → (s.dev.fn f.val).cplToOff = false →
      Ran (.cplTimeout f tag line) s fun d =>
        Dev.Logged s.dev d 0x06 f.val ∧
        bit (d.fn f.val).aer 14 = true ∧
        (s.dev.host.todo = [] ∧ (r.job = .granary ∨ r.job = .stressLoad) → d.findRead f.val tag = none) ∧
        (s.dev.frozen HOSTIF.pg = false → d.rd HOSTIF.pg HOSTIF.CPL_TO_CNT_COUNT = satU HOSTIF.CPL_TO_CNT_COUNT.w (s.dev.rd
          HOSTIF.pg HOSTIF.CPL_TO_CNT_COUNT + 1))) ∧
    (s.dev.takes (Req.ofFn f) = true → s.dev.nvPage.all (fun p => decide (p < ga % 2 ^ 25 / 256 ∨ (ga % 2 ^ 25 + len - 1) / 256 <
      p)) = true →
      Ran (.granaryWindowRead f ga len ecc) s fun d =>
        d.host.cpl.data = d.nvBytes (ga % 2 ^ 25) len ∧
        d.host.cpl.status = 0 ∧
        d.host.cpl.poisoned = (groupsOf (ga % 2 ^ 25) len).any (fun w => s.dev.nv.bad.contains w || ecc.ue.any (fun x => x / 8 ==
          w)) ∧
        (n / 8 < ga % 2 ^ 25 / 8 ∨ (ga % 2 ^ 25 + len) / 8 < n / 8 → d.nvByte n = s.dev.nvByte n)) ∧
    (s.dev.takes (Req.ofFn f) = true → s.dev.nv.writers = [] → (groupsOf (ga % 2 ^ 25) len).any (fun w => s.dev.nv.bad.contains w)
      = false →
      Ran (.granaryWindowRead f ga len ⟨[], []⟩) s fun d =>
        Dev.Only [] [] { s.dev with host := { s.dev.host with cpl := d.host.cpl } } d) ∧
    (s.dev.takes (Req.ofFn f) = true → s.dev.nvPage = some n → ga % 2 ^ 25 / 256 ≤ n → n ≤ (ga % 2 ^ 25 + len - 1) / 256 →
      Ran (.granaryWindowRead f ga len ecc) s fun d =>
        d.nv.held = s.dev.nv.held ++ [⟨ga % 2 ^ 25, len, ecc⟩] ∧
        Dev.Only [] [] { s.dev with nv := d.nv } d) ∧
    (s.dev.findRead f.val tag = some r → s.dev.host.todo = [] → r.len ≤ data.length →
      Ran (.readCompletion f tag .sc false data hdr line) s fun d =>
        d.findRead f.val tag = none) ∧
    (s.dev.host.reads = [r] → (r.fn = f.val ∧ r.tag = tag) → r.job = .mailbox → s.dev.mgmt.cmd = some k → (k.step = 1 ∧ k.op =
      Mb.FW_WRITE ∧ k.len ≠ 0) → s.dev.host.todo = [] → r.len ≤ data.length → s.dev.halted = false →
      Ran (.readCompletion f tag .sc false data hdr line) s fun d =>
        (d.mgmt.cmd.map (·.step)) = some 2 ∧
        d.writing 2 = true ∧
        d.findRead f.val tag = none ∧
        d.nv.mem = s.dev.nv.mem) ∧
    ((s.dev.fn f.val).cplToOff = true →
      Ran (.cplTimeout f tag line) s fun d =>
        Dev.Only [] [] s.dev d) ∧
    ((s.dev.fn f.val).cplToOff = false → s.dev.findRead f.val tag = none → s.dev.findDropped f.val tag = some e → e.silent = false
      →
      Ran (.cplTimeout f tag line) s fun d =>
        Dev.Logged s.dev d 0x06 f.val ∧
        bit (d.fn f.val).aer 14 = true ∧
        (s.dev.host.todo = [] → d.findDropped f.val tag = none)) ∧
    ((s.dev.fn f.val).cplToOff = false → s.dev.findRead f.val tag = none → s.dev.host.dropped.all (fun e => e.silent || !(e.fn ==
      f.val && e.tag == tag)) = true → s.dev.host.todo = [] →
      Ran (.cplTimeout f tag line) s fun d =>
        d.findDropped f.val tag = none ∧
        Dev.Only [] [] { s.dev with host := d.host } d)

/-- FIRC ready, with a domain waking, shows READY and clears FAILED. FIRC not ready in time shows FAILED with its AO_LOG bit,
event and record, and every waking domain goes on slowly; RESTART starts it again. XTAL stable shows and lets device time count;
an XT32 failure clears XT32_OK with its AO_LOG bit, event and record. An enabled PLL locks with XTAL stable; the PHY PLL's lock
moves D2 to it and starts link training. A PLL that loses lock shows it, raises the event and puts every domain it clocks on FIRC
with SRC kept. A DOM_SRC field of 1 moves a domain that is on to its PLL source when that is ready, else records E_CLOCK_NOT_READY
and leaves the domain; 0 moves it to FIRC. Filpor moves a domain on FIRC that wants its PLL source when it is ready. (R88, R89,
R90, R91, R93, R94, R95, R99, R100, R401, R420, 05_power_clocks_wake) -/
def Obligations.OscillatorsAndClocks : Prop :=
  ∀ (s : State) (a : Acc) (k : Fin 16) (p : Pll) (n : Fin 16) (x : Word),
    (s.dev.pwr.fircStarting = true → 1 ≤ k.val → s.dev.dom k.val = 1 →
      Ran (.fircReady) s fun d =>
        d.on CLOCK.pg CLOCK.OSC_STAT_FIRC_READY = true ∧
        d.on CLOCK.pg CLOCK.OSC_STAT_FIRC_FAILED = false ∧
        (s.dev.scan.exiting = false → Dev.Changes [] [] s.dev d)) ∧
    (s.settled = true → s.dev.pwr.fircStarting = true → s.dev.on CLOCK.pg CLOCK.OSC_STAT_FIRC_FAILED = false →
      Ran (.fircFail) s fun d =>
        d.on CLOCK.pg CLOCK.OSC_STAT_FIRC_FAILED = true ∧
        bit (d.word AOBB.pg 0x1FC).toNat 8 = true ∧
        Dev.FaultNewest d 0x11 15 0 ∧
        d.pend CLOCK.pg 0 = true ∧
        (1 ≤ k.val ∧ s.dev.dom k.val = 1 → (d.domRec k.val).slow = true) ∧
        (s.dev.scan.exiting = false → Dev.LogOnly [rkey AOBB.pg 0x1FC] s.dev d)) ∧
    (s.dev.awake a = true → s.dev.mayWrite a.who CLOCK.pg = true → s.dev.on CLOCK.pg CLOCK.OSC_STAT_FIRC_FAILED = true → s.dev.on
      CLOCK.pg CLOCK.OSC_STAT_FIRC_READY = false → s.settled = true →
      Ran (.fircRestart a) s fun d =>
        d.pwr = { s.dev.pwr with fircStarting := true } ∧
        Dev.Only [] [] { s.dev with pwr := d.pwr } d) ∧
    (Ran (.xtalStable) s fun d =>
        d.on CLOCK.pg CLOCK.OSC_STAT_XTAL_OK = true ∧
        d.tm = { s.dev.tm with run := true } ∧
        Dev.Only [rkey CLOCK.pg 0x040] [] { s.dev with tm := d.tm } d) ∧
    (s.settled = true → s.dev.on CLOCK.pg CLOCK.OSC_STAT_XT32_OK = true →
      Ran (.xt32Fail) s fun d =>
        d.on CLOCK.pg CLOCK.OSC_STAT_XT32_OK = false ∧
        bit (d.word AOBB.pg 0x1FC).toNat 7 = true ∧
        Dev.FaultNewest d 0x11 15 1 ∧
        d.pend CLOCK.pg 2 = true ∧
        Dev.LogOnly [rkey AOBB.pg 0x1FC] s.dev d) ∧
    (p ≠ .phy → bit (s.dev.word CLOCK.pg 0x044).toNat (pllNo p) = true → s.dev.on CLOCK.pg CLOCK.OSC_STAT_XTAL_OK = true →
      s.dev.pwr.held = false → s.dev.pwr.tripped = false → bit s.dev.pwr.pllWait (pllNo p) = false → s.dev.rd SCAN.pg
      SCAN.SR_STAT_STATE ≠ 2 →
      Ran (.pllLock p) s fun d =>
        d.locked (pllNo p) = true ∧
        (s.dev.scan.exiting = false → Dev.Changes [] [] s.dev d)) ∧
    (s.dev.pwr.perst = false → s.dev.domOn 2 = true → bit s.dev.pwr.pllWait 4 = false →
      Ran (.pllLock .phy) s fun d =>
        d.pwr.phyLock = true ∧
        d.clockState 2 = 4 ∧
        d.rd CLOCK.pg CLOCK.DOM_SRC_SRC 0 1 = 1 ∧
        d.link = (if s.dev.link = 0 then 1 else s.dev.link) ∧
        Dev.Changes [rkey CLOCK.pg 0x048, rkey HOSTIF.pg 0x008] [] s.dev d) ∧
    (s.dev.locked (pllNo p) = true → s.dev.portState 0 ≠ 1 → s.dev.portState 1 ≠ 1 → 1 ≤ n.val →
      Ran (.pllUnlock p) s fun d =>
        d.locked (pllNo p) = false ∧
        d.pend CLOCK.pg 1 = true ∧
        (p ≠ .phy → Dev.FaultNewest d 0x0A 15 (pllNo p)) ∧
        (s.dev.clockState n.val = 4 ∧ pllNo p ∈ pllsOf n.val → d.clockState n.val = 3) ∧
        d.word CLOCK.pg 0x048 = s.dev.word CLOCK.pg 0x048) ∧
    (s.dev.awake a = true → s.dev.mayWrite a.who CLOCK.pg = true → 1 ≤ n.val → getBits x (2 * n.val) 2 = 1 → s.dev.domOn n.val =
      true → s.dev.pllReady n.val = true →
      Ran (.domSrcWrite a x) s fun d =>
        d.clockState n.val = 4 ∧
        d.rd CLOCK.pg CLOCK.DOM_SRC_SRC 0 (n.val - 1) = 1) ∧
    (s.dev.awake a = true → s.dev.mayWrite a.who CLOCK.pg = true → 1 ≤ n.val → getBits x (2 * n.val) 2 = 1 → s.dev.domOn n.val =
      true → s.dev.pllReady n.val = false → s.dev.clockState n.val ≠ 4 → s.dev.rd CLOCK.pg CLOCK.DOM_SRC_SRC 0 (n.val - 1) ≠ 1 →
      Ran (.domSrcWrite a x) s fun d =>
        d.clockState n.val = s.dev.clockState n.val ∧
        d.rd CLOCK.pg CLOCK.DOM_SRC_SRC 0 (n.val - 1) = s.dev.rd CLOCK.pg CLOCK.DOM_SRC_SRC 0 (n.val - 1) ∧
        d.rd CLOCK.pg HDR.ERR_CODE_CODE ≠ 0) ∧
    (s.dev.awake a = true → s.dev.mayWrite a.who CLOCK.pg = true → 1 ≤ n.val → getBits x (2 * n.val) 2 = 0 → s.dev.domOn n.val =
      true → s.dev.clockState n.val = 4 →
      Ran (.domSrcWrite a x) s fun d =>
        d.clockState n.val = 3 ∧
        d.rd CLOCK.pg CLOCK.DOM_SRC_SRC 0 (n.val - 1) = 0) ∧
    (1 ≤ n.val → s.dev.clockState n.val = 3 → s.dev.rd CLOCK.pg CLOCK.DOM_SRC_SRC 0 (n.val - 1) = 1 → s.dev.pllReady n.val = true
      → s.dev.rd MGMT.pg HDR.PG_STAT_STATE ≠ 3 →
      Ran (.autoPllSwitch n) s fun d =>
        d.clockState n.val = 4 ∧
        d.rd CLOCK.pg CLOCK.DOM_SRC_SRC 0 (n.val - 1) = 1 ∧
        (s.dev.scan.exiting = false → Dev.Changes [rkey CLOCK.pg 0x048] [] s.dev d)) ∧
    (s.dev.locked (pllNo p) = true →
      Ran (.pllUnlock p) s fun d =>
        d.locked (pllNo p) = false ∧
        d.pend CLOCK.pg 1 = true ∧
        d.bank.mem = s.dev.bank.mem) ∧
    (s.dev.pwr.fircStarting = true →
      Ran (.fircReady) s fun d =>
        d.on CLOCK.pg CLOCK.OSC_STAT_FIRC_FAILED = false ∧
        d.nv.mem = s.dev.nv.mem) ∧
    (s.dev.pwr.fircStarting = false →
      Ran (.fircReady) s fun d =>
        Dev.Only [] [] s.dev d)

/-- With D1 on and the page not frozen, a millisecond's means appear in the SENSE registers with the supplies outside their
windows; a hot die makes EV_RAW's bit. A successful panel-temperature poll stores the reading and VALID, the third failure in a
row clears VALID, as a stale host reading does. An SMBus transfer is BUSY from its start to its end, which shows the result and,
for a read, the data; a start with the master disabled, D1 off or the master busy is dropped with E_STATE or E_BUSY. FREEZE holds
the readings (log entry 64). (R30, R103, R104, R105, R106, 05_power_clocks_wake) -/
def Obligations.SensorsAndSMBus : Prop :=
  ∀ (s : State) (a : Acc) (r : Readings) (p : Port) (y : Nat) (x : Word) (e : SmbEnd),
    (s.dev.domOn 1 = true → s.dev.frozen SENSE.pg = false →
      Ran (.senseSample r) s fun d =>
        d.rd SENSE.pg SENSE.DIE_TEMP_TEMP = toTwos 16 r.temp ∧
        d.rd SENSE.pg SENSE.SUP0_VIN_MV = satU 16 r.vin ∧
        d.rd SENSE.pg SENSE.SUP1_VAO_MV = satU 16 r.vao ∧
        d.rd SENSE.pg SENSE.VIN_MW_MW = satU 16 r.mw ∧
        d.rd SENSE.pg SENSE.SUPPLY_STAT_OUT = supplyOut r ∧
        (105 * 256 ≤ r.temp → bit (d.word SENSE.pg 0x00C).toNat 0 = true) ∧
        Dev.WordsBut (fun k => onPage SENSE.pg k || onPage TRIM.pg k || onPage SYNC.pg k) s.dev d ∧
        d.tithe = { s.dev.tithe with cur := d.tithe.cur }) ∧
    (s.dev.domOn 1 = true → s.dev.rd SENSE.pg SENSE.PT_CFG_SRC p.val = 2 → s.dev.on SENSE.pg SENSE.SMB_CTL_EN = true →
      Ran (.panelTempPoll p (.ok y)) s fun d =>
        d.rd SENSE.pg SENSE.PT_TEMP p.val = ptDecode (s.dev.rd SENSE.pg SENSE.PT_CFG_FMT p.val) y ∧
        d.on SENSE.pg SENSE.PT_VALID p.val = true ∧
        d.ptFail p.val = 0) ∧
    (s.dev.domOn 1 = true → s.dev.rd SENSE.pg SENSE.PT_CFG_SRC p.val = 2 → s.dev.ptFail p.val = 2 →
      Ran (.panelTempPoll p .nack) s fun d =>
        d.on SENSE.pg SENSE.PT_VALID p.val = false) ∧
    (s.dev.rd SENSE.pg SENSE.PT_CFG_SRC p.val = 1 →
      Ran (.ptHostStale p) s fun d =>
        d.on SENSE.pg SENSE.PT_VALID p.val = false) ∧
    (s.dev.awake a = true → s.dev.mayWrite a.who SENSE.pg = true → s.dev.on SENSE.pg SENSE.SMB_CTL_EN = true → s.dev.domOn 1 =
      true → s.dev.on SENSE.pg SENSE.SMB_STAT_BUSY = false →
      Ran (.smbXferGo a x) s fun d =>
        d.on SENSE.pg SENSE.SMB_STAT_BUSY = true ∧
        (d.word SENSE.pg 0x084 &&& rwBits SENSE.pg 0x084) = (x &&& rwBits SENSE.pg 0x084) ∧
        { d.pwr with doms := s.dev.pwr.doms, fircStarting := s.dev.pwr.fircStarting } =
          { s.dev.pwr with smbOp := SENSE.SMB_XFER_OP.of x } ∧
        Dev.Only [rkey SENSE.pg 0x084, SENSE.SMB_STAT_BUSY.key SENSE.pg 0 0] [] { s.dev with pwr := d.pwr } d) ∧
    (s.dev.awake a = true → s.dev.mayWrite a.who SENSE.pg = true → (s.dev.on SENSE.pg SENSE.SMB_CTL_EN = false ∨ s.dev.domOn 1 =
      false) →
      Ran (.smbXferGo a x) s fun d =>
        Dev.ErrShown s.dev d SENSE.pg E.STATE 0x084 a.who.code ∧
        Dev.Only (errKeys SENSE.pg) [] s.dev d) ∧
    (s.dev.on SENSE.pg SENSE.SMB_STAT_BUSY = true →
      Ran (.smbXferDone e) s fun d =>
        d.on SENSE.pg SENSE.SMB_STAT_BUSY = false ∧
        d.rd SENSE.pg SENSE.SMB_STAT_RESULT = smbResult e ∧
        Dev.Only [SENSE.SMB_STAT_BUSY.key SENSE.pg 0 0, SENSE.SMB_DATA_DATA.key SENSE.pg 0 0] [] s.dev d) ∧
    (s.dev.on SENSE.pg SENSE.SMB_STAT_BUSY = true → s.dev.pwr.smbOp = 2 →
      Ran (.smbXferDone (.ok y)) s fun d =>
        d.rd SENSE.pg SENSE.SMB_DATA_DATA = y % 2 ^ SENSE.SMB_DATA_DATA.w ∧
        d.rd SENSE.pg SENSE.SMB_STAT_RESULT = 0) ∧
    (s.dev.domOn 1 = true → s.dev.frozen SENSE.pg = true →
      Ran (.senseSample r) s fun d =>
        d.rd SENSE.pg SENSE.DIE_TEMP_TEMP = s.dev.rd SENSE.pg SENSE.DIE_TEMP_TEMP ∧
        d.rd SENSE.pg SENSE.SUP0_VIN_MV = s.dev.rd SENSE.pg SENSE.SUP0_VIN_MV ∧
        d.rd SENSE.pg SENSE.VIN_MW_MW = s.dev.rd SENSE.pg SENSE.VIN_MW_MW) ∧
    (s.dev.rd SENSE.pg SENSE.PT_CFG_SRC p.val ≠ 2 →
      Ran (.panelTempPoll p e) s fun d =>
        Dev.Only [] [] s.dev d)

/-- A frame FLE of the running reference advances FRAME_NO, puts POS at slot 0 and raises EV_FRAME; one at which no hold is being
entered, of an SR2 exit too, also makes every pending capture active, with RESULT APPLIED, or CHECKING while a later check runs;
with no raster it does nothing. In FULL mode with FLIP_MODE 0 the newest eligible image of the slot becomes the shown one, at a
frame FLE of slot 0, at a slot FLE of that slot, which shows in POS and does not count a frame. (R12, R16, R53, R54, R173, R214,
R216, R218, R219, 12_scan_timing, 09_composition) -/
def Obligations.FrameStarts : Prop :=
  ∀ (s : State) (t : Nat) (isA isB : List (List Rat)) (g : Fin 4) (sl : Fin 4) (k : Nat),
    ((s.dev.scan.run = true ∨ s.dev.scan.exiting = true) → s.dev.scan.entering = false →
      Ran (.frameFle t isA isB) s fun d =>
        d.frameNo = (s.dev.frameNo + 1) % 2 ^ SCAN.FRAME_NO_COUNT.w ∧
        d.slotNo = 0 ∧
        d.pend SCAN.pg 0 = true ∧
        (d.grp g.val).pend = none ∧
        ((s.dev.grp g.val).pend.isSome = true → (d.grp g.val).result = (if (s.dev.grp g.val).check.isSome then 1 else 3)) ∧
        d.sh = s.dev.sh ∧
        d.tm = s.dev.tm ∧
        d.scan.starting = false) ∧
    (s.dev.scan.run = true →
      Ran (.frameFle t isA isB) s fun d =>
        d.frameNo = (s.dev.frameNo + 1) % 2 ^ SCAN.FRAME_NO_COUNT.w ∧
        d.slotNo = 0 ∧
        d.pend SCAN.pg 0 = true) ∧
    (s.dev.scan.run = false → s.dev.scan.exiting = false →
      Ran (.frameFle t isA isB) s fun d =>
        Dev.Only [] [] s.dev d) ∧
    (s.dev.scan.run = true → s.dev.scan.starting = false → s.dev.scan.entering = false → s.dev.scan.exiting = false → s.dev.runOn
      = true → [0, 1, 2, 3].all (fun g => (s.dev.grp g).pend.isNone) = true → s.dev.mode.part = false → s.dev.on COUCH.pg
      COUCH.CTL_FLIP_MODE = false → s.dev.couch.pass = none → s.dev.newest 0 = some k →
      Ran (.frameFle t isA isB) s fun d =>
        d.shown 0 = k ∧
        d.imgState k = 3 ∧
        d.eligible k = false ∧
        d.pend COUCH.pg 1 = true) ∧
    (s.dev.scan.run = true → s.dev.scan.starting = false → 1 ≤ sl.val → sl.val < s.dev.mode.s → s.dev.mode.part = false → s.dev.on
      COUCH.pg COUCH.CTL_FLIP_MODE = false → s.dev.couch.pass = none →
      Ran (.slotFle sl t isA isB) s fun d =>
        d.slotNo = sl.val ∧
        d.frameNo = s.dev.frameNo ∧
        (s.dev.newest sl.val = some k → d.shown sl.val = k ∧ d.imgState k = 3) ∧
        d.sh = s.dev.sh ∧
        d.groups = s.dev.groups) ∧
    (s.dev.scan.run = false →
      Ran (.slotFle sl t isA isB) s fun d =>
        Dev.Only [] [] s.dev d)

/-- A line start shows the next line in POS, and changes nothing else of the frame when no port is on. A following, emitting port
whose line is not complete goes dark at once, shows the underrun and its record, and restarts its pass, whose lines it shows
itself; after the last it waits to rejoin. The Calenders complete the next line, at most four lines ahead, of the shown image for
every following port, and of a restarting port's own image. Of a port in its restart pass the next line starts; with both ports
following, both take the line. (R21, R214, R217, R218, R222, R223, R249, R392, 12_scan_timing, 14_output_pipeline) -/
def Obligations.LinesRun : Prop :=
  ∀ (s : State) (t y : Nat) (p : Port) (hdr : List HdrErr) (ecc : Ecc),
    (s.dev.scan.run = true → s.dev.scan.starting = false → nextLine s.dev.mode (s.dev.rd SCAN.pg SCAN.POS_LINE) = some y → y <
      8192 →
      Ran (.lineStart none t hdr) s fun d =>
        d.rd SCAN.pg SCAN.POS_LINE = y ∧
        d.rd SCAN.pg SCAN.POS_BLANK = b2n (decide (s.dev.mode.h ≤ y)) ∧
        d.frameNo = s.dev.frameNo ∧
        d.slotNo = s.dev.slotNo ∧
        d.couch.imgs = s.dev.couch.imgs) ∧
    (s.dev.scan.run = false →
      Ran (.lineStart none t []) s fun d =>
        Dev.Only [] [] s.dev d) ∧
    (s.dev.scan.run = true → s.dev.scan.starting = false → s.dev.scan.entering = false → nextLine s.dev.mode (s.dev.rd SCAN.pg
      SCAN.POS_LINE) = some y → y < s.dev.mode.h → s.dev.portState p.val = 1 → s.dev.portState (1 - p.val) = 0 → s.dev.panelState
      p.val = 7 → s.dev.heldOff p.val = false → s.dev.rd SYNC.pg SYNC.WIN_LEN s.dev.slotNo ≠ 0 → (s.dev.portR p.val).ready ≤ y →
      (s.dev.portR p.val).dark = false →
      Ran (.lineStart none t []) s fun d =>
        d.portState p.val = 2 ∧
        (d.portR p.val).emit = false ∧
        (d.portR p.val).dark = true ∧
        d.pend SCAN.pg 1 = true ∧
        Dev.FaultNewest d 0x09 p.val 0 ∧
        (s.dev.frozen SCAN.pg = false → d.rd SCAN.pg SCAN.UNDERRUN_COUNT p.val = satU SCAN.UNDERRUN_COUNT.w (s.dev.rd SCAN.pg
          SCAN.UNDERRUN_COUNT p.val + 1))) ∧
    (s.dev.scan.run = true → s.dev.scan.starting = false → s.dev.portState p.val = 2 → (s.dev.portR p.val).started = false →
      Ran (.lineStart (some p) t []) s fun d =>
        d.rd SCAN.pg SCAN.PORT_STAT_LINE p.val = 0 ∧
        (d.portR p.val).started = true ∧
        (d.portR p.val).line = 0 ∧
        d.portState p.val = 2 ∧
        d.rd SCAN.pg SCAN.POS_LINE = s.dev.rd SCAN.pg SCAN.POS_LINE) ∧
    (s.dev.portState p.val = 2 → (s.dev.portR p.val).started = true → (s.dev.portR p.val).line + 1 = s.dev.mode.h →
      Ran (.restartPassEnd p) s fun d =>
        d.portState p.val = 3 ∧
        (d.portR p.val).since = (s.dev.portR p.val).lineT + s.dev.mode.tLine.floor.toNat ∧
        Dev.Only [SCAN.PORT_STAT_STATE.key SCAN.pg p.val 0] [] { s.dev with scan := d.scan } d) ∧
    (s.dev.scan.run = true → s.dev.scan.starting = false → s.dev.portState p.val = 1 → s.dev.portState (1 - p.val) = 0 →
      s.dev.heldOff p.val = true → (s.dev.portR p.val).ready = y → y < s.dev.mode.h → s.dev.scanImage < 8 → s.dev.fetchDue y 0 =
      true →
      Ran (.lineFetchDone none ⟨[], []⟩) s fun d =>
        (d.portR p.val).ready = y + 1 ∧
        (d.calSt p.val).skip.force = true ∧
        d.bank.mem = s.dev.bank.mem ∧
        d.frameNo = s.dev.frameNo) ∧
    (s.dev.scan.run = true → s.dev.scan.starting = false → s.dev.portState p.val = 1 → s.dev.portState (1 - p.val) = 0 →
      s.dev.heldOff p.val = false → (s.dev.portR p.val).ready = y → y < s.dev.mode.h → s.dev.scanImage < 8 → s.dev.fetchDue y 0 =
      true →
      Ran (.lineFetchDone none ⟨[], []⟩) s fun d =>
        (d.portR p.val).ready = y + 1 ∧
        d.frameNo = s.dev.frameNo ∧
        d.couch = s.dev.couch ∧
        d.nv.mem = s.dev.nv.mem) ∧
    (s.dev.scan.run = true → s.dev.scan.starting = false → s.dev.portState p.val = 2 → (s.dev.portR p.val).ready = y → y <
      s.dev.mode.h → (s.dev.calSt p.val).img < 8 → y ≤ (if (s.dev.portR p.val).started then (s.dev.portR p.val).line else 0) + 4 →
      Ran (.lineFetchDone (some p) ⟨[], []⟩) s fun d =>
        (d.portR p.val).ready = y + 1 ∧
        d.portState p.val = 2 ∧
        d.frameNo = s.dev.frameNo ∧
        d.couch = s.dev.couch) ∧
    (s.dev.scan.run = true → s.dev.scan.starting = false → s.dev.portState p.val = 2 → (s.dev.portR p.val).started = true →
      (s.dev.portR p.val).line + 1 = y → y < s.dev.mode.h → y < 8192 →
      Ran (.lineStart (some p) t []) s fun d =>
        d.rd SCAN.pg SCAN.PORT_STAT_LINE p.val = y ∧
        (d.portR p.val).line = y ∧
        (d.portR p.val).started = true ∧
        d.portState p.val = 2 ∧
        d.rd SCAN.pg SCAN.POS_LINE = s.dev.rd SCAN.pg SCAN.POS_LINE) ∧
    (s.dev.scan.run = true → s.dev.scan.starting = false → s.dev.portState p.val = 1 → (s.dev.portR p.val).ready = y →
      (s.dev.portState (1 - p.val) = 1 → (s.dev.portR (1 - p.val)).ready = y) → y < s.dev.mode.h → s.dev.scanImage < 8 →
      s.dev.fetchDue y 0 = true →
      Ran (.lineFetchDone none ecc) s fun d =>
        (d.portR p.val).ready = y + 1 ∧
        d.frameNo = s.dev.frameNo ∧
        d.nv.mem = s.dev.nv.mem)

/-- A write of SR_CTL with REQ 0 to 2 and IDLE_FRAMES not 0, and for SR2 the conditions of R229, is stored; any other is dropped
with E_RANGE or E_STATE. A cause of R228 in SR1 ends it with D3 voted again; one of R231 in SR2 starts the exit with the ports'
domains voted. A held port's enabled group that has not reported HOLDING raises its event. (R226, R228, R229, R230, R231, R331,
12_scan_timing) -/
def Obligations.SelfRefreshMoves : Prop :=
  ∀ (s : State) (a : Acc) (x : Word) (p : Port) (g : Fin 12),
    (s.dev.awake a = true → s.dev.mayWrite a.who SCAN.pg = true → SCAN.SR_CTL_REQ.of x ≠ 3 → SCAN.SR_CTL_IDLE_FRAMES.of x ≠ 0 →
      (SCAN.SR_CTL_REQ.of x = 2 → sr2Bad s.dev.regs = false) →
      Ran (.srReqWrite a x) s fun d =>
        d.word SCAN.pg 0x048 = mux 0xFF03 x (s.dev.word SCAN.pg 0x048) ∧
        (s.dev.srState = 0 ∧ s.dev.scan.exiting = false ∧ s.dev.scan.entering = false → Dev.WordsBut (fun k => k == rkey SCAN.pg
          0x048 || k == rkey SCAN.pg 0x008 || k == SCAN.SR_STAT_ENTRY_PENDING.key SCAN.pg 0 0) s.dev d)) ∧
    (s.dev.awake a = true → s.dev.mayWrite a.who SCAN.pg = true → (SCAN.SR_CTL_REQ.of x = 3 ∨ SCAN.SR_CTL_IDLE_FRAMES.of x = 0) →
      Ran (.srReqWrite a x) s fun d =>
        Dev.ErrShown s.dev d SCAN.pg E.RANGE 0x048 a.who.code ∧
        Dev.Only (errKeys SCAN.pg) [] s.dev d) ∧
    (s.dev.awake a = true → s.dev.mayWrite a.who SCAN.pg = true → SCAN.SR_CTL_REQ.of x = 2 → SCAN.SR_CTL_IDLE_FRAMES.of x ≠ 0 →
      sr2Bad s.dev.regs = true →
      Ran (.srReqWrite a x) s fun d =>
        Dev.ErrShown s.dev d SCAN.pg E.STATE 0x048 a.who.code ∧
        Dev.Only (errKeys SCAN.pg) [] s.dev d) ∧
    (s.dev.srCause1 = true → s.dev.srState = 1 → s.dev.scan.run = true →
      Ran (.sr1Exit) s fun d =>
        d.srState = 0 ∧
        d.scan.d3Vote = true ∧
        d.scan.portVote = true ∧
        d.bank = s.dev.bank ∧
        Dev.WordsBut (onPage SCAN.pg) s.dev d) ∧
    ((s.dev.srCause1 = false ∨ s.dev.srState ≠ 1) →
      Ran (.sr1Exit) s fun d =>
        Dev.Only [] [] s.dev d) ∧
    (s.dev.srCause2 = true → s.dev.srState = 2 → s.dev.scan.entering = false → s.dev.scan.exiting = false →
      Ran (.sr2ExitTrigger) s fun d =>
        d.scan.exiting = true ∧
        d.srState = 3 ∧
        d.scan.portVote = true ∧
        d.scan.exitAt = s.dev.devtime ∧
        d.bank = s.dev.bank ∧
        Dev.WordsBut (onPage SCAN.pg) s.dev d) ∧
    (s.dev.portState p.val = 5 → s.dev.tdlState p.val = 3 → g.val ∈ groupsOn s.dev.regs p.val → bit (s.dev.tdlSt p.val).hold g.val
      = false →
      Ran (.holdTimeout) s fun d =>
        d.pend (TDL.pg p.val) 3 = true ∧
        d.bank = s.dev.bank ∧
        Dev.WordsBut (fun _ => false) s.dev d)

/-- A poll of a running compose adds a line time to a layer that waits under a waiting POLICY and is still not ready; once the
Couch stalls on it, USE_STAT.WAITED shows it and the wait is counted, once. When WAIT_LINES have passed the layer falls back: to
its held source where POLICY says so and it has one, else it is left out, shown in USE_STAT, with the fallback's event. Without a
compose neither does anything. A layer that a poll finds ready waits no more. (R160, R161, R162, R181, 09_composition) -/
def Obligations.LayersWait : Prop :=
  ∀ (s : State) (p : Pass) (m : Fin 12) (h : Held),
    (s.dev.couch.pass = some p → p.img.isSome = true → (s.dev.layer m.val).use = .waiting → lf p.vals m.val MOULD.LAYER_CTL_POLICY
      < 2 → lf p.vals m.val MOULD.LAYER_CTL_FENCE_MODE ≠ 2 → s.dev.layerReady p.vals m.val = false → (List.range 12).all (fun n =>
      n == m.val || (s.dev.layer n).use != .waiting) = true →
      Ran (.layerWaitPoll) s fun d =>
        (d.layer m.val).use = .waiting ∧
        (d.layer m.val).waited = (s.dev.layer m.val).waited + 1 ∧
        d.rd COUCH.pg HDR.PG_STAT_STATE = 2 ∧
        (firstLine p.vals m.val = 0 ∧ (s.dev.layer m.val).stalled = false → d.rd (MOULD.pg m.val) MOULD.USE_STAT_WAITED = 1 ∧
          (s.dev.frozen (MOULD.pg m.val) = false → d.rd (MOULD.pg m.val) MOULD.COUNTS_WAITS = satU MOULD.COUNTS_WAITS.w (s.dev.rd
          (MOULD.pg m.val) MOULD.COUNTS_WAITS + 1))) ∧
        ((s.dev.layer m.val).stalled = true → d.rd (MOULD.pg m.val) MOULD.COUNTS_WAITS = s.dev.rd (MOULD.pg m.val)
          MOULD.COUNTS_WAITS) ∧
        Dev.Only [MOULD.USE_STAT_WAITED.key (MOULD.pg m.val) 0 0, MOULD.COUNTS_WAITS.key (MOULD.pg m.val) 0 0, rkey COUCH.pg
          0x008] [] { s.dev with couch := d.couch, free := d.free } d) ∧
    (s.dev.couch.pass = some p → p.img.isSome = true → (s.dev.layer m.val).use = .waiting → lf p.vals m.val MOULD.LAYER_CTL_POLICY
      < 2 → lf p.vals m.val MOULD.WAIT_LINES_LINES ≤ (s.dev.layer m.val).waited → s.dev.layerReady p.vals m.val = false →
      (List.range 12).all (fun n => n == m.val || (s.dev.layer n).use != .waiting) = true → (lf p.vals m.val
      MOULD.LAYER_CTL_POLICY = 1 ∨ (s.dev.layer m.val).held = none) →
      Ran (.layerWaitExpire) s fun d =>
        (d.layer m.val).use = .skipped ∧
        d.rd (MOULD.pg m.val) MOULD.USE_STAT_USE = 2 ∧
        d.pend (MOULD.pg m.val) 1 = true ∧
        d.rd COUCH.pg HDR.PG_STAT_STATE = 1 ∧
        (s.dev.frozen (MOULD.pg m.val) = false → d.rd (MOULD.pg m.val) MOULD.COUNTS_FALLBACKS = satU MOULD.COUNTS_FALLBACKS.w
          (s.dev.rd (MOULD.pg m.val) MOULD.COUNTS_FALLBACKS + 1)) ∧
        Dev.WordsBut (fun k => onPage (MOULD.pg m.val) k || k == rkey COUCH.pg 0x008) s.dev d) ∧
    (s.dev.couch.pass = some p → p.img.isSome = true → (s.dev.layer m.val).use = .waiting → lf p.vals m.val MOULD.LAYER_CTL_POLICY
      = 0 → lf p.vals m.val MOULD.WAIT_LINES_LINES ≤ (s.dev.layer m.val).waited → s.dev.layerReady p.vals m.val = false →
      (s.dev.layer m.val).held = some h → s.dev.heldGone m.val (heldVals p.vals m.val h) = false → (List.range 12).all (fun n => n
      == m.val || (s.dev.layer n).use != .waiting) = true →
      Ran (.layerWaitExpire) s fun d =>
        (d.layer m.val).use = .held ∧
        d.rd (MOULD.pg m.val) MOULD.USE_STAT_USE = 1 ∧
        d.rd (MOULD.pg m.val) MOULD.USE_STAT_GEN = h.gen % 2 ^ MOULD.USE_STAT_GEN.w ∧
        d.pend (MOULD.pg m.val) 1 = true ∧
        (d.layer m.val).held = some h ∧
        Dev.WordsBut (fun k => onPage (MOULD.pg m.val) k || k == rkey COUCH.pg 0x008 || k == rkey HOSTIF.pg 0x008) s.dev d) ∧
    (s.dev.couch.pass = none →
      Ran (.layerWaitPoll) s fun d =>
        Dev.Only [] [] s.dev d) ∧
    (s.dev.couch.pass = none →
      Ran (.layerWaitExpire) s fun d =>
        Dev.Only [] [] s.dev d) ∧
    (s.dev.couch.pass = some p → p.img.isSome = true → (s.dev.layer m.val).use = .waiting → lf p.vals m.val MOULD.LAYER_CTL_POLICY
      < 2 → lf p.vals m.val MOULD.LAYER_CTL_FENCE_MODE ≠ 2 → s.dev.layerReady p.vals m.val = true → (List.range 12).all (fun n =>
      n == m.val || (s.dev.layer n).use != .waiting) = true →
      Ran (.layerWaitPoll) s fun d =>
        (d.layer m.val).use ≠ .waiting ∧
        d.bank.mem = s.dev.bank.mem)

/-- The last line of a slot image makes it COMPLETE, newest of all, with its event, and starts its curve. A derivation that ends
for a live image records the curve and, where the TITHE operates, starts its plans, which with the image COMPLETE make it
flip-eligible; one for an image that no longer stands ends with no other effect. A PARTIAL curve not ready in time is counted and
raises its event. With the raster stopped, each tick closes an interval and evaluates the economy ladder: below ECON_MIN the level
goes up one, above ECON_MAX down one; within the bounds and with the mean of the last 16 intervals above a budget that is not 0
for UP_EVALS evaluations, up one below ECON_MAX. Each step raises its event. With the raster running a tick does nothing: the
evaluation is then that of the frame. (R14, R174, R177, R185, R187, R188, R299, R303, R304, 10_tone_colour, 16_energy_budget) -/
def Obligations.CurvesPlansLadder : Prop :=
  ∀ (s : State) (e : Composed) (p : Pass) (k : Nat) (j : ToneJob) (js : List ToneJob) (q : PlanJob) (qs : List PlanJob),
    (s.dev.couch.pass = some p → p.img = some k → p.rect = false → k < 8 → s.dev.anyWaiting = false → s.dev.imgState k = 1 →
      s.dev.host.reads = [] → s.dev.host.todo = [] → (s.dev.cachesUp = true ∧ s.dev.itemUp .aux = true ∧ s.dev.itemUp
      (s.dev.mode.imgKind k) = true ∧ s.dev.operates TONE.pg = true) →
      Ran (.imageComplete e) s fun d =>
        d.imgState k = 2 ∧
        (d.img k).seq = s.dev.couch.seq + 1 ∧
        d.couch.seq = s.dev.couch.seq + 1 ∧
        d.pend COUCH.pg 0 = true ∧
        d.tone.jobs.any (fun j => j.img == k) = true ∧
        d.rd TONE.pg HDR.PG_STAT_STATE = 1 ∧
        d.sh = s.dev.sh) ∧
    (s.dev.couch.pass = none →
      Ran (.imageComplete e) s fun d =>
        Dev.Only [] [] s.dev d) ∧
    (s.dev.domOn 3 = true → s.dev.tone.jobs = j :: js → s.dev.toneLive j.img j.seq j.partl = true → j.img < 8 → s.dev.operates
      TITHE.pg = true →
      Ran (.toneDeriveDone) s fun d =>
        d.tone.jobs = js ∧
        (d.img j.img).curve = true ∧
        d.tithe.jobs.any (fun q => q.img == j.img) = true ∧
        d.rd TITHE.pg HDR.PG_STAT_STATE = 1 ∧
        (js = [] → d.rd TONE.pg HDR.PG_STAT_STATE = 0) ∧
        Dev.WordsBut (fun k => onPage TONE.pg k || k == rkey TITHE.pg 0x008) s.dev d) ∧
    (s.dev.domOn 3 = true → s.dev.tone.jobs = j :: js → s.dev.toneLive j.img j.seq j.partl = true → j.img < 8 → s.dev.operates
      TITHE.pg = false →
      Ran (.toneDeriveDone) s fun d =>
        d.tone.jobs = js ∧
        (d.img j.img).curve = true ∧
        d.tithe = s.dev.tithe ∧
        (js = [] → d.rd TONE.pg HDR.PG_STAT_STATE = 0) ∧
        Dev.WordsBut (fun k => onPage TONE.pg k) s.dev d) ∧
    (s.dev.domOn 3 = true → s.dev.tone.jobs = j :: js → s.dev.toneLive j.img j.seq j.partl = false →
      Ran (.toneDeriveDone) s fun d =>
        d.tone.jobs = js ∧
        (js = [] → d.rd TONE.pg HDR.PG_STAT_STATE = 0) ∧
        Dev.Only [rkey TONE.pg 0x008] [] { s.dev with tone := d.tone } d) ∧
    (s.dev.mode.part = true → s.dev.domOn 3 = true → s.dev.tone.jobs.any (fun j => j.partl && j.slot == s.dev.slotNo) = true →
      Ran (.toneLate) s fun d =>
        d.tone = { s.dev.tone with late := s.dev.tone.late ++ [s.dev.slotNo] } ∧
        (s.dev.frozen TONE.pg = false → d.rd TONE.pg TONE.LATE_CNT_COUNT = satU TONE.LATE_CNT_COUNT.w (s.dev.rd TONE.pg
          TONE.LATE_CNT_COUNT + 1)) ∧
        Dev.Only [TONE.LATE_CNT_COUNT.key TONE.pg 0 0] [(TONE.pg, 0)] { s.dev with tone := d.tone } d) ∧
    (s.dev.domOn 3 = false → s.dev.tone.jobs = j :: js →
      Ran (.toneDeriveDone) s fun d =>
        Dev.Only [] [] s.dev d) ∧
    (s.dev.mode.part = false →
      Ran (.toneLate) s fun d =>
        Dev.Only [] [] s.dev d) ∧
    (s.dev.domOn 3 = true → s.dev.tithe.jobs = q :: qs → s.dev.toneLive q.img q.seq q.partl = true → q.img < 8 →
      Ran (.tithePlanDone) s fun d =>
        d.tithe.jobs = qs ∧
        (d.img q.img).plan = true ∧
        (qs = [] → d.rd TITHE.pg HDR.PG_STAT_STATE = 0) ∧
        (s.dev.imgState q.img = 2 ∧ (s.dev.img q.img).curve = true → d.eligible q.img = true) ∧
        d.sh = s.dev.sh) ∧
    (s.dev.domOn 3 = true → s.dev.tithe.jobs = q :: qs → s.dev.toneLive q.img q.seq q.partl = false →
      Ran (.tithePlanDone) s fun d =>
        d.tithe.jobs = qs ∧
        (qs = [] → d.rd TITHE.pg HDR.PG_STAT_STATE = 0) ∧
        Dev.Only [rkey TITHE.pg 0x008] [] { s.dev with tithe := d.tithe } d) ∧
    (s.dev.scan.run = false → s.dev.ladder < s.dev.rd TITHE.pg TITHE.CTL_ECON_MIN → s.dev.operates TITHE.pg = true →
      Ran (.ladderTick) s fun d =>
        d.ladder = s.dev.ladder + 1 ∧
        d.pend TITHE.pg 1 = true ∧
        d.tithe.cur = (0, 0) ∧
        d.tithe.spans = (s.dev.tithe.cur :: s.dev.tithe.spans).take 16 ∧
        d.sh = s.dev.sh ∧
        Dev.WordsBut (fun k => onPage TITHE.pg k || onPage TONE.pg k) s.dev d) ∧
    (s.dev.scan.run = false → s.dev.rd TITHE.pg TITHE.CTL_ECON_MIN ≤ s.dev.ladder → s.dev.rd TITHE.pg TITHE.CTL_ECON_MAX <
      s.dev.ladder → s.dev.operates TITHE.pg = true →
      Ran (.ladderTick) s fun d =>
        d.ladder = s.dev.ladder - 1 ∧
        d.pend TITHE.pg 1 = true ∧
        d.tithe.cur = (0, 0)) ∧
    (s.dev.scan.run = false → s.dev.rd TITHE.pg TITHE.CTL_ECON_MIN ≤ s.dev.ladder → s.dev.ladder < s.dev.rd TITHE.pg
      TITHE.CTL_ECON_MAX → s.dev.rd TITHE.pg TITHE.DEV_BUDGET_MW ≠ 0 → s.dev.rd TITHE.pg TITHE.DEV_BUDGET_MW * sumNat
      (((s.dev.tithe.cur :: s.dev.tithe.spans).take 16).map (·.2)) < sumNat (((s.dev.tithe.cur :: s.dev.tithe.spans).take 16).map
      (·.1)) → 0 < sumNat (((s.dev.tithe.cur :: s.dev.tithe.spans).take 16).map (·.2)) → s.dev.rd TITHE.pg
      TITHE.ECON_TIME_UP_EVALS ≤ s.dev.tithe.up + 1 → s.dev.operates TITHE.pg = true →
      Ran (.ladderTick) s fun d =>
        d.ladder = s.dev.ladder + 1 ∧
        d.pend TITHE.pg 1 = true ∧
        d.tithe.up = 0 ∧
        d.tithe.down = 0) ∧
    (s.dev.scan.run = true →
      Ran (.ladderTick) s fun d =>
        Dev.Only [] [] s.dev d)

/-- With SRC GENLOCK_IN an edge of the selected polarity, and with SRC host time an edge of the schedule, counts in EDGE_CNT and
is the last edge; any other moves nothing of the lock. Edges that fail to come make the reference invalid and the lock HOLDOVER,
with its event standing; with SRC free-running nothing happens. A lit slot's window of a running raster opens when it is due, once
a frame: EMIT of a port that emits in it goes high, in ROLLING with a row-start pulse, of one that does not stays as it is; the
frame before's last window opens with its own values; after a change of the windows a new one waits for an old one to close. At a
close with none left open EMIT goes low, except of a held panel; another open window goes on. A TRIGGER marker pulses while the
raster runs, and its end leaves no pulse. An unlit slot, a window not due, or a stopped raster, opens nothing. (R83, R217, R235,
R236, R237, R242, R243, R245, R248, R339, 13_genlock_slots) -/
def Obligations.SyncMoves : Prop :=
  ∀ (s : State) (r : Bool) (ti : Nat) (pos : Int) (sl : Fin 4) (p : Port) (n : Fin 2) (w v : Win),
    (s.dev.src = 1 → r = (s.dev.rd SYNC.pg SYNC.SRC_CTL_EDGE == 0) → s.dev.frozen SYNC.pg = false → s.dev.trim.run = none →
      Ran (.genlockEdge r ti pos) s fun d =>
        d.sync.lastEdge = some ti ∧
        d.rd SYNC.pg SYNC.EDGE_CNT_COUNT = (s.dev.rd SYNC.pg SYNC.EDGE_CNT_COUNT + 1) % 2 ^ SYNC.EDGE_CNT_COUNT.w ∧
        d.sync.lastEdge = some ti ∧
        d.sh = s.dev.sh ∧
        d.scan = s.dev.scan ∧
        Dev.WordsBut (onPage SYNC.pg) s.dev d) ∧
    ((s.dev.src ≠ 1 ∨ r ≠ (s.dev.rd SYNC.pg SYNC.SRC_CTL_EDGE == 0)) → (r = false ∨ bit (s.dev.word MOOT.pg 0x088).toNat 1 =
      false) →
      Ran (.genlockEdge r ti pos) s fun d =>
        Dev.Only [] [] s.dev d) ∧
    (s.dev.src ≠ 1 → s.settled = true → bit (s.dev.word MOOT.pg 0x088).toNat 1 = true →
      Ran (.genlockEdge true ti pos) s fun d =>
        d.pend MOOT.pg 0 = true ∧
        d.sync = s.dev.sync ∧
        Dev.WordsBut (fun _ => false) s.dev d) ∧
    (s.dev.src = 2 → s.dev.frozen SYNC.pg = false →
      Ran (.ptmReferenceEdge ti) s fun d =>
        d.sync.lastEdge = some (s.dev.ptmEdge ti).1 ∧
        d.rd SYNC.pg SYNC.EDGE_CNT_COUNT = (s.dev.rd SYNC.pg SYNC.EDGE_CNT_COUNT + 1) % 2 ^ SYNC.EDGE_CNT_COUNT.w ∧
        (s.dev.sync.lastEdge.isSome = true → d.refValid = s.dev.on HOSTIF.pg HOSTIF.PTM_STAT_VALID)) ∧
    (s.dev.src ≠ 2 →
      Ran (.ptmReferenceEdge ti) s fun d =>
        Dev.Only [] [] s.dev d) ∧
    (s.dev.src ≠ 0 → (s.dev.src = 2 → s.dev.on HOSTIF.pg HOSTIF.PTM_STAT_VALID = false) → s.dev.trim.run = none →
      Ran (.referenceMissing) s fun d =>
        d.refValid = false ∧
        d.lock = 3 ∧
        (s.dev.lock ≠ 3 → bit (d.word SYNC.pg 0x00C).toNat 2 = true) ∧
        d.scan = s.dev.scan ∧
        Dev.WordsBut (onPage SYNC.pg) s.dev d) ∧
    (s.dev.src = 2 → s.dev.on HOSTIF.pg HOSTIF.PTM_STAT_VALID = true →
      Ran (.referenceMissing) s fun d =>
        d.refValid = true ∧
        d.scan = s.dev.scan) ∧
    (s.dev.src = 0 →
      Ran (.referenceMissing) s fun d =>
        Dev.Only [] [] s.dev d) ∧
    (s.dev.scan.run = true → s.dev.sync.lastWin = none → s.dev.winNow sl.val = some w → s.dev.winDue w = true → (s.dev.sync.winNew
      = false ∨ s.dev.sync.openWin.any (fun v => v.old) = false) →
      Ran (.windowOpen sl) s fun d =>
        d.sync.openWin = s.dev.sync.openWin ++ [w] ∧
        d.sync.opened = s.dev.sync.opened ++ [sl.val] ∧
        (d.portR p.val).emit = (s.dev.emits p.val w || (s.dev.portR p.val).emit) ∧
        (d.portR p.val).gsync = (s.dev.portR p.val).gsync + b2n (s.dev.emits p.val w && w.rolling) ∧
        Dev.Only [] [] { s.dev with sync := d.sync, scan := d.scan } d) ∧
    (s.dev.scan.run = true → s.dev.sync.lastWin = none → s.dev.winNow sl.val = some w → s.dev.winDue w = true → s.dev.sync.winNew
      = true → s.dev.sync.openWin.any (fun v => v.old) = true →
      Ran (.windowOpen sl) s fun d =>
        d.sync = { s.dev.sync with waitOpen := s.dev.sync.waitOpen ++ [w], opened := s.dev.sync.opened ++ [sl.val] } ∧
        Dev.Only [] [] { s.dev with sync := d.sync } d) ∧
    (s.dev.scan.run = true → s.dev.sync.lastWin = some w → w.slot = sl.val → s.dev.slotNo = 0 → w.rolling = false →
      Ran (.windowOpen sl) s fun d =>
        d.sync.lastWin = none ∧
        d.sync.openWin = s.dev.sync.openWin ++ [w] ∧
        d.sync.opened = s.dev.sync.opened ∧
        (d.portR p.val).emit = (s.dev.emits p.val w || (s.dev.portR p.val).emit) ∧
        Dev.Only [] [] { s.dev with sync := d.sync, scan := d.scan } d) ∧
    ((s.dev.scan.run = false ∨ (s.dev.sync.lastWin = none ∧ (s.dev.winNow sl.val).all (fun v => !s.dev.winDue v) = true)) →
      Ran (.windowOpen sl) s fun d =>
        Dev.Only [] [] s.dev d) ∧
    (s.dev.sync.openWin = [w] → w.slot = sl.val → s.dev.sync.waitOpen = [] →
      Ran (.windowClose sl) s fun d =>
        d.sync.openWin = [] ∧
        (d.portR p.val).emit = (s.dev.portState p.val == 5 && (s.dev.portR p.val).emit) ∧
        Dev.Only [] [] { s.dev with sync := d.sync, scan := d.scan } d) ∧
    (s.dev.sync.openWin = [w, v] → w.slot = sl.val → (v.old = true ∨ s.dev.sync.waitOpen = []) →
      Ran (.windowClose sl) s fun d =>
        d.sync = { s.dev.sync with openWin := [v] } ∧
        Dev.Only [] [] { s.dev with sync := d.sync } d) ∧
    (s.dev.sync.openWin = [w] → w.slot = sl.val → s.dev.sync.waitOpen = [v] →
      Ran (.windowClose sl) s fun d =>
        d.sync.openWin = [v] ∧
        d.sync.waitOpen = [] ∧
        (s.dev.emits p.val v = true → (d.portR p.val).emit = true) ∧
        Dev.Only [] [] { s.dev with sync := d.sync, scan := d.scan } d) ∧
    (s.dev.rd SYNC.pg SYNC.SO_CTL_FUNC n.val = 4 → s.dev.scan.run = true →
      Ran (.syncOutTrigger n) s fun d =>
        mget (fun _ => false) d.sync.pulse n.val = true ∧
        d.syncOut n.val = !s.dev.on SYNC.pg SYNC.SO_CTL_INVERT n.val ∧
        Dev.Only [] [] { s.dev with sync := d.sync } d) ∧
    ((s.dev.rd SYNC.pg SYNC.SO_CTL_FUNC n.val ≠ 4 ∨ s.dev.scan.run = false) →
      Ran (.syncOutTrigger n) s fun d =>
        Dev.Only [] [] s.dev d) ∧
    (Ran (.syncOutPulseEnd n) s fun d =>
        mget (fun _ => false) d.sync.pulse n.val = false ∧
        (s.dev.rd SYNC.pg SYNC.SO_CTL_FUNC n.val = 4 → d.syncOut n.val = s.dev.on SYNC.pg SYNC.SO_CTL_INVERT n.val) ∧
        Dev.Only [] [] { s.dev with sync := d.sync } d)

/-- In PARTIAL mode POST.GO appends the valid rectangle that the registers describe to the queue, which QSTAT shows; in FULL mode,
or with the page disabled, it is dropped with E_STATE, with an area of 0 or outside the screen with E_RANGE, with a tag in flight
with E_STATE. An abort of a rectangle not past its commit point takes it from the queue with a done entry, DONE_CNT and its event,
and E_ABORTED; past it, marks it late with E_ABORT_LATE; ABORT.ALL does so for every host rectangle. (R60, R197, R200, R206, R207,
R210, 11_partial_updates) -/
def Obligations.RectsPosted : Prop :=
  ∀ (s : State) (a : Acc) (r : Rect) (tag : Fin 65536),
    (s.dev.awake a = true → s.dev.mayWrite a.who RECTQ.pg = true → s.dev.mode.part = true → s.dev.operates RECTQ.pg = true → r =
      Rect.make (s.dev.rd RECTQ.pg RECTQ.RECT_CTL_TAG) (s.dev.rd RECTQ.pg RECTQ.RECT_CTL_SLOT) (s.dev.rd RECTQ.pg RECTQ.RECT_XY_X)
      (s.dev.rd RECTQ.pg RECTQ.RECT_XY_Y) (s.dev.rd RECTQ.pg RECTQ.RECT_WH_W) (s.dev.rd RECTQ.pg RECTQ.RECT_WH_H) false false → (0
      < r.w ∧ 0 < r.h ∧ r.x + r.w ≤ s.dev.mode.w ∧ r.y + r.h ≤ s.dev.mode.h ∧ r.slot < s.dev.mode.s ∧ r.tag ≠ 0xFFFF) →
      s.dev.rects.length < 256 → (s.dev.rects.any fun o => o.tag == r.tag) = false → s.dev.rd RECTQ.pg RECTQ.RECT_CTL_REPLACE = 0
      →
      Ran (.rectPost a) s fun d =>
        d.rects = s.dev.rects ++ [r] ∧
        d.rd RECTQ.pg RECTQ.QSTAT_IN_FLIGHT = s.dev.rects.length + 1 ∧
        d.rd RECTQ.pg HDR.PG_STAT_STATE = 1 ∧
        d.on RECTQ.pg HDR.PG_STAT_BUSY = true ∧
        d.couch.imgs = s.dev.couch.imgs ∧
        Dev.WordsBut (fun k => onPage RECTQ.pg k || onPage SCAN.pg k) s.dev d) ∧
    (s.dev.awake a = true → s.dev.mayWrite a.who RECTQ.pg = true → (s.dev.mode.part = false ∨ s.dev.operates RECTQ.pg = false) →
      Ran (.rectPost a) s fun d =>
        Dev.ErrShown s.dev d RECTQ.pg E.STATE 0x050 a.who.code ∧
        d.rects = s.dev.rects) ∧
    (s.dev.awake a = true → s.dev.mayWrite a.who RECTQ.pg = true → s.dev.mode.part = true → s.dev.operates RECTQ.pg = true →
      s.dev.rd RECTQ.pg RECTQ.RECT_WH_W = 0 →
      Ran (.rectPost a) s fun d =>
        Dev.ErrShown s.dev d RECTQ.pg E.RANGE 0x050 a.who.code ∧
        d.rects = s.dev.rects) ∧
    (s.dev.awake a = true → s.dev.mayWrite a.who RECTQ.pg = true → s.dev.rects.find? (fun r => r.tag == tag.val && !r.own) = some
      r → tag.val ≠ 0xFFFF → (r.st = 0 ∨ r.st = 2 ∨ r.st = 3) →
      Ran (.rectAbort a tag) s fun d =>
        d.rects = s.dev.rects.filter (fun x => x != r) ∧
        Dev.ErrShown s.dev d RECTQ.pg E.ABORTED 0x054 a.who.code ∧
        d.pend RECTQ.pg 0 = true ∧
        d.rd RECTQ.pg RECTQ.DONE_CNT_COUNT = (s.dev.rd RECTQ.pg RECTQ.DONE_CNT_COUNT + 1) % 2 ^ RECTQ.DONE_CNT_COUNT.w ∧
        d.word RECTQ.pg (0x800 + 8 * (s.dev.rd RECTQ.pg RECTQ.DONE_CNT_COUNT % 256)) = BitVec.ofNat 32 (r.tag + 2 ^ 16 + E.ABORTED
          * 2 ^ 24) ∧
        Dev.WordsBut (onPage RECTQ.pg) s.dev d) ∧
    (s.dev.awake a = true → s.dev.mayWrite a.who RECTQ.pg = true → s.dev.rects.find? (fun r => r.tag == tag.val && !r.own) = some
      r → tag.val ≠ 0xFFFF → r.st = 4 →
      Ran (.rectAbort a tag) s fun d =>
        d.rects = s.dev.rects.map (fun x => if x = r then { r with late := true } else x) ∧
        Dev.ErrShown s.dev d RECTQ.pg E.ABORT_LATE 0x054 a.who.code ∧
        Dev.WordsBut (onPage RECTQ.pg) s.dev d) ∧
    (s.dev.awake a = true → s.dev.mayWrite a.who RECTQ.pg = true → s.dev.rects.find? (fun r => r.tag == tag.val && !r.own) = none
      → tag.val ≠ 0xFFFF →
      Ran (.rectAbort a tag) s fun d =>
        Dev.ErrShown s.dev d RECTQ.pg E.STATE 0x054 a.who.code ∧
        d.rects = s.dev.rects) ∧
    (s.dev.awake a = true → s.dev.mayWrite a.who RECTQ.pg = true → s.dev.rects.all (fun r => r.own || r.st == 0 || r.st == 2 ||
      r.st == 3) = true →
      Ran (.rectAbortAll a) s fun d =>
        d.rects = s.dev.rects.filter (·.own) ∧
        Dev.WordsBut (onPage RECTQ.pg) s.dev d)

/-- With the Couch free in PARTIAL mode and D3 on its PLL, the earliest rectangle independent of those before it starts composing.
Staging puts it in STAGED, or in HELD with its event, and frees the Couch. With the copier free and no raster the first STAGED
rectangle passes its commit point for the next frame; its last line in the image takes it from the queue with a done entry that
names that frame, ABORT_LATE if an abort came late, DONE_CNT and its event. An own copy that ends leaves the queue likewise; with
a raster, the copy starts in its window or waits. (R201, R203, R204, R205, R206, R209, R210, 11_partial_updates) -/
def Obligations.RectsShown : Prop :=
  ∀ (s : State) (e : Met) (c : Ecc) (p : Pass) (r : Rect),
    (s.dev.onPll 3 = true → s.dev.operates COUCH.pg = true → s.dev.couch.pass = none → s.dev.mode.part = true → s.dev.reeve.items
      = [] → nextRect [] s.dev.rects = some r →
      Ran (.rectComposeStart) s fun d =>
        d.rects = s.dev.rects.map (fun x => if x = r then { r with st := 1 } else x) ∧
        (d.couch.pass.any fun p => p.rect && p.slot == r.slot) = true ∧
        d.couch.imgs = s.dev.couch.imgs ∧
        d.bank.mem = s.dev.bank.mem) ∧
    ((s.dev.couch.pass = some p ∨ s.dev.mode.part = false) →
      Ran (.rectComposeStart) s fun d =>
        Dev.Only [] [] s.dev d) ∧
    (s.dev.couch.pass = some p → s.dev.rects.find? (fun r => r.st == 1) = some r → (List.range 12).any (fun m => (s.dev.layer
      m).use == .waiting) = false → s.dev.layerReads = false → s.dev.cachesUp = true →
      Ran (.rectStaged e c) s fun d =>
        d.couch.pass = none ∧
        (d.rects = s.dev.rects.map (fun x => if x = r then { r with st := 2 } else x) ∨ d.rects = s.dev.rects.map (fun x => if x =
          r then { r with st := 3 } else x) ∧ d.pend RECTQ.pg 1 = true) ∧
        d.rd COUCH.pg HDR.PG_STAT_STATE = 0 ∧
        d.frameNo = s.dev.frameNo) ∧
    (s.dev.copying = none → s.dev.rects.find? (fun r => r.st == 2) = some r → s.dev.scan.run = false →
      Ran (.rectCommit) s fun d =>
        d.rects = { r with st := 4, behind := false, frame := s.dev.frameNo + 1 } :: s.dev.rects.filter (fun x => x != r) ∧
        d.couch.pass = s.dev.couch.pass ∧
        d.nv = s.dev.nv) ∧
    (s.dev.copying.isSome = true →
      Ran (.rectCommit) s fun d =>
        Dev.Only [] [] s.dev d) ∧
    (s.dev.rects.find? (fun r => r.st == 4) = some r → r.behind = false → r.own = false → r.fill = false →
      Ran (.rectDone) s fun d =>
        d.rects = s.dev.rects.filter (fun x => x != r) ∧
        d.pend RECTQ.pg 0 = true ∧
        d.rd RECTQ.pg RECTQ.DONE_CNT_COUNT = (s.dev.rd RECTQ.pg RECTQ.DONE_CNT_COUNT + 1) % 2 ^ RECTQ.DONE_CNT_COUNT.w ∧
        d.word RECTQ.pg (0x800 + 8 * (s.dev.rd RECTQ.pg RECTQ.DONE_CNT_COUNT % 256)) = BitVec.ofNat 32 (if r.late then r.tag + 2 *
          2 ^ 16 + E.ABORT_LATE * 2 ^ 24 else r.tag) ∧
        d.word RECTQ.pg (0x804 + 8 * (s.dev.rd RECTQ.pg RECTQ.DONE_CNT_COUNT % 256)) = BitVec.ofNat 32 r.frame ∧
        Dev.WordsBut (onPage RECTQ.pg) s.dev d) ∧
    ((s.dev.rects.any fun r => r.st == 4) = false →
      Ran (.rectDone) s fun d =>
        Dev.Only [] [] s.dev d) ∧
    (s.dev.rects.find? (fun r => r.st == 4) = some r → r.behind = false →
      Ran (.rectDone) s fun d =>
        d.rects.all (fun y => y != r) = true ∧
        d.nv.mem = s.dev.nv.mem) ∧
    (s.dev.copying = none → s.dev.rects.find? (fun r => r.st == 2) = some r →
      Ran (.rectCommit) s fun d =>
        (d.rects = s.dev.rects ∨ d.rects.any (fun y => y.tag == r.tag && y.st == 4) = true ∨ d.copying.isSome = true) ∧
        d.nv.mem = s.dev.nv.mem)

/-- LOAD_CTL.GO for a table of a port whose domain is on starts the load that the registers name, shown ACTIVE and busy; with a
load running it is dropped with E_BUSY, with the domain off or the page disabled with E_STATE. The source's arrival shows its CRC
and stands the load before its commit point, which a dark port passes at once with SEL flipped and the kind lost no more. An abort
before the commit point ends it ABORTED, a later one reads late. The end frees the unit with its event. A defect list that breaks
its format ends the load FAILED with E_RANGE; demura bytes go on like a table. (R60, R253, R266, R267, R271, R397,
14_output_pipeline) -/
def Obligations.TablesLoad : Prop :=
  ∀ (s : State) (a : Acc) (p : Port) (x : Word) (l : CalLoad) (k : Nat),
    (s.dev.awake a = true → s.dev.mayWrite a.who (CAL.pg p.val) = true → CAL.LOAD_CTL_ABORT.of x = 0 → (s.dev.calSt p.val).load =
      none → s.dev.aging.op = none → s.dev.scanOn p.val = true → s.dev.operates (CAL.pg p.val) = true → (1 ≤
      CAL.LOAD_CTL_TARGET.of x ∧ CAL.LOAD_CTL_TARGET.of x ≤ 5 ∧ CAL.LOAD_CTL_FUNC.of x ≠ 3) → s.dev.rd (CAL.pg p.val)
      CAL.LOAD_SRC_LO_HA % 64 = 0 →
      Ran (.calLoadGo a p x) s fun d =>
        (d.calSt p.val).load = some ⟨CAL.LOAD_CTL_TARGET.of x, CAL.LOAD_CTL_FUNC.of x, s.dev.rd (CAL.pg p.val) CAL.LOAD_SRC_LO_HA
          + 2 ^ 32 * s.dev.rd (CAL.pg p.val) CAL.LOAD_SRC_HI_HA, s.dev.rd (CAL.pg p.val) CAL.LOAD_LINES_LINE0, s.dev.rd (CAL.pg
          p.val) CAL.LOAD_LINES_LINES, [], 1, false⟩ ∧
        d.on (CAL.pg p.val) CAL.LOAD_STAT_ACTIVE = true ∧
        d.on (CAL.pg p.val) HDR.PG_STAT_BUSY = true ∧
        d.bank = s.dev.bank ∧
        Dev.WordsBut (fun k => onPage (CAL.pg p.val) k || k == rkey HOSTIF.pg 0x008) s.dev d) ∧
    (s.dev.awake a = true → s.dev.mayWrite a.who (CAL.pg p.val) = true → CAL.LOAD_CTL_ABORT.of x = 0 → (s.dev.calSt p.val).load =
      some l →
      Ran (.calLoadGo a p x) s fun d =>
        Dev.ErrShown s.dev d (CAL.pg p.val) E.BUSY 0x05C a.who.code ∧
        d.cal = s.dev.cal) ∧
    (s.dev.awake a = true → s.dev.mayWrite a.who (CAL.pg p.val) = true → CAL.LOAD_CTL_ABORT.of x = 0 → (s.dev.calSt p.val).load =
      none → s.dev.aging.op = none → (s.dev.scanOn p.val = false ∨ s.dev.operates (CAL.pg p.val) = false) →
      Ran (.calLoadGo a p x) s fun d =>
        Dev.ErrShown s.dev d (CAL.pg p.val) E.STATE 0x05C a.who.code ∧
        d.cal = s.dev.cal) ∧
    (s.dev.awake a = true → s.dev.mayWrite a.who (CAL.pg p.val) = true → (s.dev.calSt p.val).load = some l → l.step < 4 →
      Ran (.calLoadAbort a p) s fun d =>
        (d.calSt p.val).load = none ∧
        d.rd (CAL.pg p.val) CAL.LOAD_STAT_OUTCOME = 1 ∧
        d.rd (CAL.pg p.val) CAL.LOAD_STAT_CODE = E.ABORTED ∧
        d.on (CAL.pg p.val) CAL.LOAD_STAT_ACTIVE = false ∧
        Dev.ErrShown s.dev d (CAL.pg p.val) E.ABORTED 0x05C a.who.code ∧
        d.pend (CAL.pg p.val) 0 = true ∧
        d.bank = s.dev.bank) ∧
    (s.dev.awake a = true → s.dev.mayWrite a.who (CAL.pg p.val) = true → (s.dev.calSt p.val).load = some l → 4 ≤ l.step →
      Ran (.calLoadAbort a p) s fun d =>
        (d.calSt p.val).load = some { l with late := true } ∧
        Dev.ErrShown s.dev d (CAL.pg p.val) E.ABORT_LATE 0x05C a.who.code ∧
        Dev.Only (errKeys (CAL.pg p.val)) [] { s.dev with cal := d.cal } d) ∧
    ((s.dev.calSt p.val).load = some l → l.step = 1 → (1 ≤ l.target ∧ l.target ≤ 5) → (l.target = 4 → defectsOk (l.data
      s.dev.mode) = true) → s.dev.domOn 3 = true → s.dev.fetched (.calLoad p.val) = true → s.dev.isDark p.val = true →
      Ran (.calLoadFetchDone p) s fun d =>
        d.rd (CAL.pg p.val) CAL.LOAD_CRC_CRC = crc32c (l.data s.dev.mode) ∧
        ((d.calSt p.val).load.map (·.step)) = some 5 ∧
        d.rd (CAL.pg p.val) CAL.TBL_STAT_SEL = (s.dev.rd (CAL.pg p.val) CAL.TBL_STAT_SEL ^^^ 2 ^ (l.target - 1)) ∧
        bit (d.rd (CAL.pg p.val) CAL.TBL_STAT_LOST) l.target = (d.itemUp .aux && (d.itemWords .aux (tblBase p.val (d.tblSel p.val
          l.target) + tblOff l.target) (tblSize l.target)).any d.isBad)) ∧
    ((s.dev.calSt p.val).load = some l → l.step = 1 → (1 ≤ l.target ∧ l.target ≤ 5) → (l.target = 4 → defectsOk (l.data
      s.dev.mode) = true) → s.dev.domOn 3 = true → s.dev.fetched (.calLoad p.val) = true → s.dev.isDark p.val = false →
      Ran (.calLoadFetchDone p) s fun d =>
        d.rd (CAL.pg p.val) CAL.LOAD_CRC_CRC = crc32c (l.data s.dev.mode) ∧
        (d.calSt p.val).load = some { l with step := 3 } ∧
        d.word (CAL.pg p.val) 0x050 = s.dev.word (CAL.pg p.val) 0x050) ∧
    ((s.dev.calSt p.val).load = some l → 4 ≤ l.step →
      Ran (.calLoadDone p) s fun d =>
        (d.calSt p.val).load = none ∧
        d.rd (CAL.pg p.val) CAL.LOAD_STAT_OUTCOME = (if l.late then 2 else 0) ∧
        d.on (CAL.pg p.val) CAL.LOAD_STAT_ACTIVE = false ∧
        d.on (CAL.pg p.val) HDR.PG_STAT_BUSY = false ∧
        d.pend (CAL.pg p.val) 0 = true ∧
        d.bank = s.dev.bank) ∧
    (s.dev.scanOn p.val = true → s.dev.itemUp .aux = true → (1 ≤ k ∧ k ≤ 5) → s.dev.kindLost p.val k = false → s.dev.bank.bad = []
      →
      Ran (.tableReadDone p ⟨[], []⟩) s fun d =>
        ((d.calSt p.val).work.find? fun e => e.1 == k) = some (k, s.dev.itemBytes .aux (tblBase p.val (s.dev.tblSel p.val k) +
          tblOff k) (tblSize k)) ∧
        d.bank.mem = s.dev.bank.mem ∧
        d.kindLost p.val k = false) ∧
    ((s.dev.scanOn p.val = false ∨ s.dev.itemUp .aux = false) →
      Ran (.tableReadDone p ⟨[], []⟩) s fun d =>
        Dev.Only [] [] s.dev d) ∧
    (Ran (.demuraFillDone p) s fun d =>
        d.calSt p.val = { s.dev.calSt p.val with fill := false } ∧
        Dev.Only [] [] { s.dev with cal := d.cal } d) ∧
    ((s.dev.calSt p.val).load = some l → l.step = 1 → l.target = 4 → defectsOk (l.data s.dev.mode) = false → s.dev.domOn 3 = true
      → s.dev.fetched (.calLoad p.val) = true →
      Ran (.calLoadFetchDone p) s fun d =>
        (d.calSt p.val).load = none ∧
        d.rd (CAL.pg p.val) CAL.LOAD_STAT_OUTCOME = 3 ∧
        d.rd (CAL.pg p.val) CAL.LOAD_STAT_CODE = E.RANGE ∧
        d.rd (CAL.pg p.val) CAL.LOAD_CRC_CRC = crc32c (l.data s.dev.mode) ∧
        d.word (CAL.pg p.val) 0x050 = s.dev.word (CAL.pg p.val) 0x050) ∧
    ((s.dev.calSt p.val).load = some l → l.step = 1 → l.target = 0 → s.dev.fetched (.calLoad p.val) = true →
      Ran (.calLoadFetchDone p) s fun d =>
        d.rd (CAL.pg p.val) CAL.LOAD_CRC_CRC = crc32c (l.data s.dev.mode) ∧
        (d.calSt p.val).load.any (fun q => decide (3 ≤ q.step)) = true ∧
        d.nv.mem = s.dev.nv.mem)

/-- OP_CTL.GO with an operation running is dropped with E_BUSY; else LOAD and RECONCILE start on a dark tracked port, SNAP on a
tracked port whose map is valid, and OP_STAT shows them. MARK_VALID sets VALID. A LOAD whose source has arrived shows its CRC and
passes its commit point; its end clears VALID, frees the engine and raises the event. An abort before the commit point ends it
ABORTED, after it reads late. A timed SNAP that cannot start waits in SNAP_DUE. A finished SNAP ends COMPLETED with the snapshot's
CRC; RECONCILE ends COMPLETED with the map valid, or FAILED where no snapshot serves. (R60, R281, R283, R284, R285, R294,
15_aging_irdrop) -/
def Obligations.StressMaps : Prop :=
  ∀ (s : State) (a : Acc) (x : Word) (o : StressOp) (p : Port) (c : Ecc),
    (s.dev.awake a = true → s.dev.mayWrite a.who AGING.pg = true → (AGING.OP_CTL_ABORT.of x = 0 ∧ AGING.OP_CTL_MARK_VALID.of x =
      0) → s.dev.aging.op = none → AGING.OP_CTL_PORT.of x = p.val → s.dev.tracked p.val = true → s.dev.scanOn p.val = true →
      s.dev.isDark p.val = true → AGING.OP_CTL_FUNC.of x ≠ 3 → s.dev.rd AGING.pg AGING.OP_SRC_LO % 64 = 0 → s.dev.rd AGING.pg
      AGING.OP_LINES_LINES = 1 → s.dev.rd AGING.pg AGING.OP_LINES_LINE0 < s.dev.mode.h → ((s.dev.calSt 0).load = none ∧
      (s.dev.calSt 1).load = none) →
      Ran (.stressLoad a x) s fun d =>
        d.aging.op = some ⟨0, p.val, AGING.OP_CTL_FUNC.of x, s.dev.rd AGING.pg AGING.OP_SRC_LO + 2 ^ 32 * s.dev.rd AGING.pg
          AGING.OP_SRC_HI, s.dev.rd AGING.pg AGING.OP_LINES_LINE0, 1, [], 1, 0, 0, 0, false⟩ ∧
        d.word AGING.pg 0x068 = BitVec.ofNat 32 (4 + p.val * 32) ∧
        d.on AGING.pg HDR.PG_STAT_BUSY = true ∧
        Dev.WordsBut (fun k => onPage AGING.pg k || k == rkey HOSTIF.pg 0x008) s.dev d) ∧
    (s.dev.awake a = true → s.dev.mayWrite a.who AGING.pg = true → (AGING.OP_CTL_ABORT.of x = 0 ∧ AGING.OP_CTL_MARK_VALID.of x =
      0) → s.dev.aging.op = none → AGING.OP_CTL_PORT.of x = p.val → s.dev.tracked p.val = true → s.dev.scanOn p.val = true →
      s.dev.isDark p.val = true →
      Ran (.stressReconcile a x) s fun d =>
        (d.aging.op.any fun o => o.op == 1 && o.port == p.val && o.step == 1) = true ∧
        d.word AGING.pg 0x068 = BitVec.ofNat 32 (12 + p.val * 32) ∧
        d.on AGING.pg HDR.PG_STAT_BUSY = true ∧
        Dev.WordsBut (onPage AGING.pg) s.dev d) ∧
    (s.dev.awake a = true → s.dev.mayWrite a.who AGING.pg = true → (AGING.OP_CTL_ABORT.of x = 0 ∧ AGING.OP_CTL_MARK_VALID.of x =
      0) → s.dev.aging.op = none → AGING.OP_CTL_PORT.of x = p.val → s.dev.tracked p.val = true → s.dev.scanOn p.val = true →
      s.dev.stressValid p.val = true → s.dev.halted = false →
      Ran (.stressSnap a x) s fun d =>
        (d.aging.op.any fun o => o.op == 2 && o.port == p.val) = true ∧
        d.writing 1 = true ∧
        d.word AGING.pg 0x068 = BitVec.ofNat 32 (20 + p.val * 32) ∧
        (d.bank.bad = s.dev.bank.bad → d.bank.mem = s.dev.bank.mem)) ∧
    (s.dev.awake a = true → s.dev.mayWrite a.who AGING.pg = true → (AGING.OP_CTL_ABORT.of x = 0 ∧ AGING.OP_CTL_MARK_VALID.of x =
      0) → s.dev.aging.op = some o →
      Ran (.stressSnap a x) s fun d =>
        Dev.ErrShown s.dev d AGING.pg E.BUSY 0x058 a.who.code ∧
        d.aging = s.dev.aging) ∧
    (s.dev.awake a = true → s.dev.mayWrite a.who AGING.pg = true → AGING.OP_CTL_PORT.of x = p.val →
      Ran (.markValid a x) s fun d =>
        d.stressValid p.val = true ∧
        Dev.Changes [rkey AGING.pg 0x058, AGING.STAT_VALID.key AGING.pg p.val 0, rkey AGING.pg 0x00C, rkey AGING.pg 0x014] []
          s.dev d) ∧
    (s.dev.awake a = true → s.dev.mayWrite a.who AGING.pg = true → s.dev.aging.op = some o → (o.op < 2 ∧ o.step = 1) → (s.dev.rd
      AGING.pg AGING.STAT_SNAP_DUE 0 = 0 ∧ s.dev.rd AGING.pg AGING.STAT_SNAP_DUE 1 = 0) →
      Ran (.stressOpAbort a) s fun d =>
        d.aging.op = none ∧
        d.rd AGING.pg AGING.OP_STAT_OUTCOME = 1 ∧
        d.rd AGING.pg AGING.OP_STAT_CODE = E.ABORTED ∧
        Dev.ErrShown s.dev d AGING.pg E.ABORTED 0x058 a.who.code ∧
        d.pend AGING.pg 0 = true ∧
        d.on AGING.pg HDR.PG_STAT_BUSY = false ∧
        d.bank = s.dev.bank) ∧
    (s.dev.awake a = true → s.dev.mayWrite a.who AGING.pg = true → s.dev.aging.op = some o → (o.op < 2 ∧ o.step = 2) →
      Ran (.stressOpAbort a) s fun d =>
        d.aging = { s.dev.aging with op := some { o with late := true } } ∧
        Dev.ErrShown s.dev d AGING.pg E.ABORT_LATE 0x058 a.who.code) ∧
    (s.dev.on AGING.pg AGING.CTL_SNAP_EN = true → s.dev.tracked p.val = true → s.dev.stressValid p.val = true →
      (s.dev.aging.op.isSome = true ∨ s.dev.scanOn p.val = false) →
      Ran (.snapPeriodExpire p) s fun d =>
        d.on AGING.pg AGING.STAT_SNAP_DUE p.val = true ∧
        Dev.Only [AGING.STAT_SNAP_DUE.key AGING.pg p.val 0] [] s.dev d) ∧
    ((s.dev.on AGING.pg AGING.CTL_SNAP_EN = false ∨ s.dev.tracked p.val = false ∨ s.dev.stressValid p.val = false) →
      Ran (.snapPeriodExpire p) s fun d =>
        Dev.Only [] [] s.dev d) ∧
    (s.dev.aging.op = some o → (o.op = 0 ∧ o.step = 1) → s.dev.fetched .stressLoad = true →
      Ran (.stressLoadFetchDone) s fun d =>
        d.aging.op = some { o with step := 2, bytes := [] } ∧
        d.rd AGING.pg AGING.OP_CRC_CRC = crc32c ((List.range (o.lines * s.dev.mode.w * 4)).map fun i => mget memDefault o.bytes
          (o.src + i)) ∧
        d.couch = s.dev.couch) ∧
    (s.dev.aging.op = some o → (o.op = 0 ∧ o.step = 2) → o.port < 2 → (s.dev.rd AGING.pg AGING.STAT_SNAP_DUE 0 = 0 ∧ s.dev.rd
      AGING.pg AGING.STAT_SNAP_DUE 1 = 0) →
      Ran (.stressOpDone c) s fun d =>
        d.aging.op = none ∧
        d.stressValid o.port = false ∧
        d.rd AGING.pg AGING.OP_STAT_OUTCOME = (if o.late then 2 else 0) ∧
        d.pend AGING.pg 0 = true ∧
        d.on AGING.pg HDR.PG_STAT_BUSY = false ∧
        d.bank = s.dev.bank) ∧
    (Ran (.stressMapFillDone p) s fun d =>
        d.calSt p.val = { s.dev.calSt p.val with stressFill := false } ∧
        Dev.Only [] [] { s.dev with cal := d.cal } d) ∧
    (s.dev.aging.op = some o → o.op = 2 → o.port < 2 → s.dev.writing 1 = false → (s.dev.rd AGING.pg AGING.STAT_SNAP_DUE 0 = 0 ∧
      s.dev.rd AGING.pg AGING.STAT_SNAP_DUE 1 = 0) →
      Ran (.stressOpDone c) s fun d =>
        d.aging.op = none ∧
        d.rd AGING.pg AGING.OP_CRC_CRC = s.dev.nvNat (stressSlotBase o.port o.slot + 0x28) 4 ∧
        d.rd AGING.pg AGING.OP_STAT_OUTCOME = (if o.late then 2 else 0) ∧
        d.pend AGING.pg 0 = true ∧
        d.nv.mem = s.dev.nv.mem) ∧
    (s.dev.aging.op = some o → o.op = 1 → o.port < 2 → (s.dev.rd AGING.pg AGING.STAT_SNAP_DUE 0 = 0 ∧ s.dev.rd AGING.pg
      AGING.STAT_SNAP_DUE 1 = 0) →
      Ran (.stressOpDone c) s fun d =>
        d.aging.op = none ∧
        ((d.rd AGING.pg AGING.OP_STAT_OUTCOME = 0 ∧ d.stressValid o.port = true) ∨ (d.rd AGING.pg AGING.OP_STAT_OUTCOME = 3 ∧ d.rd
          AGING.pg AGING.OP_STAT_CODE = E.STATE)) ∧
        d.pend AGING.pg 0 = true ∧
        (d.nv.bad = s.dev.nv.bad → d.nv.mem = s.dev.nv.mem))

/-- RETRAIN starts training on a dark port and is refused with E_STATE on one that is not, or with the page disabled; RESTORE
trains beside a running picture and does nothing else. Training that ends with no lane failed shows no failed lane, no lost group,
DONE, and the link RUNNING; with a pair failed the group is lost and, where the port may lose none, the link FAILED with an error.
Without training, or with the back channel lost, an end of training does nothing. A back channel silent for 64 slots is lost,
reported once. A full training or RESTORE ends with its time and event; a sweep leaves each lane the preset of its largest EYE,
the lower on a tie; an IDENT that cannot take the port's rate, depth or width loses its group. A restored lane is marked good
again, with its event, or while the raster runs waits for the line four on (log entry 66). The block headers are told apart, and
scrambling twice gives the blocks back. (R311, R312, R321, R322, R323, R326, R327, R401, 17_panel_link) -/
def Obligations.LinkTrains : Prop :=
  ∀ (s : State) (a : Acc) (p : Port) (us f ph x : Nat) (id : List (Option Nat)) (eyes : List (List Nat)) (l : Fin 24) (bk :
    BlockKind) (bs : List Block) (st : Nat) (e : Nat × Nat) (eye : List Nat),
    (s.dev.awake a = true → s.dev.mayWrite a.who (TDL.pg p.val) = true → s.dev.operates (TDL.pg p.val) = true → s.dev.isDark p.val
      = true → s.dev.trim.run = none →
      Ran (.tdlRetrain a p) s fun d =>
        (d.tdlSt p.val).train = 1 ∧
        (d.tdlSt p.val).trained = false ∧
        d.tdlState p.val = 1 ∧
        d.on (TDL.pg p.val) TDL.TRAIN_STAT_ACTIVE = true ∧
        d.rd (TDL.pg p.val) TDL.TRAIN_STAT_PHASE = 1 ∧
        d.bank = s.dev.bank ∧
        Dev.WordsBut (onPage (TDL.pg p.val)) s.dev d) ∧
    (s.dev.awake a = true → s.dev.mayWrite a.who (TDL.pg p.val) = true → (s.dev.isDark p.val = false ∨ s.dev.operates (TDL.pg
      p.val) = false) →
      Ran (.tdlRetrain a p) s fun d =>
        Dev.ErrShown s.dev d (TDL.pg p.val) E.STATE 0x04C a.who.code ∧
        Dev.Only (errKeys (TDL.pg p.val)) [] s.dev d) ∧
    (s.dev.awake a = true → s.dev.mayWrite a.who (TDL.pg p.val) = true → s.dev.operates (TDL.pg p.val) = true → s.dev.tdlState
      p.val = 2 → s.dev.trim.run = none →
      Ran (.tdlRestore a p) s fun d =>
        (d.tdlSt p.val).train = 3 ∧
        (d.tdlSt p.val).trained = (s.dev.tdlSt p.val).trained ∧
        d.tdlState p.val = 2 ∧
        d.on (TDL.pg p.val) TDL.TRAIN_STAT_ACTIVE = true ∧
        Dev.WordsBut (onPage (TDL.pg p.val)) s.dev d) ∧
    (s.dev.awake a = true → s.dev.mayWrite a.who (TDL.pg p.val) = true → (s.dev.tdlState p.val ≠ 2 ∨ s.dev.operates (TDL.pg p.val)
      = false) →
      Ran (.tdlRestore a p) s fun d =>
        Dev.Only [] [] s.dev d) ∧
    ((s.dev.tdlSt p.val).train = 1 → (s.dev.tdlSt p.val).bcLost = false → us < 2 ^ 16 →
      Ran (.tdlTrainDone p 0 [] eyes us 3) s fun d =>
        (d.tdlSt p.val).trained = true ∧
        (d.tdlSt p.val).train = 0 ∧
        (d.tdlSt p.val).lost = 0 ∧
        d.lanesFailed p.val = 0 ∧
        d.tdlState p.val = 2 ∧
        d.rd (TDL.pg p.val) TDL.TRAIN_STAT_OUTCOME = 0 ∧
        d.rd (TDL.pg p.val) TDL.TRAIN_STAT_US = us ∧
        d.pend (TDL.pg p.val) 0 = true ∧
        d.sh = s.dev.sh) ∧
    ((s.dev.tdlSt p.val).train = 1 → (s.dev.tdlSt p.val).bcLost = false → groupsOn s.dev.regs p.val = [0] → s.dev.on (TDL.pg
      p.val) TDL.CTL_GROUP_LOSS = true → s.dev.panelState p.val ≠ 4 →
      Ran (.tdlTrainDone p 3 [] eyes us 2) s fun d =>
        (d.tdlSt p.val).trained = false ∧
        (d.tdlSt p.val).lost = 1 ∧
        d.lanesFailed p.val = 3 ∧
        d.tdlState p.val = 4 ∧
        d.rd (TDL.pg p.val) TDL.TRAIN_STAT_OUTCOME = 3 ∧
        d.rd (TDL.pg p.val) TDL.TRAIN_STAT_CODE = E.TIMEOUT ∧
        Dev.ErrShown s.dev d (TDL.pg p.val) E.TIMEOUT 0x050 15) ∧
    (((s.dev.tdlSt p.val).train = 0 ∨ (s.dev.tdlSt p.val).bcLost = true) →
      Ran (.tdlTrainDone p f id eyes us ph) s fun d =>
        Dev.Only [] [] s.dev d) ∧
    ((s.dev.tdlSt p.val).bcLost = false → 64 ≤ (s.dev.tdlSt p.val).silent →
      Ran (.backChannelLost p) s fun d =>
        (d.tdlSt p.val).bcLost = true ∧
        d.pend (TDL.pg p.val) 3 = true ∧
        Dev.FaultNewest d 0x10 p.val 15 ∧
        Dev.LogOnly [TDL.BC_VIOL_COUNT.key (TDL.pg p.val) 0 0] { s.dev with tdl := d.tdl } d) ∧
    (((s.dev.tdlSt p.val).bcLost = true ∨ (s.dev.tdlSt p.val).silent < 64) →
      Ran (.backChannelLost p) s fun d =>
        Dev.Only [] [] s.dev d) ∧
    (((s.dev.tdlSt p.val).train = 1 ∨ (s.dev.tdlSt p.val).train = 3) → (s.dev.tdlSt p.val).bcLost = false →
      Ran (.tdlTrainDone p f id eyes us ph) s fun d =>
        (d.tdlSt p.val).train = 0 ∧
        d.on (TDL.pg p.val) TDL.TRAIN_STAT_ACTIVE = false ∧
        d.rd (TDL.pg p.val) TDL.TRAIN_STAT_US = satU 16 us % 2 ^ TDL.TRAIN_STAT_US.w ∧
        d.pend (TDL.pg p.val) 0 = true) ∧
    ((s.dev.tdlSt p.val).train = 3 → (s.dev.tdlSt p.val).bcLost = false → s.dev.tdlState p.val = 2 → bit (laneMask s.dev.regs
      p.val) l.val = true → bit (s.dev.lanesFailed p.val) l.val = true → s.dev.scan.run = false →
      Ran (.tdlTrainDone p 0 [] eyes us 3) s fun d =>
        bit (d.lanesFailed p.val) l.val = false ∧
        d.pend (TDL.pg p.val) 5 = true ∧
        d.tdlState p.val = 2) ∧
    ((s.dev.tdlSt p.val).train = 3 → (s.dev.tdlSt p.val).bcLost = false → s.dev.tdlState p.val = 2 → bit (laneMask s.dev.regs
      p.val) l.val = true → bit (s.dev.lanesFailed p.val) l.val = true → s.dev.scan.run = true →
      Ran (.tdlTrainDone p 0 [] eyes us 3) s fun d =>
        bit (d.lanesFailed p.val) l.val = true ∧
        (d.tdlSt p.val).ret.map (fun r => (r.line, bit r.lanes l.val)) = some (((s.dev.portR p.val).line + 4) % (s.dev.mode.h +
          s.dev.mode.vb), true) ∧
        d.tdlState p.val = 2) ∧
    ((s.dev.tdlSt p.val).train = 1 → (s.dev.tdlSt p.val).bcLost = false → groupsOn s.dev.regs p.val = [0] → spansOf s.dev.regs
      p.val s.dev.mode.w = [(0, e)] → s.dev.identBad p.val (0, e) x = true → s.dev.on (TDL.pg p.val) TDL.CTL_GROUP_LOSS = true →
      s.dev.panelState p.val ≠ 4 → s.dev.panelState p.val ≠ 6 →
      Ran (.tdlTrainDone p 0 [some x] eyes us ph) s fun d =>
        bit (d.tdlSt p.val).lost 0 = true ∧
        d.rd (TDL.pg p.val) TDL.TRAIN_STAT_CODE = E.STATE ∧
        d.tdlState p.val = 4) ∧
    ((s.dev.tdlSt p.val).train = 1 → (s.dev.tdlSt p.val).bcLost = false → bit (laneMask s.dev.regs p.val) l.val = true → s.dev.on
      (TDL.pg p.val) TDL.CTL_FFE_FIXED = false →
      Ran (.tdlTrainDone p f id eyes us ph) s fun d =>
        d.rd (TDL.pg p.val) TDL.FFE_USED (l.val / 8) (l.val % 8) = bestPreset (eyes.getD l.val [])) ∧
    (bestPreset eye < 8 ∧ ∀ i, i < 8 → eye.getD i 0 ≤ eye.getD (bestPreset eye) 0 ∧ (eye.getD i 0 = eye.getD (bestPreset eye) 0 →
        bestPreset eye ≤ i)) ∧
    (headerKind bk.header = some bk) ∧
    (bs.all (fun b => decide (b.payload < 2 ^ 128)) = true → scrambleBlocks st (scrambleBlocks st bs) = bs)

/-- CMD_GO with the opcode of each of the four commands, on a running link with none in progress, takes the command as CMD_OP and
the arguments name it and shows BUSY; while one is in progress it is dropped with E_BUSY, on a link that does not run with
E_STATE. A response shows its data and CODE with RESULT and raises the event; a missing one is asked for again, and after three
the command ends TIMEOUT. A slot that holds no command's response is a poll's; one that brings nothing counts a miss and moves to
the next group. (R317, R318, R319, R327, R337, 17_panel_link) -/
def Obligations.DriverCommands : Prop :=
  ∀ (s : State) (a : Acc) (p : Port) (c : TdlCmd) (x y : Word) (g line : Nat),
    (s.dev.awake a = true → s.dev.mayWrite a.who (TDL.pg p.val) = true → s.dev.rd (TDL.pg p.val) TDL.CMD_OP_OPCODE = 1 →
      s.dev.operates (TDL.pg p.val) = true → s.dev.tdlState p.val = 2 → s.dev.on (TDL.pg p.val) TDL.RSP_STAT_BUSY = false →
      Ran (.tdlCmdIdent a p) s fun d =>
        (d.tdlSt p.val).cmd = some ⟨1, s.dev.rd (TDL.pg p.val) TDL.CMD_OP_GROUP, s.dev.rd (TDL.pg p.val) TDL.CMD_ARG0_ARG,
          s.dev.rd (TDL.pg p.val) TDL.CMD_ARG1_ARG, 0, 0, s.dev.on (TDL.pg p.val) TDL.CMD_OP_RSP_REQ, true, none⟩ ∧
        d.on (TDL.pg p.val) TDL.RSP_STAT_BUSY = true ∧
        Dev.Only [TDL.RSP_STAT_BUSY.key (TDL.pg p.val) 0 0] [] { s.dev with tdl := d.tdl } d) ∧
    (s.dev.awake a = true → s.dev.mayWrite a.who (TDL.pg p.val) = true → s.dev.rd (TDL.pg p.val) TDL.CMD_OP_OPCODE = 2 →
      s.dev.operates (TDL.pg p.val) = true → s.dev.tdlState p.val = 2 → s.dev.on (TDL.pg p.val) TDL.RSP_STAT_BUSY = false →
      Ran (.tdlCmdStatus a p) s fun d =>
        ((d.tdlSt p.val).cmd.map (·.op)) = some 2 ∧
        d.on (TDL.pg p.val) TDL.RSP_STAT_BUSY = true ∧
        Dev.Only [TDL.RSP_STAT_BUSY.key (TDL.pg p.val) 0 0] [] { s.dev with tdl := d.tdl } d) ∧
    (s.dev.awake a = true → s.dev.mayWrite a.who (TDL.pg p.val) = true → s.dev.rd (TDL.pg p.val) TDL.CMD_OP_OPCODE = 4 →
      s.dev.operates (TDL.pg p.val) = true → s.dev.tdlState p.val = 2 → s.dev.on (TDL.pg p.val) TDL.RSP_STAT_BUSY = false →
      Ran (.tdlCmdWriteReg a p) s fun d =>
        ((d.tdlSt p.val).cmd.map (·.op)) = some 4 ∧
        d.on (TDL.pg p.val) TDL.RSP_STAT_BUSY = true ∧
        Dev.Only [TDL.RSP_STAT_BUSY.key (TDL.pg p.val) 0 0] [] { s.dev with tdl := d.tdl } d) ∧
    (s.dev.awake a = true → s.dev.mayWrite a.who (TDL.pg p.val) = true → s.dev.rd (TDL.pg p.val) TDL.CMD_OP_OPCODE = 5 →
      s.dev.operates (TDL.pg p.val) = true → s.dev.tdlState p.val = 2 → s.dev.on (TDL.pg p.val) TDL.RSP_STAT_BUSY = false →
      Ran (.tdlCmdReadReg a p) s fun d =>
        ((d.tdlSt p.val).cmd.map (·.op)) = some 5 ∧
        d.on (TDL.pg p.val) TDL.RSP_STAT_BUSY = true ∧
        Dev.Only [TDL.RSP_STAT_BUSY.key (TDL.pg p.val) 0 0] [] { s.dev with tdl := d.tdl } d) ∧
    (s.dev.awake a = true → s.dev.mayWrite a.who (TDL.pg p.val) = true → s.dev.rd (TDL.pg p.val) TDL.CMD_OP_OPCODE = 2 →
      (s.dev.tdlState p.val ≠ 2 ∨ s.dev.operates (TDL.pg p.val) = false) →
      Ran (.tdlCmdStatus a p) s fun d =>
        Dev.ErrShown s.dev d (TDL.pg p.val) E.STATE 0x060 a.who.code ∧
        d.tdl = s.dev.tdl) ∧
    (s.dev.awake a = true → s.dev.mayWrite a.who (TDL.pg p.val) = true → s.dev.rd (TDL.pg p.val) TDL.CMD_OP_OPCODE = 2 →
      s.dev.operates (TDL.pg p.val) = true → s.dev.tdlState p.val = 2 → s.dev.on (TDL.pg p.val) TDL.RSP_STAT_BUSY = true →
      Ran (.tdlCmdStatus a p) s fun d =>
        Dev.ErrShown s.dev d (TDL.pg p.val) E.BUSY 0x060 a.who.code ∧
        d.tdl = s.dev.tdl) ∧
    ((s.dev.tdlSt p.val).cmd = some c → c.rspAt = some line → c.src = 0 → c.op < 256 → s.dev.tdlState p.val = 2 →
      Ran (.rspReceived p line (.ok 0 x.toNat y.toNat)) s fun d =>
        d.word (TDL.pg p.val) 0x068 = x ∧
        d.word (TDL.pg p.val) 0x06C = y ∧
        d.word (TDL.pg p.val) 0x064 = BitVec.ofNat 32 (c.op * 256) ∧
        (d.tdlSt p.val).cmd = none ∧
        (d.tdlSt p.val).silent = 0 ∧
        (d.tdlSt p.val).bcLost = false ∧
        d.pend (TDL.pg p.val) 4 = true ∧
        Dev.WordsBut (onPage (TDL.pg p.val)) s.dev d) ∧
    ((s.dev.tdlSt p.val).cmd = some c → c.rspAt = some line → s.dev.tdlState p.val = 2 →
      Ran (.rspReceived p line .silent) s fun d =>
        d.tdlSt p.val =
          { s.dev.tdlSt p.val with silent := (s.dev.tdlSt p.val).silent + 1, cmd := some { c with ask := decide (c.asked < 3), rspAt := none } } ∧
        Dev.Only [] [] { s.dev with tdl := d.tdl } d) ∧
    ((s.dev.tdlSt p.val).cmd = some c → c.rsp = true → c.asked = 3 → c.ask = false → c.src = 0 → c.op < 256 →
      Ran (.rspTimeout p) s fun d =>
        d.word (TDL.pg p.val) 0x064 = BitVec.ofNat 32 (2 + c.op * 256) ∧
        (d.tdlSt p.val).cmd = none ∧
        d.pend (TDL.pg p.val) 4 = true ∧
        Dev.Only [rkey (TDL.pg p.val) 0x064] [(TDL.pg p.val, 4)] { s.dev with tdl := d.tdl } d) ∧
    (s.dev.tdlState p.val = 2 → s.dev.slotCmd p.val line = none → s.dev.pollGroup p.val = some g → g < 12 → getC (s.dev.tdlSt
      p.val).miss g = 0 →
      Ran (.rspReceived p line .silent) s fun d =>
        (d.tdlSt p.val).poll = (g + 1) % 12 ∧
        getC (d.tdlSt p.val).miss g = 1 ∧
        (d.tdlSt p.val).silent = (s.dev.tdlSt p.val).silent + 1 ∧
        Dev.Only [] [] { s.dev with tdl := d.tdl } d)

/-- A compare of a port whose Watermark is off, or of a line that carried no LINE packet, changes nothing. A lane with a valid
trim whose CRCs agree is marked good; one that disagrees counts, shows in LAST, raises the event and spoils MATCHED, and with the
other lane agreeing its line is queued for a resend. A lane without a valid trim is shown UNCHECKED, raises nothing but its
standing condition, and spoils MATCHED. At the effective line a failover marks the lane failed, counts and raises its event; with
none decided nothing happens. (R323, R324, R328, R329, R330, 17_panel_link) -/
def Obligations.LanesChecked : Prop :=
  ∀ (s : State) (p : Port) (g : Fin 12) (line : Nat) (sl : Fin 4) (f : Failover) (b c2 : Option Sampled) (u v : Sampled) (w :
    WmSent),
    ((s.dev.wmOn p.val = false ∨ (s.dev.tdlSt p.val).carried.find? (fun e => e.line == line && e.slot == sl.val) = none) →
      Ran (.wmCompare p g line sl b c2) s fun d =>
        Dev.Only [] [] s.dev d) ∧
    (s.dev.wmOn p.val = true → s.dev.sampValid p.val (2 * g.val) = true → crcsAgree u = true → (s.dev.tdlSt p.val).carried.find?
      (fun e => e.line == line && e.slot == sl.val) = some w → w.old = false →
      Ran (.wmCompare p g line sl (some u) none) s fun d =>
        marksOf (d.tdlSt p.val) (2 * g.val) = (false :: marksOf (s.dev.tdlSt p.val) (2 * g.val)).take 64 ∧
        Dev.Only [] [] { s.dev with tdl := d.tdl } d) ∧
    (s.dev.wmOn p.val = true → (s.dev.sampValid p.val (2 * g.val) = true ∧ s.dev.sampValid p.val (2 * g.val + 1) = true) →
      crcsAgree u = false → crcsAgree v = true → (s.dev.tdlSt p.val).carried.find? (fun e => e.line == line && e.slot == sl.val) =
      some w → w.old = false → s.dev.rd WMARK.pg WMARK.CTL_POLICY = 1 → (s.dev.tdlSt p.val).resend = [] → line < 8192 →
      s.dev.frozen WMARK.pg = false →
      Ran (.wmCompare p g line sl (some u) (some v)) s fun d =>
        d.rd WMARK.pg WMARK.MISMATCH_COUNT p.val = satU WMARK.MISMATCH_COUNT.w (s.dev.rd WMARK.pg WMARK.MISMATCH_COUNT p.val + 1) ∧
        d.word WMARK.pg 0x054 = BitVec.ofNat 32 (2 * g.val + p.val * 32 + line * 64 + sl.val * 2 ^ 19) ∧
        (d.pend WMARK.pg 0 = true ∧ d.pend WMARK.pg 1 = true) ∧
        (d.tdlSt p.val).matched = false ∧
        ((d.tdlSt p.val).resend.map (·.1)) = [g.val] ∧
        d.rd WMARK.pg WMARK.RESENT_COUNT p.val = satU WMARK.RESENT_COUNT.w (s.dev.rd WMARK.pg WMARK.RESENT_COUNT p.val + 1)) ∧
    (s.dev.wmOn p.val = true → s.dev.sampValid p.val (2 * g.val) = false → (s.dev.tdlSt p.val).carried.find? (fun e => e.line ==
      line && e.slot == sl.val) = some w → w.old = false →
      Ran (.wmCompare p g line sl (some u) none) s fun d =>
        bit (d.rd WMARK.pg WMARK.UNCHECKED_LANES p.val) (2 * g.val) = true ∧
        (d.tdlSt p.val).matched = false ∧
        marksOf (d.tdlSt p.val) (2 * g.val) = marksOf (s.dev.tdlSt p.val) (2 * g.val) ∧
        Dev.Changes [WMARK.UNCHECKED_LANES.key WMARK.pg p.val 0, rkey WMARK.pg 0x00C, rkey WMARK.pg 0x014] []
          { s.dev with tdl := d.tdl } d) ∧
    ((s.dev.tdlSt p.val).failing g.val = some f → s.dev.tdlState p.val = 2 → f.line = line → f.line < s.dev.mode.h → f.lane < 24 →
      s.dev.frozen (TDL.pg p.val) = false →
      Ran (.failoverSwitch p g line) s fun d =>
        d.lanesFailed p.val = (s.dev.lanesFailed p.val ||| 2 ^ f.lane) ∧
        (d.tdlSt p.val).failing g.val = none ∧
        d.pend (TDL.pg p.val) 1 = true ∧
        d.rd (TDL.pg p.val) TDL.FAILOVER_CNT_COUNT = satU TDL.FAILOVER_CNT_COUNT.w (s.dev.rd (TDL.pg p.val) TDL.FAILOVER_CNT_COUNT
          + 1) ∧
        Dev.WordsBut (fun k => logKey k || onPage (TDL.pg p.val) k) s.dev d) ∧
    ((s.dev.tdlSt p.val).failing g.val = none →
      Ran (.failoverSwitch p g line) s fun d =>
        Dev.Only [] [] s.dev d) ∧
    ((s.dev.tdlSt p.val).failing g.val = some f → s.dev.tdlState p.val = 2 → f.lane < 24 →
      Ran (.failoverSwitch p g line) s fun d =>
        d.lanesFailed p.val = (s.dev.lanesFailed p.val ||| 2 ^ f.lane) ∧
        (d.tdlSt p.val).failing g.val = none ∧
        d.pend (TDL.pg p.val) 1 = true ∧
        d.nv.mem = s.dev.nv.mem) ∧
    (s.dev.wmOn p.val = true →
      Ran (.wmCompare p g line sl b c2) s fun d =>
        (d.tdlSt p.val).cmd = (s.dev.tdlSt p.val).cmd ∧
        d.nv.mem = s.dev.nv.mem)

/-- ON with the panel OFF, its clock ready and its port on drives the first used rail and waits; with the panel not OFF it is
dropped with E_STATE, with the clock not ready with E_CLOCK_NOT_READY. A rail's good, its delay, the analogue levels, PRST_DELAY
and PREADY each move the sequencer on only from the step that waits for it; a wait that expires fails the power-on with its code,
event and power-off. A wait that expires ends power-on with E_TIMEOUT from every step; in power-off the CLEAR is recorded and the
sequence goes on. A reference drives between 0.20 V and 3.00 V. (R41, R337, R338, R339, R340, R349, 18_panel_power_bias) -/
def Obligations.PanelPowersUp : Prop :=
  ∀ (s : State) (a : Acc) (x : Word) (p : Port) (n : Fin 4) (v : Rat) (vn : Fin 5),
    (s.dev.awake a = true → s.dev.mayWrite a.who (PANEL.pg p.val) = true → PANEL.PWR_CTL_OFF.of x = 0 → s.dev.panelState p.val = 0
      → s.dev.onPll (4 + p.val) = true → s.dev.portOn p.val = true → s.dev.operates (PANEL.pg p.val) = true → s.dev.seqUse p.val 0
      = true → s.dev.on (PANEL.pg p.val) PANEL.SEQ_PG_WAIT 0 = false →
      Ran (.panelOn a p x) s fun d =>
        d.panelState p.val = 1 ∧
        (d.panelSt p.val).wait = .onDelay ∧
        (d.panelSt p.val).idx = 0 ∧
        d.pwr.rails = (s.dev.pwr.rails ||| 2 ^ s.dev.rd (PANEL.pg p.val) PANEL.SEQ_RAIL 0) ∧
        (d.panelSt p.val).onAt = s.dev.devtime ∧
        Dev.WordsBut (fun k => onPage (PANEL.pg 0) k || onPage (PANEL.pg 1) k) s.dev d) ∧
    (s.dev.awake a = true → s.dev.mayWrite a.who (PANEL.pg p.val) = true → PANEL.PWR_CTL_OFF.of x = 0 → s.dev.panelState p.val ≠ 0
      →
      Ran (.panelOn a p x) s fun d =>
        Dev.ErrShown s.dev d (PANEL.pg p.val) E.STATE 0x040 a.who.code ∧
        Dev.Only (errKeys (PANEL.pg p.val)) [] s.dev d) ∧
    (s.dev.awake a = true → s.dev.mayWrite a.who (PANEL.pg p.val) = true → PANEL.PWR_CTL_OFF.of x = 0 → s.dev.panelState p.val = 0
      → s.dev.onPll (4 + p.val) = false →
      Ran (.panelOn a p x) s fun d =>
        Dev.ErrShown s.dev d (PANEL.pg p.val) E.CLOCK_NOT_READY 0x040 a.who.code ∧
        Dev.Only (errKeys (PANEL.pg p.val)) [] s.dev d) ∧
    (Ran (.railPgRise n) s fun d =>
        d.pwr.railPg = (s.dev.pwr.railPg ||| 2 ^ n.val) ∧
        (d.panelSt p.val).wait = (if (s.dev.panelSt p.val).wait = .pg ∧ s.dev.rd (PANEL.pg p.val) PANEL.SEQ_PG (s.dev.panelSt
          p.val).idx = n.val then .onDelay else (s.dev.panelSt p.val).wait) ∧
        d.panelState p.val = s.dev.panelState p.val ∧
        Dev.WordsBut (fun k => k == rkey (PANEL.pg 0) 0x0CC || k == rkey (PANEL.pg 1) 0x0CC) s.dev d) ∧
    ((s.dev.panelSt p.val).wait = .onDelay → (s.dev.panelSt p.val).idx < 5 → s.dev.seqUse p.val ((s.dev.panelSt p.val).idx + 1) =
      true →
      Ran (.seqDelayExpire p) s fun d =>
        (d.panelSt p.val).idx = (s.dev.panelSt p.val).idx + 1 ∧
        bit d.pwr.rails (s.dev.rd (PANEL.pg p.val) PANEL.SEQ_RAIL ((s.dev.panelSt p.val).idx + 1)) = true ∧
        d.panelState p.val = s.dev.panelState p.val ∧
        ((d.panelSt p.val).wait = .pg ∨ (d.panelSt p.val).wait = .onDelay)) ∧
    ((s.dev.panelSt p.val).wait = .onDelay → s.dev.seqUse p.val ((s.dev.panelSt p.val).idx + 1) = false →
      Ran (.seqDelayExpire p) s fun d =>
        d.panelState p.val = 2 ∧
        (d.panelSt p.val).wait = .analog ∧
        (d.panelSt p.val).gclk = true ∧
        (d.panelSt p.val).vref = true ∧
        d.biasOn p.val = true ∧
        d.pwr.rails = s.dev.pwr.rails) ∧
    (((s.dev.panelSt p.val).wait = .pg ∨ (s.dev.panelSt p.val).wait = .analog ∨ (s.dev.panelSt p.val).wait = .pready ∨
      (s.dev.panelSt p.val).wait = .clear) → (s.dev.panelSt p.val).gclk = true →
      Ran (.seqWaitTimeout p) s fun d =>
        d.rd (PANEL.pg p.val) PANEL.PWR_STAT_RESULT = 2 ∧
        d.rd (PANEL.pg p.val) PANEL.PWR_STAT_CODE = E.TIMEOUT ∧
        d.pend (PANEL.pg p.val) 2 = true ∧
        d.panelState p.val = 8 ∧
        (d.panelSt p.val).prst = false ∧
        (d.panelSt p.val).wait = .gclk) ∧
    ((s.dev.panelSt p.val).wait = .analog → s.dev.on (PANEL.pg p.val) PANEL.VNEG_STAT_REG = true →
      Ran (.analogReady p) s fun d =>
        d.panelSt p.val = { s.dev.panelSt p.val with wait := .prst } ∧
        Dev.Only [] [] { s.dev with panel := d.panel } d) ∧
    ((s.dev.panelSt p.val).wait ≠ .analog →
      Ran (.analogReady p) s fun d =>
        Dev.Only [] [] s.dev d) ∧
    ((s.dev.panelSt p.val).wait = .prst → s.dev.on (PANEL.pg p.val) PANEL.PANEL_CFG_PREADY_USE = true → (s.dev.panelSt
      p.val).pready = false →
      Ran (.prstDelayExpire p) s fun d =>
        d.panelState p.val = 3 ∧
        d.panelSt p.val = { s.dev.panelSt p.val with prst := true, wait := .pready } ∧
        Dev.Only [rkey (PANEL.pg p.val) 0x008] [] { s.dev with panel := d.panel } d) ∧
    ((s.dev.panelSt p.val).wait = .pready → s.dev.on (PANEL.pg p.val) PANEL.PANEL_CFG_PREADY_USE = true →
      Ran (.preadyRise p) s fun d =>
        d.panelState p.val = 4 ∧
        (d.panelSt p.val).pready = true ∧
        (d.panelSt p.val).wait = .none ∧
        (d.tdlSt p.val).train = 1 ∧
        d.tdlState p.val = 1) ∧
    (((s.dev.panelSt p.val).wait = .pg ∨ (s.dev.panelSt p.val).wait = .analog ∨ (s.dev.panelSt p.val).wait = .pready ∨
      (s.dev.panelSt p.val).wait = .clear) →
      Ran (.seqWaitTimeout p) s fun d =>
        d.rd (PANEL.pg p.val) PANEL.PWR_STAT_RESULT = 2 ∧
        d.rd (PANEL.pg p.val) PANEL.PWR_STAT_CODE = E.TIMEOUT ∧
        d.pend (PANEL.pg p.val) 2 = true ∧
        (d.nv.bad = s.dev.nv.bad → d.nv.mem = s.dev.nv.mem)) ∧
    ((s.dev.panelSt p.val).wait = .offClear →
      Ran (.seqWaitTimeout p) s fun d =>
        d.rd (PANEL.pg p.val) PANEL.PWR_STAT_CODE = E.TIMEOUT ∧
        (d.panelSt p.val).prst = false) ∧
    (s.dev.vrefVolts p.val vn.val = some v → mkRat 1 5 ≤ v ∧ v ≤ 3)

/-- OFF of a panel that is OFF or in power-off changes nothing; of one in FAULT it makes it OFF; else power-off begins with
emission off, and without a CLEAR to send the panel is put in reset. A lost PREADY or power good of a lit panel is a fault with
its event and power-off. GCLK stops, and with it the references and the bias. COUNT readings out of the window latch a crack with
its event; CRK_CLEAR clears it after COUNT readings within, else it is dropped with E_STATE. VNEG out of regulation, or without
overcurrent, shows so. OFF in every other state turns emission off and begins power-off. (R340, R341, R344, R346, R347, R351,
18_panel_power_bias) -/
def Obligations.PanelPowersDown : Prop :=
  ∀ (s : State) (a : Acc) (p : Port) (n : Fin 4) (code : List Rat) (k mv : Nat),
    (s.dev.awake a = true → s.dev.mayWrite a.who (PANEL.pg p.val) = true → (s.dev.panelState p.val = 0 ∨ s.dev.panelState p.val =
      8) →
      Ran (.panelOff a p) s fun d =>
        Dev.Only [] [] s.dev d) ∧
    (s.dev.awake a = true → s.dev.mayWrite a.who (PANEL.pg p.val) = true → s.dev.panelState p.val = 9 → s.dev.pwr.seqOff = none →
      Ran (.panelOff a p) s fun d =>
        d.panelState p.val = 0 ∧
        bit (d.word (PANEL.pg p.val) 0x00C).toNat 3 = false ∧
        d.pend (PANEL.pg p.val) 1 = true ∧
        Dev.Changes [rkey (PANEL.pg p.val) 0x008, rkey (PANEL.pg p.val) 0x00C] [(PANEL.pg p.val, 1)] s.dev d) ∧
    (s.dev.awake a = true → s.dev.mayWrite a.who (PANEL.pg p.val) = true → s.dev.panelState p.val = 7 → s.dev.on AGING.pg
      AGING.CTL_SNAP_ON_OFF = false → s.dev.on (PANEL.pg p.val) PANEL.PANEL_CFG_OFF_CLEAR = false → (s.dev.panelSt p.val).gclk =
      true → s.dev.pwr.seqOff = none →
      Ran (.panelOff a p) s fun d =>
        d.panelState p.val = 8 ∧
        (d.portR p.val).emit = false ∧
        (d.panelSt p.val).prst = false ∧
        (d.panelSt p.val).wait = .gclk ∧
        d.tdlState p.val = 0 ∧
        d.pwr.rails = s.dev.pwr.rails) ∧
    ((s.dev.panelSt p.val).wait = .gclk →
      Ran (.gclkStop p) s fun d =>
        (d.panelSt p.val).gclk = false ∧
        (d.panelSt p.val).vref = false ∧
        d.biasOn p.val = false) ∧
    ((s.dev.panelSt p.val).wait ≠ .gclk →
      Ran (.gclkStop p) s fun d =>
        Dev.Only [] [] s.dev d) ∧
    ((s.dev.panelState 0 = 0 ∧ s.dev.panelState 1 = 0) →
      Ran (.railPgLoss n) s fun d =>
        d.pwr.railPg = clearBit s.dev.pwr.railPg n.val ∧
        d.panelState p.val = 0 ∧
        d.pwr.rails = s.dev.pwr.rails) ∧
    (s.dev.panelState p.val = 7 → s.dev.on (PANEL.pg p.val) PANEL.PANEL_CFG_PREADY_USE = true → (s.dev.panelSt p.val).gclk = true
      → s.dev.pwr.seqOff = none →
      Ran (.preadyLoss p) s fun d =>
        d.panelState p.val = 8 ∧
        (d.panelSt p.val).fault = true ∧
        (d.panelSt p.val).prst = false ∧
        (d.portR p.val).emit = false ∧
        d.pend (PANEL.pg p.val) 4 = true ∧
        (d.panelSt p.val).wait = .gclk) ∧
    (s.dev.panelState p.val ≠ 7 →
      Ran (.preadyLoss p) s fun d =>
        d.panelSt p.val = { s.dev.panelSt p.val with pready := false } ∧
        Dev.Only [] [] { s.dev with panel := d.panel } d) ∧
    (mv < 2 ^ 16 → (s.dev.biasOn 0 || s.dev.biasOn 1) = true → s.dev.domOn 6 = true → s.dev.on (PANEL.pg p.val)
      PANEL.VNEG_STAT_PUMP_ON = true → s.dev.pwr.testMode = false →
      Ran (.vnegRegChange true mv) s fun d =>
        d.on (PANEL.pg p.val) PANEL.VNEG_STAT_REG = true ∧
        d.rd (PANEL.pg p.val) PANEL.VNEG_STAT_MV = mv % 2 ^ PANEL.VNEG_STAT_MV.w ∧
        bit (d.word (PANEL.pg p.val) 0x00C).toNat 7 = false ∧
        Dev.WordsBut (fun k => onPage (PANEL.pg 0) k || onPage (PANEL.pg 1) k) s.dev d) ∧
    ((s.dev.biasOn 0 || s.dev.biasOn 1) = true → s.dev.domOn 6 = true → s.dev.on (PANEL.pg p.val) PANEL.VNEG_STAT_PUMP_ON = true →
      s.dev.pwr.testMode = false →
      Ran (.vnegOvercurrent true) s fun d =>
        d.on (PANEL.pg p.val) PANEL.VNEG_STAT_OC = true ∧
        bit (d.word (PANEL.pg p.val) 0x00C).toNat 6 = true ∧
        Dev.WordsBut (fun k => onPage (PANEL.pg 0) k || onPage (PANEL.pg 1) k) s.dev d) ∧
    (s.dev.on (PANEL.pg p.val) PANEL.CRK_CTL_EN = true → s.dev.domOn (6 + p.val) = true → s.dev.portState p.val ≠ 5 → k = (rna
      (mkRat (sumNat (code.map crkCode)) code.length)).toNat → s.dev.rd (PANEL.pg p.val) PANEL.CRK_LIM_LO ≤ k → k ≤ s.dev.rd
      (PANEL.pg p.val) PANEL.CRK_LIM_HI → 1 ≤ s.dev.rd (PANEL.pg p.val) PANEL.CRK_CTL_COUNT → s.dev.rd SCAN.pg SCAN.SR_STAT_STATE
      ≠ 2 →
      Ran (.crackMeasure p code) s fun d =>
        d.rd (PANEL.pg p.val) PANEL.CRK_STAT_CODE = k ∧
        d.on (PANEL.pg p.val) PANEL.CRK_STAT_OUT = false ∧
        d.panelSt p.val = { s.dev.panelSt p.val with outs := 0, ins := (s.dev.panelSt p.val).ins + 1 } ∧
        Dev.Only [rkey (PANEL.pg p.val) 0x0C8] [] { s.dev with panel := d.panel } d) ∧
    (s.dev.on (PANEL.pg p.val) PANEL.CRK_CTL_EN = true → s.dev.domOn (6 + p.val) = true → s.dev.portState p.val ≠ 5 → k = (rna
      (mkRat (sumNat (code.map crkCode)) code.length)).toNat → s.dev.rd (PANEL.pg p.val) PANEL.CRK_LIM_HI < k → s.dev.rd (PANEL.pg
      p.val) PANEL.CRK_CTL_COUNT ≤ (s.dev.panelSt p.val).outs + 1 → s.dev.rd SCAN.pg SCAN.SR_STAT_STATE ≠ 2 →
      Ran (.crackMeasure p code) s fun d =>
        d.rd (PANEL.pg p.val) PANEL.CRK_STAT_CODE = k ∧
        d.on (PANEL.pg p.val) PANEL.CRK_STAT_OUT = true ∧
        d.on (PANEL.pg p.val) PANEL.CRK_STAT_LATCHED = true ∧
        (s.dev.on (PANEL.pg p.val) PANEL.CRK_STAT_LATCHED = false → bit (d.word (PANEL.pg p.val) 0x00C).toNat 5 = true)) ∧
    (s.dev.awake a = true → s.dev.mayWrite a.who (PANEL.pg p.val) = true → s.dev.rd (PANEL.pg p.val) PANEL.CRK_CTL_COUNT ≤
      (s.dev.panelSt p.val).ins →
      Ran (.crkClear a p) s fun d =>
        d.on (PANEL.pg p.val) PANEL.CRK_STAT_LATCHED = false ∧
        bit (d.word (PANEL.pg p.val) 0x00C).toNat 5 = false ∧
        Dev.WordsBut (fun k => k == rkey (PANEL.pg p.val) 0x0C8 || k == rkey (PANEL.pg p.val) 0x00C) s.dev d) ∧
    (s.dev.awake a = true → s.dev.mayWrite a.who (PANEL.pg p.val) = true → (s.dev.panelSt p.val).ins < s.dev.rd (PANEL.pg p.val)
      PANEL.CRK_CTL_COUNT →
      Ran (.crkClear a p) s fun d =>
        Dev.ErrShown s.dev d (PANEL.pg p.val) E.STATE 0x040 a.who.code ∧
        Dev.Only (errKeys (PANEL.pg p.val)) [] s.dev d) ∧
    (s.dev.panelState p.val = 7 → (s.dev.panelSt p.val).gclk = true → s.dev.seqUse p.val 0 = true → s.dev.on (PANEL.pg p.val)
      PANEL.SEQ_PG_WAIT 0 = true → s.dev.rd (PANEL.pg p.val) PANEL.SEQ_PG 0 = n.val → bit s.dev.pwr.rails (s.dev.rd (PANEL.pg
      p.val) PANEL.SEQ_RAIL 0) = true → s.dev.panelState (1 - p.val) = 0 → s.dev.pwr.seqOff = none →
      Ran (.railPgLoss n) s fun d =>
        d.panelState p.val = 8 ∧
        (d.panelSt p.val).fault = true ∧
        (d.panelSt p.val).prst = false ∧
        (d.portR p.val).emit = false ∧
        d.pwr.railPg = clearBit s.dev.pwr.railPg n.val) ∧
    (s.dev.on (PANEL.pg p.val) PANEL.VNEG_STAT_PUMP_ON = true →
      Ran (.vnegRegChange false mv) s fun d =>
        d.on (PANEL.pg p.val) PANEL.VNEG_STAT_REG = false ∧
        d.bank.mem = s.dev.bank.mem) ∧
    (Ran (.vnegOvercurrent false) s fun d =>
        d.on (PANEL.pg p.val) PANEL.VNEG_STAT_OC = false ∧
        d.bank.mem = s.dev.bank.mem) ∧
    (s.dev.awake a = true → s.dev.mayWrite a.who (PANEL.pg p.val) = true → (1 ≤ s.dev.panelState p.val ∧ s.dev.panelState p.val ≤
      7) → s.dev.pwr.seqOff = none →
      Ran (.panelOff a p) s fun d =>
        (d.panelState p.val = 0 ∨ d.panelState p.val = 8) ∧
        (d.portR p.val).emit = false ∧
        (d.nv.bad = s.dev.nv.bad → d.nv.mem = s.dev.nv.mem)) ∧
    ((s.dev.panelSt p.val).wait ≠ .pready →
      Ran (.preadyRise p) s fun d =>
        d.panelSt p.val = { s.dev.panelSt p.val with pready := true } ∧
        Dev.Only [] [] { s.dev with panel := d.panel } d)

/-- GO of each of the four calibrations with no run and its input state starts it, ACTIVE and busy; with a run it is dropped with
E_BUSY, without its input state with E_STATE. The lowest due instance starts by itself. An abort before the commit point ends it
ABORTED. A SYNCDLY run without edges enough, a regression without passes enough and a sampler sweep that met idle end FAILED with
E_STATS, the targets as they were; edges all in one place, without a raster, commit their delay with jitter 0. CURMODEL with
statistics enough and within its limits writes MODEL, its quality and ends COMPLETED on a dark port; SAMPLER, VREF and CURMODEL
with a result end COMPLETED or FAILED implausible, or wait for their commit point. (R60, R353, R354, R355, R356, R358, R359, R360,
19_calibration) -/
def Obligations.TrimsRun : Prop :=
  ∀ (s : State) (a : Acc) (x : Word) (r : TrimRun) (i : Fin 7) (w : List (Nat × Nat × Nat)) (z : Int) (ra rc rv rm : Rat) (idle :
    Bool),
    (s.dev.awake a = true → s.dev.mayWrite a.who TRIM.pg = true → TRIM.RUN_CTL_ABORT.of x = 0 → TRIM.RUN_CTL_VREF_SEL.of x < 5 →
      s.dev.operates TRIM.pg = true → s.dev.domOn 1 = true → s.dev.trim.run = none → s.dev.tdlState (TRIM.RUN_CTL_PORT.of x) = 2 →
      Ran (.trimSamplerGo a x) s fun d =>
        ((d.trim.run.map fun r => (r.cal, r.port, r.auto, r.ready))) = some (0, TRIM.RUN_CTL_PORT.of x, false, false) ∧
        d.on TRIM.pg TRIM.RUN_STAT_ACTIVE = true ∧
        d.on TRIM.pg HDR.PG_STAT_BUSY = true ∧
        d.rd TRIM.pg HDR.PG_STAT_STATE = 1 ∧
        Dev.WordsBut (onPage TRIM.pg) s.dev d) ∧
    (s.dev.awake a = true → s.dev.mayWrite a.who TRIM.pg = true → TRIM.RUN_CTL_ABORT.of x = 0 → TRIM.RUN_CTL_VREF_SEL.of x < 5 →
      s.dev.operates TRIM.pg = true → s.dev.domOn 1 = true → s.dev.trim.run = none → s.dev.vrefState (TRIM.RUN_CTL_PORT.of x) =
      true → s.dev.on (PANEL.pg (TRIM.RUN_CTL_PORT.of x)) PANEL.VREF_EN (TRIM.RUN_CTL_VREF_SEL.of x) = true → s.dev.isDark
      (TRIM.RUN_CTL_PORT.of x) = true →
      Ran (.trimVrefGo a x) s fun d =>
        ((d.trim.run.map fun r => (r.cal, r.port, r.vref))) = some (1, TRIM.RUN_CTL_PORT.of x, TRIM.RUN_CTL_VREF_SEL.of x) ∧
        d.on TRIM.pg TRIM.RUN_STAT_ACTIVE = true ∧
        Dev.WordsBut (onPage TRIM.pg) s.dev d) ∧
    (s.dev.awake a = true → s.dev.mayWrite a.who TRIM.pg = true → TRIM.RUN_CTL_ABORT.of x = 0 → TRIM.RUN_CTL_VREF_SEL.of x < 5 →
      s.dev.operates TRIM.pg = true → s.dev.domOn 1 = true → s.dev.trim.run = none → s.dev.rd TITHE.pg TITHE.ISNS_FS_MA
      (TRIM.RUN_CTL_PORT.of x) ≠ 0 → s.dev.panelState (TRIM.RUN_CTL_PORT.of x) = 7 →
      Ran (.trimCurmodelGo a x) s fun d =>
        ((d.trim.run.map fun r => (r.cal, r.port))) = some (2, TRIM.RUN_CTL_PORT.of x) ∧
        d.on TRIM.pg TRIM.RUN_STAT_ACTIVE = true ∧
        Dev.WordsBut (onPage TRIM.pg) s.dev d) ∧
    (s.dev.awake a = true → s.dev.mayWrite a.who TRIM.pg = true → TRIM.RUN_CTL_ABORT.of x = 0 → TRIM.RUN_CTL_VREF_SEL.of x < 5 →
      s.dev.operates TRIM.pg = true → s.dev.domOn 1 = true → s.dev.trim.run = none → s.dev.src = 1 → s.dev.refValid = true →
      Ran (.trimSyncdlyGo a x) s fun d =>
        ((d.trim.run.map fun r => r.cal)) = some 3 ∧
        d.sync.edges = [] ∧
        d.on TRIM.pg TRIM.RUN_STAT_ACTIVE = true ∧
        Dev.WordsBut (onPage TRIM.pg) s.dev d) ∧
    (s.dev.awake a = true → s.dev.mayWrite a.who TRIM.pg = true → TRIM.RUN_CTL_ABORT.of x = 0 → TRIM.RUN_CTL_VREF_SEL.of x < 5 →
      s.dev.trim.run = some r →
      Ran (.trimSyncdlyGo a x) s fun d =>
        Dev.ErrShown s.dev d TRIM.pg E.BUSY 0x040 a.who.code ∧
        d.trim = s.dev.trim) ∧
    (s.dev.awake a = true → s.dev.mayWrite a.who TRIM.pg = true → TRIM.RUN_CTL_ABORT.of x = 0 → TRIM.RUN_CTL_VREF_SEL.of x < 5 →
      s.dev.trim.run = none → (s.dev.tdlState (TRIM.RUN_CTL_PORT.of x) ≠ 2 ∨ s.dev.operates TRIM.pg = false ∨ s.dev.domOn 1 =
      false) →
      Ran (.trimSamplerGo a x) s fun d =>
        Dev.ErrShown s.dev d TRIM.pg E.STATE 0x040 a.who.code ∧
        d.trim = s.dev.trim) ∧
    (s.dev.awake a = true → s.dev.mayWrite a.who TRIM.pg = true → s.dev.trim.run = some r → r.port < 2 →
      Ran (.trimAbort a) s fun d =>
        d.trim.run = none ∧
        d.rd TRIM.pg TRIM.RUN_STAT_OUTCOME = 1 ∧
        d.rd TRIM.pg TRIM.RUN_STAT_CODE = E.ABORTED ∧
        d.on TRIM.pg TRIM.RUN_STAT_ACTIVE = false ∧
        d.pend TRIM.pg 0 = true ∧
        Dev.ErrShown s.dev d TRIM.pg E.ABORTED 0x040 a.who.code ∧
        Dev.WordsBut (onPage TRIM.pg) s.dev d) ∧
    (s.dev.awake a = true → s.dev.mayWrite a.who TRIM.pg = true → s.dev.trim.run = none →
      Ran (.trimAbort a) s fun d =>
        Dev.Only [] [] s.dev d) ∧
    (s.dev.halted = false → s.dev.operates TRIM.pg = true → s.dev.domOn 1 = true → s.dev.trim.run = none → bit (s.dev.rd TRIM.pg
      TRIM.DUE_DUE) 0 = true → mget (fun _ => 0) s.dev.trim.retry 0 ≤ s.dev.devtime → s.dev.tdlState 0 = 2 →
      Ran (.trimAutoStart 0) s fun d =>
        ((d.trim.run.map fun r => (r.cal, r.port, r.auto))) = some (0, 0, true) ∧
        d.on TRIM.pg TRIM.RUN_STAT_ACTIVE = true ∧
        Dev.WordsBut (onPage TRIM.pg) s.dev d) ∧
    ((s.dev.trim.run = some r ∨ bit (s.dev.rd TRIM.pg TRIM.DUE_DUE) i.val = false) →
      Ran (.trimAutoStart i) s fun d =>
        Dev.Only [] [] s.dev d) ∧
    (s.dev.trim.run = some r → r.cal = 3 → r.ready = false → r.port < 2 → s.dev.sync.edges.length < s.dev.rd TRIM.pg
      TRIM.SYNC_CFG_EDGES →
      Ran (.syncdlyEdgeTimeout) s fun d =>
        d.trim.run = none ∧
        d.rd TRIM.pg TRIM.RUN_STAT_OUTCOME = 3 ∧
        d.rd TRIM.pg TRIM.RUN_STAT_CODE = E.STATS ∧
        Dev.ErrShown s.dev d TRIM.pg E.STATS 0x040 15 ∧
        d.pend TRIM.pg 0 = true ∧
        Dev.WordsBut (onPage TRIM.pg) s.dev d) ∧
    (s.dev.trim.run = some r → r.cal = 0 → r.ready = false → r.port < 2 → s.dev.halted = false →
      Ran (.trimResultReady w true) s fun d =>
        d.trim.run = none ∧
        d.rd TRIM.pg TRIM.RUN_STAT_CODE = E.STATS ∧
        Dev.WordsBut (onPage TRIM.pg) s.dev d) ∧
    (s.dev.trim.run = some r → r.cal = 2 → r.ready = false → r.port < 2 → s.dev.regression r.port = none → s.dev.halted = false →
      Ran (.trimResultReady w false) s fun d =>
        d.trim.run = none ∧
        d.rd TRIM.pg TRIM.RUN_STAT_CODE = E.STATS ∧
        Dev.WordsBut (onPage TRIM.pg) s.dev d) ∧
    (s.dev.trim.run = some r → r.cal = 3 → r.ready = false → r.port < 2 → s.dev.sync.edges.length < s.dev.rd TRIM.pg
      TRIM.SYNC_CFG_EDGES →
      Ran (.trimResultReady w false) s fun d =>
        Dev.Only [] [] s.dev d) ∧
    (s.dev.trim.run = some r → r.cal = 3 → r.ready = false → r.port < 2 → s.dev.scan.run = false → 1 ≤ s.dev.rd TRIM.pg
      TRIM.SYNC_CFG_EDGES → s.dev.sync.edges = List.replicate (s.dev.rd TRIM.pg TRIM.SYNC_CFG_EDGES) z → s.dev.halted = false →
      Ran (.trimResultReady w false) s fun d =>
        d.trim.run = none ∧
        d.rd TRIM.pg TRIM.RUN_STAT_OUTCOME = 0 ∧
        d.on TRIM.pg TRIM.RUN_STAT_ACTIVE = false ∧
        d.rd SYNC.pg SYNC.IN_DLY_TAPS = (((s.dev.rd SYNC.pg SYNC.IN_DLY_TAPS : Int) + 32 - z) % 64).toNat ∧
        d.rd TRIM.pg TRIM.SYNC_Q_JITTER = 0 ∧
        d.pend TRIM.pg 0 = true) ∧
    (s.dev.trim.run = some r → r.cal = 2 → r.ready = false → r.port < 2 → s.dev.isDark r.port = true → s.dev.regression r.port =
      some (ra, rc, rv, rm) → rm ≠ 0 → (1 / 2 ≤ ra ∧ ra < 2 ∧ 0 ≤ rc ∧ rc ≤ 65535) → rv * 1000000 ≤ (s.dev.rd TRIM.pg
      TRIM.REGRESS_RES_MAX : Rat) * s.dev.rd TRIM.pg TRIM.REGRESS_RES_MAX * rm * rm → s.dev.halted = false →
      Ran (.trimResultReady w idle) s fun d =>
        d.trim.run = none ∧
        d.rd TRIM.pg TRIM.RUN_STAT_OUTCOME = 0 ∧
        d.rd TITHE.pg TITHE.MODEL_GAIN r.port = (rne (16384 * ra)).toNat % 2 ^ TITHE.MODEL_GAIN.w ∧
        d.rd TITHE.pg TITHE.MODEL_OFFSET r.port = (rne rc).toNat % 2 ^ TITHE.MODEL_OFFSET.w ∧
        d.rd TRIM.pg TRIM.CURM_Q_RES r.port = satU 16 (nearSqrt (rv * 100000000 / (rm * rm))) % 2 ^ TRIM.CURM_Q_RES.w ∧
        d.pend TRIM.pg 0 = true) ∧
    (s.dev.trim.run = some r → r.ready = false → r.port < 2 → (r.cal = 0 ∧ idle = false ∨ r.cal = 1 ∧ s.dev.isDark r.port = true ∧
      (s.dev.regression r.port).isSome = true ∨ r.cal = 2 ∧ (s.dev.regression r.port).isSome = true) → s.dev.halted = false →
      Ran (.trimResultReady w idle) s fun d =>
        ((d.trim.run = none ∧ (d.rd TRIM.pg TRIM.RUN_STAT_OUTCOME = 0 ∨ d.rd TRIM.pg TRIM.RUN_STAT_CODE = E.IMPLAUSIBLE) ∧ d.pend
          TRIM.pg 0 = true) ∨ (d.trim.run.any (fun q => q.ready && q.cal == r.cal && q.port == r.port)) = true) ∧
        d.nv.mem = s.dev.nv.mem) ∧
    (s.dev.trim.run = some r → (r.cal = 1 ∨ r.cal = 2) → r.ready = false → r.port < 2 → s.dev.regression r.port = none →
      s.dev.halted = false →
      Ran (.trimResultReady w idle) s fun d =>
        d.trim.run = none ∧
        d.rd TRIM.pg TRIM.RUN_STAT_OUTCOME = 3 ∧
        (d.rd TRIM.pg TRIM.RUN_STAT_CODE = E.STATS ∨ d.rd TRIM.pg TRIM.RUN_STAT_CODE = E.STATE))

/-- A taken GO of GRAN_WRITE, TWIN_WRITE or LOG_APPEND with source bytes starts the fetch; a LOG_APPEND of none programs its entry
at once; TWIN_READ and CTR_READ read; CTR_ADD and CTR_SET on a fresh ring programme slot 0 with SEQ 1 and the argument. STAT shows
the operation, the page is busy. With a command running the GO is dropped with E_BUSY, below the host area with E_PRIV. A
TWIN_WRITE of no bytes, CTR_ADD and CTR_SET on any ring either begin to program or end FAILED. (R365, R370, R371, R372, R375,
R376, R380, 20_nonvolatile) -/
def Obligations.GranaryCommandsTaken : Prop :=
  ∀ (s : State) (a : Acc) (x : Word) (c : NvCmd) (ga : Nat),
    (s.dev.awake a = true → s.dev.nvTakes a 0 x = true →
      Ran (.granaryWrite a x) s fun d =>
        (d.nv.cmd.any fun c => c.op == 0 && c.step == 1 && c.len == s.dev.rd GRANARY.pg GRANARY.LEN_BYTES) = true ∧
        d.word GRANARY.pg 0x060 = BitVec.ofNat 32 4 ∧
        d.on GRANARY.pg HDR.PG_STAT_BUSY = true ∧
        d.nv.mem = s.dev.nv.mem ∧
        Dev.WordsBut (fun k => onPage GRANARY.pg k || k == rkey HOSTIF.pg 0x008) s.dev d) ∧
    (s.dev.awake a = true → s.dev.nvTakes a 1 x = true → s.dev.rd GRANARY.pg GRANARY.LEN_BYTES ≠ 0 →
      Ran (.granaryTwinWrite a x) s fun d =>
        (d.nv.cmd.any fun c => c.op == 1 && c.step == 1) = true ∧
        d.word GRANARY.pg 0x060 = BitVec.ofNat 32 12 ∧
        d.on GRANARY.pg HDR.PG_STAT_BUSY = true ∧
        d.nv.mem = s.dev.nv.mem ∧
        Dev.WordsBut (fun k => onPage GRANARY.pg k || k == rkey HOSTIF.pg 0x008) s.dev d) ∧
    (s.dev.awake a = true → s.dev.nvTakes a 2 x = true →
      Ran (.granaryTwinRead a x) s fun d =>
        (d.nv.cmd.any fun c => c.op == 2) = true ∧
        d.word GRANARY.pg 0x060 = BitVec.ofNat 32 20 ∧
        d.on GRANARY.pg HDR.PG_STAT_BUSY = true ∧
        Dev.WordsBut (onPage GRANARY.pg) s.dev d) ∧
    (s.dev.awake a = true → s.dev.nvTakes a 3 x = true → s.dev.halted = false →
      Ran (.granaryCtrAdd a x) s fun d =>
        (d.ctrFresh (s.dev.rd GRANARY.pg GRANARY.DST_GA) = true → d.nv.cmd.any (fun c => c.op == 3 && c.step == 2) = true ∧
          (d.nv.writers.any fun w => w.who == 0 && w.pages == ctrSlot (s.dev.rd GRANARY.pg GRANARY.DST_GA) 0 1 (s.dev.rd
          GRANARY.pg GRANARY.ARG_LO_ARG + 2 ^ 32 * s.dev.rd GRANARY.pg GRANARY.ARG_HI_ARG)) = true) ∧
        (ga < s.dev.rd GRANARY.pg GRANARY.DST_GA ∨ s.dev.rd GRANARY.pg GRANARY.DST_GA + 1024 ≤ ga → d.nvByte ga = s.dev.nvByte ga) ∧
        Dev.WordsBut (fun k => onPage GRANARY.pg k || logKey k) s.dev d) ∧
    (s.dev.awake a = true → s.dev.nvTakes a 4 x = true → s.dev.halted = false →
      Ran (.granaryCtrSet a x) s fun d =>
        (d.ctrFresh (s.dev.rd GRANARY.pg GRANARY.DST_GA) = true → d.nv.cmd.any (fun c => c.op == 4 && c.step == 2) = true ∧
          (d.nv.writers.any fun w => w.who == 0 && w.pages == ctrSlot (s.dev.rd GRANARY.pg GRANARY.DST_GA) 0 1 (s.dev.rd
          GRANARY.pg GRANARY.ARG_LO_ARG + 2 ^ 32 * s.dev.rd GRANARY.pg GRANARY.ARG_HI_ARG)) = true) ∧
        (ga < s.dev.rd GRANARY.pg GRANARY.DST_GA ∨ s.dev.rd GRANARY.pg GRANARY.DST_GA + 1024 ≤ ga → d.nvByte ga = s.dev.nvByte ga) ∧
        Dev.WordsBut (fun k => onPage GRANARY.pg k || logKey k) s.dev d) ∧
    (s.dev.awake a = true → s.dev.nvTakes a 5 x = true →
      Ran (.granaryCtrRead a x) s fun d =>
        (d.nv.cmd.any fun c => c.op == 5) = true ∧
        d.word GRANARY.pg 0x060 = BitVec.ofNat 32 44 ∧
        d.on GRANARY.pg HDR.PG_STAT_BUSY = true ∧
        Dev.WordsBut (onPage GRANARY.pg) s.dev d) ∧
    (s.dev.awake a = true → s.dev.nvTakes a 6 x = true → s.dev.rd GRANARY.pg GRANARY.LEN_BYTES ≠ 0 →
      Ran (.granaryLogAppend a x) s fun d =>
        (d.nv.cmd.any fun c => c.op == 6 && c.step == 1) = true ∧
        d.word GRANARY.pg 0x060 = BitVec.ofNat 32 52 ∧
        d.on GRANARY.pg HDR.PG_STAT_BUSY = true ∧
        d.nv.mem = s.dev.nv.mem ∧
        Dev.WordsBut (fun k => onPage GRANARY.pg k || k == rkey HOSTIF.pg 0x008) s.dev d) ∧
    (s.dev.awake a = true → s.dev.nvTakes a 6 x = true → s.dev.rd GRANARY.pg GRANARY.LEN_BYTES = 0 → s.dev.halted = false →
      Ran (.granaryLogAppend a x) s fun d =>
        (d.nv.cmd.any fun c => c.op == 6 && c.step == 2) = true ∧
        d.writing 0 = true ∧
        d.rd GRANARY.pg HDR.PG_STAT_STATE = 2 ∧
        (ga < s.dev.rd GRANARY.pg GRANARY.DST_GA ∨ s.dev.rd GRANARY.pg GRANARY.DST_GA + 256 * s.dev.rd GRANARY.pg
          GRANARY.GEOM_PAGES ≤ ga → d.nvByte ga = s.dev.nvByte ga)) ∧
    (s.dev.awake a = true → s.dev.mayWrite a.who GRANARY.pg = true → GRANARY.CMD_ABORT.of x = 0 → s.dev.nv.cmd = some c →
      Ran (.granaryCtrRead a x) s fun d =>
        Dev.ErrShown s.dev d GRANARY.pg E.BUSY 0x040 a.who.code ∧
        d.nv = s.dev.nv) ∧
    (s.dev.awake a = true → s.dev.mayWrite a.who GRANARY.pg = true → GRANARY.CMD_ABORT.of x = 0 → s.dev.nv.cmd = none →
      GRANARY.CMD_FUNC.of x ≠ 3 → (s.dev.rd GRANARY.pg GRANARY.DST_GA % 1024 = 0 ∧ s.dev.rd GRANARY.pg GRANARY.DST_GA < hostArea)
      →
      Ran (.granaryCtrSet a x) s fun d =>
        Dev.ErrShown s.dev d GRANARY.pg E.PRIV 0x040 a.who.code ∧
        d.nv = s.dev.nv) ∧
    (s.dev.awake a = true → s.dev.nvTakes a 1 x = true → s.dev.rd GRANARY.pg GRANARY.LEN_BYTES = 0 → s.dev.halted = false →
      Ran (.granaryTwinWrite a x) s fun d =>
        ((d.nv.cmd.any (fun c => c.op == 1 && c.step == 2) = true ∧ d.writing 0 = true) ∨ (d.nv.cmd = none ∧ d.rd GRANARY.pg
          GRANARY.STAT_OUTCOME = 3 ∧ d.rd GRANARY.pg GRANARY.STAT_CODE = E.RANGE)) ∧
        (ga < s.dev.rd GRANARY.pg GRANARY.DST_GA ∨ s.dev.rd GRANARY.pg GRANARY.DST_GA + 512 * s.dev.rd GRANARY.pg
          GRANARY.GEOM_PAGES ≤ ga → d.nvByte ga = s.dev.nvByte ga)) ∧
    (s.dev.awake a = true → s.dev.nvTakes a 3 x = true → s.dev.halted = false →
      Ran (.granaryCtrAdd a x) s fun d =>
        (d.nv.cmd.any (fun c => c.op == 3 && c.step == 2) = true ∧ d.writing 0 = true) ∨ (d.nv.cmd = none ∧ d.rd GRANARY.pg
          GRANARY.STAT_OUTCOME = 3 ∧ (d.rd GRANARY.pg GRANARY.STAT_CODE = E.RANGE ∨ d.rd GRANARY.pg GRANARY.STAT_CODE =
          E.NV_TORN))) ∧
    (s.dev.awake a = true → s.dev.nvTakes a 4 x = true → s.dev.halted = false →
      Ran (.granaryCtrSet a x) s fun d =>
        (d.nv.cmd.any (fun c => c.op == 4 && c.step == 2) = true ∧ d.writing 0 = true) ∨ (d.nv.cmd = none ∧ d.rd GRANARY.pg
          GRANARY.STAT_OUTCOME = 3 ∧ d.rd GRANARY.pg GRANARY.STAT_CODE = E.RANGE))

/-- The last source byte takes the command past its commit point into programming. A page program of one byte changes that byte of
the Granary and no other, and the last one ends the command COMPLETED, with PAGES_DONE and its event. A read of a fresh ring
answers 0, of a record with one valid copy that copy's SEQ, of a torn one fails. An abort before the commit point ends the command
ABORTED with nothing programmed; after it reads late. Whatever the program is for, only its page changes, and the last page of
FW_CONFIRM, FW_SWITCH, OWNER_ENROLL or OWNER_REPLACE acts as the mailbox command says. Every TWIN_READ and CTR_READ ends,
COMPLETED or FAILED; a ring with one newest slot answers it. (R60, R366, R368, R369, R371, R372, R374, R375, R412, R413,
20_nonvolatile) -/
def Obligations.GranaryCommandsEnd : Prop :=
  ∀ (s : State) (a : Acc) (c : NvCmd) (pg o ga : Nat) (b : Byte) (ecc : Ecc) (w : NvWriter) (ws : List NvWriter) (bs : List (Nat ×
    Byte)) (m : MbCmd) (n : Nat),
    (s.dev.nv.cmd = some c → (c.step = 1 ∧ c.op = 0 ∧ c.len ≠ 0) → s.dev.fetched .granary = true → s.dev.halted = false →
      Ran (.granaryFetchDone) s fun d =>
        d.nv.cmd = some { c with step := 2, bytes := [] } ∧
        d.writing 0 = true ∧
        d.rd GRANARY.pg HDR.PG_STAT_STATE = 2 ∧
        d.nv.mem = s.dev.nv.mem) ∧
    (s.dev.nv.cmd = none →
      Ran (.granaryFetchDone) s fun d =>
        Dev.Only [] [] s.dev d) ∧
    (s.dev.nv.writers = [⟨0, c.op, [(pg, [(o, b)])]⟩] → s.dev.nv.cmd = some c → o < 256 → s.dev.nv.bad = [] → s.dev.nv.held = [] →
      Ran (.pageProgramDone ⟨[], []⟩) s fun d =>
        d.nvByte ga = (if ga = 256 * pg + o then b else s.dev.nvByte ga) ∧
        d.nv.cmd = none ∧
        d.nv.writers = [] ∧
        d.rd GRANARY.pg GRANARY.STAT_OUTCOME = (if c.late then 2 else 0) ∧
        d.on GRANARY.pg GRANARY.STAT_ACTIVE = false ∧
        d.pend GRANARY.pg 0 = true ∧
        d.on GRANARY.pg HDR.PG_STAT_BUSY = false ∧
        d.rd GRANARY.pg GRANARY.STAT_PAGES_DONE = (s.dev.rd GRANARY.pg GRANARY.STAT_PAGES_DONE + 1) % 2 ^
          GRANARY.STAT_PAGES_DONE.w ∧
        Dev.WordsBut (onPage GRANARY.pg) s.dev d) ∧
    (s.dev.nv.cmd = some c → c.op = 5 → s.dev.ctrFresh c.dst = true → s.dev.nv.bad = [] →
      Ran (.granaryReadDone ⟨[], []⟩) s fun d =>
        d.nv.cmd = none ∧
        d.rd GRANARY.pg GRANARY.REC_SEQ_SEQ = 0 ∧
        (d.rd GRANARY.pg GRANARY.VAL_LO_VALUE = 0 ∧ d.rd GRANARY.pg GRANARY.VAL_HI_VALUE = 0) ∧
        d.rd GRANARY.pg GRANARY.STAT_OUTCOME = 0 ∧
        d.pend GRANARY.pg 0 = true ∧
        d.nv.mem = s.dev.nv.mem ∧
        Dev.WordsBut (onPage GRANARY.pg) s.dev d) ∧
    (s.dev.nv.cmd = some c → c.op = 2 → s.dev.twinValid c.pages (twinCopy c.dst c.pages 0) = true → s.dev.twinValid c.pages
      (twinCopy c.dst c.pages 1) = false → s.dev.nv.bad = [] →
      Ran (.granaryReadDone ⟨[], []⟩) s fun d =>
        d.nv.cmd = none ∧
        d.rd GRANARY.pg GRANARY.REC_SEQ_SEQ = s.dev.twinSeq (twinCopy c.dst c.pages 0) ∧
        (d.word GRANARY.pg 0x064).toNat % 16 = 2 ∧
        d.rd GRANARY.pg GRANARY.STAT_OUTCOME = 0 ∧
        d.pend GRANARY.pg 0 = true ∧
        d.nv.mem = s.dev.nv.mem ∧
        Dev.WordsBut (onPage GRANARY.pg) s.dev d) ∧
    (s.dev.nv.cmd = some c → c.op = 2 → s.dev.twinValid c.pages (twinCopy c.dst c.pages 0) = false → s.dev.twinValid c.pages
      (twinCopy c.dst c.pages 1) = false → s.dev.nv.bad = [] →
      Ran (.granaryReadDone ⟨[], []⟩) s fun d =>
        d.nv.cmd = none ∧
        Dev.ErrShown s.dev d GRANARY.pg E.NV_TORN 0x040 15 ∧
        d.rd GRANARY.pg GRANARY.STAT_OUTCOME = 3 ∧
        d.rd GRANARY.pg GRANARY.STAT_CODE = E.NV_TORN ∧
        (d.pend GRANARY.pg 0 = true ∧ d.pend GRANARY.pg 2 = true) ∧
        d.nv.mem = s.dev.nv.mem) ∧
    (s.dev.awake a = true → s.dev.mayWrite a.who GRANARY.pg = true → s.dev.nv.cmd = some c → c.step = 1 →
      Ran (.granaryAbort a) s fun d =>
        d.nv.cmd = none ∧
        d.rd GRANARY.pg GRANARY.STAT_OUTCOME = 1 ∧
        d.rd GRANARY.pg GRANARY.STAT_CODE = E.ABORTED ∧
        Dev.ErrShown s.dev d GRANARY.pg E.ABORTED 0x040 a.who.code ∧
        d.pend GRANARY.pg 0 = true ∧
        d.nv.mem = s.dev.nv.mem ∧
        d.nv.writers = s.dev.nv.writers ∧
        Dev.WordsBut (onPage GRANARY.pg) s.dev d) ∧
    (s.dev.awake a = true → s.dev.mayWrite a.who GRANARY.pg = true → s.dev.nv.cmd = some c → c.step ≠ 1 →
      Ran (.granaryAbort a) s fun d =>
        d.nv = { s.dev.nv with cmd := some { c with late := true } } ∧
        Dev.ErrShown s.dev d GRANARY.pg E.ABORT_LATE 0x040 a.who.code) ∧
    (s.dev.nv.cmd = some c → (c.step = 1 ∧ c.len ≠ 0 ∧ (c.op = 0 ∨ c.op = 1 ∨ c.op = 6)) → s.dev.fetched .granary = true →
      s.dev.halted = false →
      Ran (.granaryFetchDone) s fun d =>
        ((d.nv.cmd = some { c with step := 2, bytes := [] } ∧ d.writing 0 = true) ∨ (d.nv.cmd = none ∧ c.op = 1 ∧ d.rd GRANARY.pg
          GRANARY.STAT_CODE = E.RANGE)) ∧
        (ga < c.dst ∨ c.dst + 512 * c.pages ≤ ga → d.nvByte ga = s.dev.nvByte ga)) ∧
    (s.dev.nv.writers = w :: ws → w.pages.head? = some (pg, bs) → bs.all (fun e => decide (e.1 < 256)) = true → ga / 256 ≠ pg →
      s.dev.nv.held = [] → (w.who ≠ 2 ∧ w.who ≠ 9) →
      Ran (.pageProgramDone ecc) s fun d =>
        d.nvByte ga = s.dev.nvByte ga ∧
        (w.who = 0 → s.dev.nv.cmd.isSome = true → d.rd GRANARY.pg GRANARY.STAT_PAGES_DONE = (s.dev.rd GRANARY.pg
          GRANARY.STAT_PAGES_DONE + 1) % 2 ^ GRANARY.STAT_PAGES_DONE.w)) ∧
    (s.dev.nv.writers = [] →
      Ran (.pageProgramDone ecc) s fun d =>
        Dev.Only [] [] s.dev d) ∧
    (s.dev.nv.writers = [⟨2, 7, [(pg, bs)]⟩] → s.dev.mgmt.cmd = some m → m.op = Mb.FW_CONFIRM →
      Ran (.pageProgramDone ecc) s fun d =>
        d.rd MGMT.pg MGMT.ROLLBACK_COUNT = m.arg0 % 2 ^ MGMT.ROLLBACK_COUNT.w ∧
        d.on MGMT.pg MGMT.FW_STAT_TRIAL = false ∧
        d.mgmt.cmd = none ∧
        d.rd MGMT.pg MGMT.MB_STAT_OUTCOME = (if m.late then 2 else 0) ∧
        d.pend MGMT.pg 0 = true) ∧
    (s.dev.nv.writers = [⟨2, 7, [(pg, bs)]⟩] → s.dev.mgmt.cmd = some m → m.op = Mb.FW_SWITCH →
      Ran (.pageProgramDone ecc) s fun d =>
        d.rd MGMT.pg MGMT.FW_STAT_ACTIVE = m.arg0 % 2 ^ MGMT.FW_STAT_ACTIVE.w ∧
        d.on MGMT.pg MGMT.FW_STAT_TRIAL = true ∧
        d.mgmt.cmd = some { m with step := 3 } ∧
        d.mgmt.switching = true ∧
        d.rd MGMT.pg HDR.PG_STAT_STATE = 3) ∧
    (s.dev.nv.writers = [⟨2, 7, [(pg, bs)]⟩] → s.dev.mgmt.cmd = some m → (m.op = Mb.OWNER_ENROLL ∨ m.op = Mb.OWNER_REPLACE) →
      Ran (.pageProgramDone ecc) s fun d =>
        d.on MGMT.pg MGMT.FW_STAT_OWNER = true ∧
        d.mgmt.cmd = none ∧
        d.rd MGMT.pg MGMT.MB_STAT_OUTCOME = (if m.late then 2 else 0) ∧
        d.pend MGMT.pg 0 = true) ∧
    (s.dev.nv.cmd = some c → (c.op = 2 ∨ c.op = 5) →
      Ran (.granaryReadDone ecc) s fun d =>
        d.nv.cmd = none ∧
        (d.rd GRANARY.pg GRANARY.STAT_OUTCOME = 0 ∨ d.rd GRANARY.pg GRANARY.STAT_OUTCOME = 3) ∧
        d.on GRANARY.pg GRANARY.STAT_ACTIVE = false ∧
        d.pend GRANARY.pg 0 = true ∧
        (ga < c.dst ∨ c.dst + 1024 + 512 * c.pages ≤ ga → d.nvByte ga = s.dev.nvByte ga)) ∧
    (s.dev.nv.cmd = some c → c.op = 5 → s.dev.ctrNewest c.dst = [n] → s.dev.nv.bad = [] →
      Ran (.granaryReadDone ⟨[], []⟩) s fun d =>
        d.rd GRANARY.pg GRANARY.REC_SEQ_SEQ = s.dev.nvNat (c.dst + 16 * n) 4 ∧
        d.rd GRANARY.pg GRANARY.VAL_LO_VALUE + 2 ^ 32 * d.rd GRANARY.pg GRANARY.VAL_HI_VALUE = s.dev.nvNat (c.dst + 16 * n + 4) 8 ∧
        d.rd GRANARY.pg GRANARY.STAT_OUTCOME = 0)

/-- A taken GO of FW_WRITE, FW_VERIFY, FW_SWITCH, OWNER_ENROLL, OWNER_REPLACE, IDENTITY or ATTEST runs the command; FW_CONFIRM
begins to program the rollback counter and the boot record. With a command running a GO is dropped with E_BUSY; by another
function than PF0, a command of PF0's is dropped with E_PRIV. An abort of a command that has written nothing ends it ABORTED.
(R60, R409, R410, R411, R412, R413, 23_firmware_security) -/
def Obligations.MailboxCommandsTaken : Prop :=
  ∀ (s : State) (a : Acc) (x : Word) (c : MbCmd),
    (s.dev.awake a = true → s.dev.mbTakes a Mb.FW_WRITE x = true →
      Ran (.fwWrite a x) s fun d =>
        d.mbRuns Mb.FW_WRITE = true ∧
        d.nv.mem = s.dev.nv.mem ∧
        Dev.WordsBut (fun k => onPage MGMT.pg k || k == rkey HOSTIF.pg 0x008) s.dev d) ∧
    (s.dev.awake a = true → s.dev.mbTakes a Mb.FW_VERIFY x = true →
      Ran (.fwVerify a x) s fun d =>
        d.mbRuns Mb.FW_VERIFY = true ∧
        d.nv.mem = s.dev.nv.mem ∧
        Dev.WordsBut (onPage MGMT.pg) s.dev d) ∧
    (s.dev.awake a = true → s.dev.mbTakes a Mb.FW_SWITCH x = true →
      Ran (.fwSwitch a x) s fun d =>
        d.mbRuns Mb.FW_SWITCH = true ∧
        d.nv.mem = s.dev.nv.mem ∧
        Dev.WordsBut (onPage MGMT.pg) s.dev d) ∧
    (s.dev.awake a = true → s.dev.mbTakes a Mb.FW_CONFIRM x = true → s.dev.ctrFresh rollbackGa = true → s.dev.twinValid 1
      (twinCopy bootRecGa 1 0) = false → s.dev.twinValid 1 (twinCopy bootRecGa 1 1) = false → s.dev.halted = false →
      Ran (.fwConfirm a x) s fun d =>
        d.mbRuns Mb.FW_CONFIRM = true ∧
        d.writing 2 = true ∧
        d.nvBytes hostArea (2 ^ 25 - hostArea) = s.dev.nvBytes hostArea (2 ^ 25 - hostArea) ∧
        Dev.WordsBut (fun k => onPage MGMT.pg k || onPage GRANARY.pg k || logKey k) s.dev d) ∧
    (s.dev.awake a = true → s.dev.mbTakes a Mb.OWNER_ENROLL x = true →
      Ran (.ownerEnroll a x) s fun d =>
        d.mbRuns Mb.OWNER_ENROLL = true ∧
        d.nv.mem = s.dev.nv.mem ∧
        Dev.WordsBut (fun k => onPage MGMT.pg k || k == rkey HOSTIF.pg 0x008) s.dev d) ∧
    (s.dev.awake a = true → s.dev.mbTakes a Mb.OWNER_REPLACE x = true →
      Ran (.ownerReplace a x) s fun d =>
        d.mbRuns Mb.OWNER_REPLACE = true ∧
        d.nv.mem = s.dev.nv.mem ∧
        Dev.WordsBut (fun k => onPage MGMT.pg k || k == rkey HOSTIF.pg 0x008) s.dev d) ∧
    (s.dev.awake a = true → s.dev.mbTakes a Mb.IDENTITY x = true →
      Ran (.identity a x) s fun d =>
        d.mbRuns Mb.IDENTITY = true ∧
        d.mgmt.sent = s.dev.mgmt.sent ∧
        Dev.WordsBut (onPage MGMT.pg) s.dev d) ∧
    (s.dev.awake a = true → s.dev.mbTakes a Mb.ATTEST x = true →
      Ran (.attest a x) s fun d =>
        d.mbRuns Mb.ATTEST = true ∧
        d.mgmt.sent = s.dev.mgmt.sent ∧
        Dev.WordsBut (fun k => onPage MGMT.pg k || k == rkey HOSTIF.pg 0x008) s.dev d) ∧
    (s.dev.awake a = true → s.dev.mayWrite a.who MGMT.pg = true → MGMT.MB_CMD_ABORT.of x = 0 → s.dev.mgmt.cmd = some c →
      Ran (.attest a x) s fun d =>
        Dev.ErrShown s.dev d MGMT.pg E.BUSY 0x040 a.who.code ∧
        d.mgmt = s.dev.mgmt) ∧
    (s.dev.awake a = true → s.dev.mayWrite a.who MGMT.pg = true → MGMT.MB_CMD_ABORT.of x = 0 → s.dev.mgmt.cmd = none →
      MGMT.MB_CMD_FUNC.of x ≠ 3 → a.who ≠ .pf0 → s.dev.rd MGMT.pg MGMT.MB_ARG 0 < 2 →
      Ran (.fwSwitch a x) s fun d =>
        Dev.ErrShown s.dev d MGMT.pg E.PRIV 0x040 a.who.code ∧
        d.mgmt = s.dev.mgmt) ∧
    (s.dev.awake a = true → s.dev.mayWrite a.who MGMT.pg = true → s.dev.mgmt.cmd = some c → c.step = 1 → s.dev.writing 2 = false →
      Ran (.mbAbort a) s fun d =>
        d.mgmt.cmd = none ∧
        d.rd MGMT.pg MGMT.MB_STAT_OUTCOME = 1 ∧
        d.rd MGMT.pg MGMT.MB_STAT_CODE = E.ABORTED ∧
        Dev.ErrShown s.dev d MGMT.pg E.ABORTED 0x040 a.who.code ∧
        d.on MGMT.pg HDR.PG_STAT_BUSY = false ∧
        d.pend MGMT.pg 0 = true ∧
        d.nv.mem = s.dev.nv.mem) ∧
    (s.dev.awake a = true → s.dev.mayWrite a.who MGMT.pg = true → s.dev.mgmt.cmd = some c → (c.step = 2 ∧ c.op = Mb.FW_WRITE) →
      Ran (.mbAbort a) s fun d =>
        d.mgmt = { s.dev.mgmt with cmd := some { c with late := true } } ∧
        Dev.ErrShown s.dev d MGMT.pg E.ABORT_LATE 0x040 a.who.code) ∧
    (s.dev.awake a = true → s.dev.mbTakes a Mb.FW_CONFIRM x = true → s.dev.halted = false →
      Ran (.fwConfirm a x) s fun d =>
        (d.mbRuns Mb.FW_CONFIRM = true ∧ d.writing 2 = true) ∨ (d.mgmt.cmd = none ∧ d.rd MGMT.pg MGMT.MB_STAT_OUTCOME = 3 ∧ d.rd
          MGMT.pg MGMT.MB_STAT_CODE = E.RANGE))

/-- FW_VERIFY ends with MB_RSP telling whether the slot is valid and which step failed; IDENTITY writes serial, key and
certificate to host memory; each ends COMPLETED with the event. The end of a restart runs the switched slot, or Filpor again. A
watchdog expiry with no mailbox command counts, raises its event and restarts Filpor, or leaves the boot stage where no slot is
valid. FW_SWITCH, checked, begins to program the boot record or ends FAILED; ATTEST writes the report with its signature to host
memory. A watchdog expiry counts and raises its event whatever runs, and ends a mailbox command that writes nothing FAILED with
E_TIMEOUT. (R400, R408, R411, R412, R413, R414, 22_faults_recovery, 23_firmware_security) -/
def Obligations.FilporRestarts : Prop :=
  ∀ (s : State) (c : MbCmd) (ecc : Ecc),
    (s.dev.mgmt.cmd = some c → (c.op = Mb.FW_VERIFY ∧ c.step = 1 ∧ c.arg0 < 2) →
      Ran (.mboxCmdDone ecc) s fun d =>
        d.mgmt.cmd = none ∧
        d.rd MGMT.pg MGMT.MB_RSP 1 = d.slotStep c.arg0 ∧
        d.rd MGMT.pg MGMT.MB_RSP 0 = b2n (d.slotStep c.arg0 == 0) ∧
        d.rd MGMT.pg MGMT.MB_STAT_OUTCOME = (if c.late then 2 else 0) ∧
        d.pend MGMT.pg 0 = true) ∧
    (s.dev.mgmt.cmd = some c → (c.op = Mb.IDENTITY ∧ c.step = 1) → s.dev.master c.fn = true →
      Ran (.mboxCmdDone ecc) s fun d =>
        d.mgmt.cmd = none ∧
        d.mgmt.sent = putCells s.dev.mgmt.sent c.dst (d.nvBytes Config.serialGa 16 ++ d.nvBytes Config.identityKeyGa 2592 ++
          d.nvBytes Config.certificateGa 4659) ∧
        d.rd MGMT.pg MGMT.MB_STAT_OUTCOME = (if c.late then 2 else 0) ∧
        d.pend MGMT.pg 0 = true) ∧
    (s.dev.rd MGMT.pg HDR.PG_STAT_STATE ≠ 3 →
      Ran (.fwRestartDone) s fun d =>
        Dev.Only [] [] s.dev d) ∧
    (s.dev.rd MGMT.pg HDR.PG_STAT_STATE = 3 → s.dev.mgmt.switching = false →
      Ran (.fwRestartDone) s fun d =>
        d.rd MGMT.pg HDR.PG_STAT_STATE = 0 ∧
        d.mgmt = s.dev.mgmt ∧
        d.nv.mem = s.dev.nv.mem ∧
        Dev.WordsBut (fun k => onPage MGMT.pg k || onPage FAULT.pg k) s.dev d) ∧
    (s.dev.rd MGMT.pg HDR.PG_STAT_STATE = 3 → s.dev.mgmt.switching = true → s.dev.mgmt.cmd = some c → c.arg0 < 2 →
      Ran (.fwRestartDone) s fun d =>
        d.rd MGMT.pg HDR.PG_STAT_STATE = 0 ∧
        d.rd MGMT.pg MGMT.FW_STAT_RUNNING = c.arg0 ∧
        d.mgmt.switching = false ∧
        d.mgmt.cmd = none ∧
        (d.pend MGMT.pg 1 = true ∧ d.pend MGMT.pg 0 = true) ∧
        d.rd MGMT.pg MGMT.MB_STAT_OUTCOME = (if c.late then 2 else 0)) ∧
    (s.dev.mgmt.cmd = none → s.dev.mgmt.switching = false → s.dev.frozen FAULT.pg = false →
      Ran (.watchdogExpire) s fun d =>
        d.rd FAULT.pg FAULT.WDOG_RESTARTS = satU FAULT.WDOG_RESTARTS.w (s.dev.rd FAULT.pg FAULT.WDOG_RESTARTS + 1) ∧
        d.pend MGMT.pg 2 = true ∧
        d.mgmt.restartAt = s.dev.devtime ∧
        (d.rd MGMT.pg HDR.PG_STAT_STATE = 3 ∨ d.bootOnly = true)) ∧
    (s.dev.mgmt.cmd = some c → (c.op = Mb.FW_SWITCH ∧ c.step = 1) → s.dev.writing 2 = false → s.dev.halted = false →
      Ran (.mboxCmdDone ecc) s fun d =>
        (d.mgmt.cmd = some { c with step := 2 } ∧ d.writing 2 = true) ∨ (d.mgmt.cmd = none ∧ d.rd MGMT.pg MGMT.MB_STAT_OUTCOME =
          3)) ∧
    (s.dev.mgmt.cmd = some c → (c.op = Mb.ATTEST ∧ c.step = 1) → s.dev.fetched .mailbox = true → s.dev.master c.fn = true →
      Ran (.mboxCmdDone ecc) s fun d =>
        d.mgmt.cmd = none ∧
        d.mgmt.sent = putCells s.dev.mgmt.sent c.dst (d.report c.data ++ Config.mlDsaSign (sha3_512 (d.report c.data))) ∧
        d.rd MGMT.pg MGMT.MB_STAT_OUTCOME = (if c.late then 2 else 0) ∧
        (d.pend MGMT.pg 0 = true ∧ d.pend MGMT.pg 4 = true)) ∧
    (s.dev.frozen FAULT.pg = false →
      Ran (.watchdogExpire) s fun d =>
        d.rd FAULT.pg FAULT.WDOG_RESTARTS = satU FAULT.WDOG_RESTARTS.w (s.dev.rd FAULT.pg FAULT.WDOG_RESTARTS + 1) ∧
        d.pend MGMT.pg 2 = true ∧
        d.bank.mem = s.dev.bank.mem) ∧
    (s.dev.mgmt.cmd = some c → c.step = 1 → s.dev.writing 2 = false →
      Ran (.watchdogExpire) s fun d =>
        d.mgmt.cmd = none ∧
        d.rd MGMT.pg MGMT.MB_STAT_OUTCOME = 3 ∧
        d.rd MGMT.pg MGMT.MB_STAT_CODE = E.TIMEOUT)

/-- In PARTIAL mode a repair posts its rectangle; after a later compose of the slot none runs and a pass is asked for. A
recomposed tile whose CRC agrees is copied while no raster runs, and its end counts REPAIR.DONE. A mould that fails its residue or
stalls during a compose goes out of service with its record; MOULD_RETURN tests those named, a passed test returns the mould at
once while no raster runs, a failed one is recorded. FAULT_RD and VIOL_RD take a value no more than the ring's depth behind the
write index, else the write is dropped with E_RANGE. While Filpor runs and appends nothing, the oldest final record still in the
ring begins to be appended and leaves the list; one that newer records have driven out leaves it only (log entry 21); without
records nothing happens. A lifetime update on fresh rings programs both counters with the whole units gathered and gathers the
rest on; a boot stage or an update under way lets the time gather. A mould leaves service in every state in which it is in it. Of
the Granary, a page program puts its byte down, the last source byte ends the fetch, a read ends its command and so does an abort
before the commit point. In FULL mode a repair without a later compose recomposes the tile. (R135, R203, R368, R371, R380, R397,
R398, R399, R402, R403, 22_faults_recovery) -/
def Obligations.RecoveryAndLogs : Prop :=
  ∀ (s : State) (a : Acc) (x : Word) (u : Repair) (k : Fin 12) (line : Nat) (p : Pass) (n ga : Nat) (l : List Nat) (c : NvCmd)
    (ecc : Ecc) (pg : Nat) (o : Nat) (b : Byte),
    ((s.dev.repair.tiles.find? fun t => t.phase == 0) = some u → s.dev.mode.part = true →
      Ran (.tileRepairStart) s fun d =>
        d.repair.tiles = s.dev.repair.tiles.map (fun y => if y = u then { u with phase := 1 } else y) ∧
        d.rects = s.dev.rects ++ [Rect.make 0xFFFF u.img (256 * u.col) (256 * u.row) (u.width s.dev.mode) (u.height s.dev.mode)
          true false] ∧
        d.bank.mem = s.dev.bank.mem) ∧
    ((s.dev.repair.tiles.find? fun t => t.phase == 0) = some u → s.dev.mode.part = false → mget (fun _ => false)
      s.dev.couch.composedSince (s.dev.mode.slotOfImg u.img) = true →
      Ran (.tileRepairStart) s fun d =>
        d.repair.tiles = s.dev.repair.tiles.map (fun y => if y = u then { u with phase := 3 } else y) ∧
        d.couch = { s.dev.couch with passReq := true } ∧
        d.repair.counted = true ∧
        d.bank.mem = s.dev.bank.mem) ∧
    ((s.dev.repair.tiles.any fun t => t.phase == 0) = false →
      Ran (.tileRepairStart) s fun d =>
        Dev.Only [] [] s.dev d) ∧
    ((s.dev.repair.tiles.find? fun t => t.phase == 1 && t.rows != []) = some u → s.dev.auxNat (statsBase u.img + 0x1000 + 4 *
      (u.row * ceilDiv s.dev.mode.w 256 + u.col)) 4 = tileCrc (u.rows.flatMap id) → s.dev.copying = none → s.dev.scan.run = false
      →
      Ran (.tileRepairCommit) s fun d =>
        d.repair.tiles = s.dev.repair.tiles.map (fun y => if y = u then
          { u with phase := 2, behind := false, frame := s.dev.frameNo + 1 } else y) ∧
        d.flt = s.dev.flt ∧
        d.couch = s.dev.couch ∧
        Dev.WordsBut (fun _ => false) s.dev d) ∧
    ((s.dev.repair.tiles.find? fun t => t.phase == 2) = some u → s.dev.frozen FAULT.pg = false →
      Ran (.tileRepairDone) s fun d =>
        d.repair.tiles = s.dev.repair.tiles.filter (fun y => y != u) ∧
        d.rd FAULT.pg FAULT.REPAIR_DONE = satU FAULT.REPAIR_DONE.w (s.dev.rd FAULT.pg FAULT.REPAIR_DONE + 1) ∧
        Dev.WordsBut (onPage FAULT.pg) s.dev d) ∧
    (bit s.dev.oos k.val = false → s.dev.couch.pass = none → s.dev.scan.run = true →
      Ran (.mouldResidueFail k line) s fun d =>
        d.oos = (s.dev.oos ||| 2 ^ k.val) ∧
        Dev.FaultNewest d 0x0E 15 k.val ∧
        Dev.LogOnly [REEVE.OUT_OF_SERVICE_MOULDS.key REEVE.pg 0 0] s.dev d) ∧
    (bit s.dev.oos k.val = true →
      Ran (.mouldResidueFail k line) s fun d =>
        Dev.Only [] [] s.dev d) ∧
    (bit s.dev.oos k.val = false → s.dev.couch.pass = some p → s.dev.scan.run = true → s.dev.layerOfMould p.vals k.val = none →
      Ran (.mouldStall k line) s fun d =>
        d.oos = (s.dev.oos ||| 2 ^ k.val) ∧
        Dev.FaultNewest d 0x0E 15 k.val ∧
        Dev.LogOnly [REEVE.OUT_OF_SERVICE_MOULDS.key REEVE.pg 0 0] s.dev d) ∧
    (s.dev.couch.pass = none →
      Ran (.mouldStall k line) s fun d =>
        Dev.Only [] [] s.dev d) ∧
    (s.dev.awake a = true → s.dev.mayWrite a.who FAULT.pg = true →
      Ran (.mouldReturn a x) s fun d =>
        d.repair = { s.dev.repair with testing := s.dev.repair.testing ||| (FAULT.MOULD_RETURN_RETURN.of x &&& s.dev.oos) } ∧
        Dev.Only [] [] { s.dev with repair := d.repair } d) ∧
    (bit s.dev.repair.testing k.val = true → s.dev.scan.run = true →
      Ran (.mouldSelftestDone k true) s fun d =>
        d.repair =
          { s.dev.repair with testing := clearBit s.dev.repair.testing k.val, passed := s.dev.repair.passed ||| 2 ^ k.val } ∧
        Dev.Only [] [] { s.dev with repair := d.repair } d) ∧
    (bit s.dev.repair.testing k.val = true → s.dev.scan.run = false →
      Ran (.mouldSelftestDone k true) s fun d =>
        bit d.oos k.val = false ∧
        bit d.repair.testing k.val = false ∧
        d.repair.passed = 0) ∧
    (bit s.dev.repair.testing k.val = true →
      Ran (.mouldSelftestDone k false) s fun d =>
        bit d.repair.testing k.val = false ∧
        d.oos = s.dev.oos ∧
        Dev.FaultNewest d 0x0E 15 k.val) ∧
    (s.dev.awake a = true → s.dev.mayWrite a.who FAULT.pg = true → (s.dev.flt.wr + 2 ^ 32 - x.toNat) % 2 ^ 32 ≤ 16 →
      Ran (.logRdWrite a false x) s fun d =>
        d.word FAULT.pg 0x05C = x ∧
        Dev.Only [rkey FAULT.pg 0x05C] [] s.dev d) ∧
    (s.dev.awake a = true → s.dev.mayWrite a.who FAULT.pg = true → 16 < (s.dev.flt.wr + 2 ^ 32 - x.toNat) % 2 ^ 32 →
      Ran (.logRdWrite a false x) s fun d =>
        Dev.ErrShown s.dev d FAULT.pg E.RANGE 0x05C a.who.code ∧
        Dev.Only (errKeys FAULT.pg) [] s.dev d) ∧
    (s.dev.awake a = true → s.dev.mayWrite a.who FAULT.pg = true → (s.dev.flt.viol + 2 ^ 32 - x.toNat) % 2 ^ 32 ≤ 32 →
      Ran (.logRdWrite a true x) s fun d =>
        d.word FAULT.pg 0x064 = x ∧
        Dev.Only [rkey FAULT.pg 0x064] [] s.dev d) ∧
    (s.dev.flt.toAppend = n :: l → s.dev.inRing n = true → s.dev.filporRuns = true → s.dev.writing 3 = false →
      Ran (.faultLogAppend) s fun d =>
        d.flt.toAppend.take l.length = l ∧
        d.writing 3 = true ∧
        (ga < faultLogGa ∨ lifeIntGa ≤ ga → d.nvByte ga = s.dev.nvByte ga) ∧
        Dev.WordsBut (fun k => onPage GRANARY.pg k || logKey k) s.dev d) ∧
    (s.dev.flt.toAppend = n :: l → s.dev.inRing n = false →
      Ran (.faultLogAppend) s fun d =>
        d.flt = { s.dev.flt with toAppend := l } ∧
        Dev.Only [] [] { s.dev with flt := d.flt } d) ∧
    (s.dev.flt.toAppend.all s.dev.inRing = true → (s.dev.flt.toAppend = [] ∨ s.dev.filporRuns = false ∨ s.dev.writing 3 = true) →
      Ran (.faultLogAppend) s fun d =>
        Dev.Only [] [] s.dev d) ∧
    (s.dev.filporRuns = true → s.dev.writing 4 = false →
      Ran (.lifeCounterUpdate) s fun d =>
        (d.flt.lifeIntNs = s.dev.flt.lifeIntNs % 1000000 ∧ d.flt.lifeOpNs = s.dev.flt.lifeOpNs % 1000000000) ∧
        (s.dev.flt.lifeIntNs < 2 ^ 64 → d.ctrFresh lifeIntGa = true → d.writing 4 = true ∧ d.rd FAULT.pg FAULT.LIFE_INT_MS_MS =
          satU 32 (s.dev.flt.lifeIntNs / 1000000)) ∧
        (s.dev.flt.lifeOpNs < 2 ^ 64 → d.ctrFresh lifeOpGa = true → d.writing 4 = true ∧ d.rd FAULT.pg FAULT.LIFE_OP_S_S = satU 32
          (s.dev.flt.lifeOpNs / 1000000000)) ∧
        (ga < lifeIntGa ∨ rollbackGa ≤ ga → d.nvByte ga = s.dev.nvByte ga) ∧
        Dev.WordsBut (fun k => onPage GRANARY.pg k || logKey k) s.dev d) ∧
    ((s.dev.filporRuns = false ∨ s.dev.writing 4 = true) →
      Ran (.lifeCounterUpdate) s fun d =>
        Dev.Only [] [] s.dev d) ∧
    (bit s.dev.oos k.val = false →
      Ran (.mouldResidueFail k line) s fun d =>
        bit d.oos k.val = true ∧
        d.nv.mem = s.dev.nv.mem) ∧
    (bit s.dev.oos k.val = false → s.dev.couch.pass.isSome = true →
      Ran (.mouldStall k line) s fun d =>
        bit d.oos k.val = true ∧
        d.nv.mem = s.dev.nv.mem) ∧
    ((s.dev.repair.tiles.find? fun t => t.phase == 0) = some u → s.dev.mode.part = false → mget (fun _ => false)
      s.dev.couch.composedSince (s.dev.mode.slotOfImg u.img) = false → s.dev.onPll 3 = true →
      Ran (.tileRepairStart) s fun d =>
        d.repair.tiles = s.dev.repair.tiles.map (fun y => if y = u then { u with phase := 1, rows := s.dev.recompose u } else y) ∧
        d.couch = s.dev.couch ∧
        d.rects = s.dev.rects ∧
        d.nv.mem = s.dev.nv.mem) ∧
    (s.dev.nv.cmd = some c → (c.step = 1 ∧ c.op = 0 ∧ c.len ≠ 0) → s.dev.fetched .granary = true →
      Ran (.granaryFetchDone) s fun d =>
        (d.nv.cmd.map (·.step)) = some 2 ∧
        d.nv.mem = s.dev.nv.mem) ∧
    (s.dev.nv.writers = [⟨3, 7, [(pg, [(o, b)])]⟩] → o < 256 → s.dev.nv.bad = [] → s.dev.nv.held = [] →
      Ran (.pageProgramDone ⟨[], []⟩) s fun d =>
        d.nvByte (256 * pg + o) = b ∧
        d.nv.writers = []) ∧
    (s.dev.nv.cmd = some c → (c.op = 2 ∨ c.op = 5) →
      Ran (.granaryReadDone ecc) s fun d =>
        d.nv.cmd = none ∧
        d.pend GRANARY.pg 0 = true) ∧
    (s.dev.awake a = true → s.dev.mayWrite a.who GRANARY.pg = true → s.dev.nv.cmd = some c → c.step = 1 →
      Ran (.granaryAbort a) s fun d =>
        d.nv.cmd = none ∧
        d.rd GRANARY.pg GRANARY.STAT_OUTCOME = 1)

/-- A set alias or clear alias write has, in every state in which it does not wait behind an earlier request, and for every
requester, exactly the effect of the same write with every data bit outside RW and RWS fields 0; of a requester with right, in a
state whose EV_RAW shows the standing conditions, it leaves every bit of the addressed register that belongs to no RW field as it
was, in the active value, and every bit that belongs to no RWS field as it was, in the shadow; one that waits behind an earlier
request joins the queue and changes nothing but the link state. (R5) -/
def Obligations.AliasLeavesOtherTypes : Prop :=
  ∀ (s : State) (a : Acc) (pg : Fin 64) (off : Nat) (x : Word),
    (s.dev.queues a = false →
      exec (.setAliasWrite a pg off x) s = exec (.setAliasWrite a pg off (x &&& typeMask [.rw, .rws] pg.val (off % 0x1000))) s) ∧
    (s.dev.queues a = false →
      exec (.clearAliasWrite a pg off x) s = exec (.clearAliasWrite a pg off (x &&& typeMask [.rw, .rws] pg.val (off % 0x1000))) s) ∧
    (s.settled = true → s.dev.awake a = true → s.dev.mayWrite a.who pg.val = true → off < 0x1000 → off % 4 = 0 →
      Ran (.setAliasWrite a pg off x) s fun d =>
        (d.word pg.val off &&& ~~~(typeMask [.rw] pg.val off)) = (s.dev.word pg.val off &&& ~~~(typeMask [.rw] pg.val off)) ∧
        (d.sh.word (rkey pg.val off) &&& ~~~(typeMask [.rws] pg.val off)) = (s.dev.sh.word (rkey pg.val off) &&& ~~~(typeMask
          [.rws] pg.val off))) ∧
    (s.settled = true → s.dev.awake a = true → s.dev.mayWrite a.who pg.val = true → off < 0x1000 → off % 4 = 0 →
      Ran (.clearAliasWrite a pg off x) s fun d =>
        (d.word pg.val off &&& ~~~(typeMask [.rw] pg.val off)) = (s.dev.word pg.val off &&& ~~~(typeMask [.rw] pg.val off)) ∧
        (d.sh.word (rkey pg.val off) &&& ~~~(typeMask [.rws] pg.val off)) = (s.dev.sh.word (rkey pg.val off) &&& ~~~(typeMask
          [.rws] pg.val off))) ∧
    (s.dev.queues a = true →
      Ran (.setAliasWrite a pg off x) s fun d =>
        Dev.Only [] []
          { s.dev.leaveL1 with host := { s.dev.leaveL1.host with later := s.dev.host.later ++ [.setAliasWrite a pg off x] } } d) ∧
    (s.dev.queues a = true →
      Ran (.clearAliasWrite a pg off x) s fun d =>
        Dev.Only [] []
          { s.dev.leaveL1 with host := { s.dev.leaveL1.host with later := s.dev.host.later ++ [.clearAliasWrite a pg off x] } } d)

/-- At the start of a reference line, be it a line within a slot, or the first blank line at a frame FLE or a slot FLE,
EV_LINE_MATCH becomes pending exactly when EN is 1 and LINE and SLOT name that line and slot, and stays as it was else; where the
reference stands within the mode, a LINE or SLOT outside the mode leaves it as it was. (R218) -/
def Obligations.LineMatchRaises : Prop :=
  ∀ (s : State) (t y : Nat) (isA isB : List (List Rat)) (sl : Fin 4),
    (s.dev.scan.run = true → s.dev.scan.starting = false → nextLine s.dev.mode (s.dev.rd SCAN.pg SCAN.POS_LINE) = some y →
      Ran (.lineStart none t []) s fun d =>
        d.pend SCAN.pg 6 = (s.dev.pend SCAN.pg 6 || (s.dev.on SCAN.pg SCAN.LINE_MATCH_EN && s.dev.rd SCAN.pg SCAN.LINE_MATCH_LINE
          == y && s.dev.rd SCAN.pg SCAN.LINE_MATCH_SLOT == s.dev.slotNo))) ∧
    (s.dev.scan.run = true → s.dev.scan.starting = false → s.dev.scan.entering = false → s.dev.scan.exiting = false → s.dev.on
      SCAN.pg SCAN.CTL_RUN = true →
      Ran (.frameFle t isA isB) s fun d =>
        d.pend SCAN.pg 6 = (s.dev.pend SCAN.pg 6 || (s.dev.on SCAN.pg SCAN.LINE_MATCH_EN && s.dev.rd SCAN.pg SCAN.LINE_MATCH_LINE
          == d.mode.h && s.dev.rd SCAN.pg SCAN.LINE_MATCH_SLOT == 0))) ∧
    (s.dev.scan.run = true → s.dev.scan.starting = false → 1 ≤ sl.val → sl.val < s.dev.mode.s →
      Ran (.slotFle sl t isA isB) s fun d =>
        d.pend SCAN.pg 6 = (s.dev.pend SCAN.pg 6 || (s.dev.on SCAN.pg SCAN.LINE_MATCH_EN && s.dev.rd SCAN.pg SCAN.LINE_MATCH_LINE
          == s.dev.mode.h && s.dev.rd SCAN.pg SCAN.LINE_MATCH_SLOT == sl.val))) ∧
    (s.dev.rd SCAN.pg SCAN.POS_LINE < s.dev.mode.h + s.dev.mode.vb → s.dev.slotNo < s.dev.mode.s → (s.dev.mode.h + s.dev.mode.vb ≤
      s.dev.rd SCAN.pg SCAN.LINE_MATCH_LINE ∨ s.dev.mode.s ≤ s.dev.rd SCAN.pg SCAN.LINE_MATCH_SLOT) →
      Ran (.lineStart none t []) s fun d =>
        d.pend SCAN.pg 6 = s.dev.pend SCAN.pg 6)

/-- When XT32 stops while XT32_OK is 1, in a settled state, XT32_OK reads 0 from then on (D0 runs from the RC oscillator),
EV_XT32_FAIL is pending, bit 7 (XT32_FAIL) of the AO log word is set, and the device time and its run are as before. (R95) -/
def Obligations.Xt32FailsOver : Prop :=
  ∀ (s : State),
    s.settled = true → s.dev.on CLOCK.pg CLOCK.OSC_STAT_XT32_OK = true →
      Ran (.xt32Fail) s fun d =>
        d.on CLOCK.pg CLOCK.OSC_STAT_XT32_OK = false ∧
        d.pend CLOCK.pg 2 = true ∧
        bit (d.word AOBB.pg 0x1FC).toNat 7 = true ∧
        d.tm = s.dev.tm ∧
        d.devtime = s.dev.devtime

/-- A commit request, by a requester with right, on a page that the map defines and that belongs to no commit group, changes
nothing but COMMIT_STAT.RESULT, which reads 6, IMMEDIATE; every other register of the page, active and shadow, stays, and no group
takes a check. (R56) -/
def Obligations.CommitOutsideGroups : Prop :=
  ∀ (s : State) (a : Acc) (pg : Fin 64),
    s.dev.awake a = true → s.dev.mayWrite a.who pg.val = true → pageGroup pg.val = none → pg.val < 0x28 →
      Ran (.commitReq a pg) s fun d =>
        d.rd pg.val HDR.COMMIT_STAT_RESULT = 6 ∧
        Dev.Only [HDR.COMMIT_STAT_RESULT.key pg.val 0 0] [] s.dev d

/-- A BAR2 bank write, set alias write or clear alias write by function f, within a 4 KiB page as the link carries it, of a bank
that no region has, completes and leaves every byte of every bank that does not belong to f as it was, in every state in which no
bank due for sparing waits to be copied (a copy reads its bank, and cells it finds bad then hold free values; log entry 7). (R66,
R114, R115, R117, R118, 06_memory_banks) -/
def Obligations.BanksIsolated : Prop :=
  ∀ (s : State) (f : Fin 3) (hdr : List Word) (da y : Nat) (data : List (Option Byte)) (ecc : Ecc),
    (s.dev.takes (Req.ofFn f) = true → s.dev.owner (bankOf y) ≠ f.val + 1 → da % 4096 + data.length ≤ 4096 → s.dev.itemOf (bankOf
      (da % 2 ^ 30)) = none → s.dev.bank.spareDue.all (fun b => s.dev.sparing || s.dev.bankState b != 5) = true →
      Ran (.bar2BankWrite f hdr da data ecc) s fun d =>
        d.byte y = s.dev.byte y) ∧
    (s.dev.takes (Req.ofFn f) = true → s.dev.owner (bankOf y) ≠ f.val + 1 → da % 4096 + data.length ≤ 4096 → s.dev.itemOf (bankOf
      (da % 2 ^ 30)) = none → s.dev.bank.spareDue.all (fun b => s.dev.sparing || s.dev.bankState b != 5) = true →
      Ran (.bar2SetAliasWrite f hdr da data ecc) s fun d =>
        d.byte y = s.dev.byte y) ∧
    (s.dev.takes (Req.ofFn f) = true → s.dev.owner (bankOf y) ≠ f.val + 1 → da % 4096 + data.length ≤ 4096 → s.dev.itemOf (bankOf
      (da % 2 ^ 30)) = none → s.dev.bank.spareDue.all (fun b => s.dev.sparing || s.dev.bankState b != 5) = true →
      Ran (.bar2ClearAliasWrite f hdr da data ecc) s fun d =>
        d.byte y = s.dev.byte y)

/-- For every command c and state s, the step of s with c at the front of its queue is exec of c on s. (R22, 01_architecture) -/
def Obligations.QueueInOrder : Prop :=
  ∀ (c : Instr) (s : State),
      step { s with pending := c :: s.pending } = exec c s

/-- A step on an empty queue with no host request waiting and no memory test on answers a next state with the queue empty; before
XTAL is stable nothing changes, after it, with no offset to slew away, only the device time changes, by 40 ns. With a host request
that waits behind another, the step performs the oldest as soon as nothing stands before it. That an idle step is one XTAL cycle,
and that it performs the requests that wait, is the model's choice (log entries 1 and 60). (04_host_link, 05_power_clocks_wake,
13_genlock_slots) -/
def Obligations.IdleStepTicks : Prop :=
  ∀ (d : Dev) (c : Instr) (cs : List Instr) (t : State),
    (d.host.later = [] ∧ d.mtestOn = false ∧ d.tm.run = false → step ⟨[], d⟩ = .next ⟨[], d⟩) ∧
    (d.host.later = [] ∧ d.mtestOn = false ∧ d.tm.run = true ∧ d.tm.slew = 0 ∧ d.tm.frac < 50 → step ⟨[], d⟩ = .next ⟨[],
        { d with tm := { d.tm with ns := d.tm.ns + 40 } }⟩) ∧
    (d.host.later = c :: cs ∧ d.servable = true ∧ exec c ⟨[], d.serveOn⟩ = .next t → step ⟨[], d⟩ = .next
        { t with dev := t.dev.serveOff cs }) ∧
    (d.host.later = c :: cs ∧ d.servable = false → step ⟨[], d⟩ = .next ⟨[], d.cycle⟩)

/-- For every command with every operand and every state, exec answers a next state (no fault and no refusal stops a run; log
entry 2), whose queue is the one before, and in which EV_RAW shows the standing conditions. (00_scope, 01_architecture, 21_events)
-/
def Obligations.EveryCommandCompletes : Prop :=
  ∀ (c : Instr) (s : State),
      Ran c s fun d => d.settled = true

/-- From every state in which the EV_RAW bits of the standing conditions show whether their conditions hold, every step, of a
command or idle, leads to such a state. (R381, R390, 21_events) -/
def Obligations.SettledKept : Prop :=
  ∀ (s t : State),
      s.settled = true → step s = .next t → t.settled = true

/-- From every state whose bank memory and Granary are lists in canonical form (addresses strictly rising, no entry equal to what
an unlisted address reads as), every step leads to such a state, so that equal memories are equal data. (R108, R365,
06_memory_banks, 20_nonvolatile) -/
def Obligations.MemoriesStayCanonical : Prop :=
  ∀ (s t : State),
      memWf s.dev.bank.mem = true ∧ nvWf s.dev.nv.mem = true → step s = .next t → memWf t.dev.bank.mem = true ∧ nvWf t.dev.nv.mem
        = true

/-- Whatever the state and the command that the step carries out (the front of the queue or, on an empty one, a host request that
has waited), a step other than a power-on reset, a low POR_N or the removal of VAO leaves the count of nanoseconds whose low 64
bits are the device time where it was or higher. (R100, R241, 05_power_clocks_wake, 13_genlock_slots) -/
def Obligations.DeviceTimeNeverFalls : Prop :=
  ∀ (s t : State),
      (∀ b, s.front ≠ some (.powerOnReset b)) → (∀ n b, s.front ≠ some (.porNReset n b)) → s.front ≠ some (.supplyRemoved .vao) →
        step s = .next t → s.dev.tm.ns ≤ t.dev.tm.ns

/-- The state after reset has an empty queue, EV_RAW in step with its conditions, memories in canonical form; IDENT.DEVICE_ID
reads 0x1F5C8640 and IDENT.REVISION 0x00020000; device time is 0 and does not run, no raster runs, and no picture is COMPLETE.
(R1, R2, R61, R100, R381, 00_scope, 03_register_pages) -/
def Obligations.ResetHolds : Prop :=
      State.reset.pending = [] ∧ State.reset.settled = true ∧ memWf State.reset.dev.bank.mem = true ∧ nvWf State.reset.dev.nv.mem
        = true ∧ State.reset.dev.word IDENT.pg 0x040 = 0x1F5C8640 ∧ State.reset.dev.word IDENT.pg 0x044 = 0x00020000 ∧
        State.reset.dev.devtime = 0 ∧ State.reset.dev.tm.run = false ∧ State.reset.dev.scan.run = false ∧ (∀ k : Fin 8,
        State.reset.dev.imgState k.val = 0)
end

