-- ==== Sys2Proof/Laws/Bits.lean ====
section
/-! SUPPORT. Bit fields of a word: what a field reads after another, or the same, is written. -/

namespace Sys2Proof.Machine

theorem testBit_getBits (x : Word) (lo w i : Nat) :
    (getBits x lo w).testBit i = (decide (i < w) && x.toNat.testBit (lo + i)) := by
  simp [getBits, Nat.testBit_mod_two_pow, Nat.testBit_shiftRight]

/-- Bit i of a word whose field was replaced. -/
theorem testBit_setBits (x : Word) {lo w : Nat} (v i : Nat) (h : lo + w ≤ 32) :
    (setBits x lo w v).toNat.testBit i =
      if lo ≤ i ∧ i < lo + w then v.testBit (i - lo) else x.toNat.testBit i := by
  have hx : ∀ j, 32 ≤ j → x.toNat.testBit j = false := fun j hj =>
    Nat.testBit_lt_two_pow (Nat.lt_of_lt_of_le x.isLt (Nat.pow_le_pow_right (by omega) hj))
  simp only [setBits, BitVec.testBit_toNat, BitVec.getLsbD_or, BitVec.getLsbD_and,
    BitVec.getLsbD_not, BitVec.getLsbD_ofNat, Nat.testBit_shiftLeft, Nat.testBit_two_pow_sub_one, Nat.testBit_mod_two_pow]
  by_cases hi : i < 32
  · by_cases h1 : lo ≤ i
    · by_cases h2 : i < lo + w
      · simp [hi, h1, h2, show i - lo < w by omega]
      · simp [hi, h1, h2, show ¬ i - lo < w by omega]
    · simp [hi, h1]
  · have hxi : x.getLsbD i = false := BitVec.getLsbD_of_ge x i (by omega)
    simp [hi, hxi, show ¬ i < lo + w by omega]

/-- A field reads what was written to it, cut to its width. -/
theorem getBits_setBits_same (x : Word) {lo w : Nat} (v : Nat) (h : lo + w ≤ 32) :
    getBits (setBits x lo w v) lo w = v % 2 ^ w := by
  apply Nat.eq_of_testBit_eq
  intro i
  rw [testBit_getBits, testBit_setBits x v _ h, Nat.testBit_mod_two_pow]
  by_cases hi : i < w
  · simp [hi]
  · simp [hi]

/-- A field that does not overlap reads as before. -/
theorem getBits_setBits_ne (x : Word) {lo w : Nat} (v : Nat) (lo' w' : Nat) (h : lo + w ≤ 32)
    (hd : lo' + w' ≤ lo ∨ lo + w ≤ lo') : getBits (setBits x lo w v) lo' w' = getBits x lo' w' := by
  apply Nat.eq_of_testBit_eq
  intro i
  rw [testBit_getBits, testBit_getBits, testBit_setBits x v _ h]
  by_cases hi : i < w'
  · rw [if_neg (by omega)]
  · simp [hi]

/-- A field's value fits its width. -/
theorem getBits_lt (x : Word) (lo w : Nat) : getBits x lo w < 2 ^ w := Nat.mod_lt _ (Nat.two_pow_pos w)

/-- Bit i after bit b was set. -/
theorem bit_or_pow (x : Word) (b i : Nat) (h : b < 32) :
    bit (x ||| BitVec.ofNat 32 (2 ^ b)).toNat i = (bit x.toNat i || decide (i = b)) := by
  simp only [bit, BitVec.toNat_or, BitVec.toNat_ofNat, Nat.testBit_or]
  rw [Nat.mod_eq_of_lt (Nat.pow_lt_pow_right (by omega) h), Nat.testBit_two_pow]
  congr 1
  exact decide_eq_decide.mpr eq_comm

/-- Bit i after bit b was cleared. -/
theorem bit_and_not_pow (x : Word) (b i : Nat) :
    bit (x &&& ~~~(BitVec.ofNat 32 (2 ^ b))).toNat i = (bit x.toNat i && !decide (i = b)) := by
  simp only [bit, BitVec.testBit_toNat, BitVec.getLsbD_and, BitVec.getLsbD_not, BitVec.getLsbD_ofNat, Nat.testBit_two_pow]
  by_cases hi : i < 32
  · simp [hi, eq_comm]
  · simp [hi, BitVec.getLsbD_of_ge x i (by omega)]

end Sys2Proof.Machine
end

