-- ==== Sys2Proof/Laws/Table.lean ====
section
/-! SUPPORT. Sparse tables: reading after writing, and the canonical form that every write keeps. -/

namespace Sys2Proof.Machine

variable {α : Type}

@[simp] theorem mget_nil (d : Nat → α) (k : Nat) : mget d [] k = d k := rfl

theorem mget_merase_same (d : Nat → α) (l : List (Nat × α)) (k : Nat) : mget d (merase l k) k = d k := by
  induction l with
  | nil => rfl
  | cons e l ih =>
    simp only [merase]
    split
    · exact ih
    · simp_all [mget]

theorem mget_merase_ne (d : Nat → α) (l : List (Nat × α)) {k k' : Nat} (h : k' ≠ k) :
    mget d (merase l k) k' = mget d l k' := by
  induction l with
  | nil => rfl
  | cons e l ih =>
    simp only [merase, mget]
    split
    · rw [ih, if_neg (by omega)]
    · simp [mget, ih]

theorem mget_minsert_ne (d : Nat → α) (l : List (Nat × α)) (v : α) {k k' : Nat} (h : k' ≠ k) :
    mget d (minsert l k v) k' = mget d l k' := by
  induction l with
  | nil => simp [minsert, mget, Ne.symm h]
  | cons e l ih =>
    simp only [minsert]
    split
    · rw [mget, if_neg (by omega)]
    · simp [mget, ih]

theorem mget_minsert_same (d : Nat → α) (l : List (Nat × α)) (v : α) (k : Nat)
    (h : ∀ e ∈ l, e.1 ≠ k) : mget d (minsert l k v) k = v := by
  induction l with
  | nil => simp [minsert, mget]
  | cons e l ih =>
    simp only [minsert]
    split
    · simp [mget]
    · rw [mget, if_neg (h e (by simp)), ih (fun x hx => h x (by simp [hx]))]

theorem merase_key_ne (l : List (Nat × α)) (k : Nat) : ∀ e ∈ merase l k, e.1 ≠ k := by
  induction l with
  | nil => simp [merase]
  | cons e l ih =>
    simp only [merase]
    split
    · exact ih
    · intro x hx
      simp only [List.mem_cons] at hx
      rcases hx with rfl | hx
      · assumption
      · exact ih x hx

/-- Reading after writing. -/
theorem mget_mset [DecidableEq α] (d : Nat → α) (l : List (Nat × α)) (k : Nat) (v : α) (k' : Nat) :
    mget d (mset d l k v) k' = if k' = k then v else mget d l k' := by
  unfold mset
  split
  · next hv =>
    split
    · next hk => rw [hk, mget_merase_same, hv]
    · next hk => exact mget_merase_ne d l hk
  · split
    · next hk => rw [hk, mget_minsert_same _ _ _ _ (merase_key_ne l k)]
    · next hk => rw [mget_minsert_ne _ _ _ hk, mget_merase_ne _ _ hk]

/-- Keys rise, in words: each is below every later one. -/
theorem keysRise_cons (e : Nat × α) (l : List (Nat × α)) :
    keysRise (e :: l) = true ↔ (∀ x ∈ l, e.1 < x.1) ∧ keysRise l = true := by
  induction l generalizing e with
  | nil => simp [keysRise]
  | cons b l ih =>
    simp only [keysRise, Bool.and_eq_true, decide_eq_true_eq]
    constructor
    · rintro ⟨h, hr⟩
      refine ⟨?_, hr⟩
      intro x hx
      simp only [List.mem_cons] at hx
      rcases hx with rfl | hx
      · exact h
      · exact Nat.lt_trans h (((ih b).mp hr).1 x hx)
    · rintro ⟨h, hr⟩
      exact ⟨h b (by simp), hr⟩

theorem merase_sub (l : List (Nat × α)) (k : Nat) : ∀ e ∈ merase l k, e ∈ l := by
  induction l with
  | nil => simp [merase]
  | cons e l ih =>
    simp only [merase]
    split
    · intro x hx; exact List.mem_cons_of_mem _ (ih x hx)
    · intro x hx
      simp only [List.mem_cons] at hx ⊢
      rcases hx with rfl | hx
      · exact .inl rfl
      · exact .inr (ih x hx)

theorem keysRise_merase (l : List (Nat × α)) (k : Nat) (h : keysRise l = true) : keysRise (merase l k) = true := by
  induction l with
  | nil => rfl
  | cons e l ih =>
    have h' := (keysRise_cons e l).mp h
    simp only [merase]
    split
    · exact ih h'.2
    · exact (keysRise_cons _ _).mpr ⟨fun x hx => h'.1 x (merase_sub l k x hx), ih h'.2⟩

theorem minsert_mem (l : List (Nat × α)) (k : Nat) (v : α) : ∀ e ∈ minsert l k v, e = (k, v) ∨ e ∈ l := by
  induction l with
  | nil => simp [minsert]
  | cons a l ih =>
    simp only [minsert]
    split
    · intro e he; simpa using he
    · intro e he
      simp only [List.mem_cons] at he ⊢
      rcases he with rfl | he
      · exact .inr (.inl rfl)
      · rcases ih e he with h | h
        · exact .inl h
        · exact .inr (.inr h)

theorem keysRise_minsert (l : List (Nat × α)) (k : Nat) (v : α) (hk : ∀ e ∈ l, e.1 ≠ k) (h : keysRise l = true) :
    keysRise (minsert l k v) = true := by
  induction l with
  | nil => rfl
  | cons a l ih =>
    have h' := (keysRise_cons a l).mp h
    simp only [minsert]
    split
    · next hlt =>
      refine (keysRise_cons _ _).mpr ⟨?_, h⟩
      intro x hx
      simp only [List.mem_cons] at hx
      rcases hx with rfl | hx
      · exact hlt
      · exact Nat.lt_trans hlt (h'.1 x hx)
    · next hlt =>
      refine (keysRise_cons _ _).mpr ⟨?_, ih (fun e he => hk e (by simp [he])) h'.2⟩
      intro x hx
      rcases minsert_mem l k v x hx with rfl | hx
      · have := hk a (by simp)
        simp only
        omega
      · exact h'.1 x hx

/-- A write keeps the canonical form. -/
theorem canon_mset [DecidableEq α] (d : Nat → α) (l : List (Nat × α)) (k : Nat) (v : α) (h : canon d l = true) :
    canon d (mset d l k v) = true := by
  simp only [canon, Bool.and_eq_true, List.all_eq_true, decide_eq_true_eq] at h ⊢
  unfold mset
  split
  · exact ⟨keysRise_merase l k h.1, fun e he => h.2 e (merase_sub l k e he)⟩
  · next hv =>
    refine ⟨keysRise_minsert _ _ _ (merase_key_ne l k) (keysRise_merase l k h.1), ?_⟩
    intro e he
    rcases minsert_mem _ _ _ e he with rfl | he
    · exact hv
    · exact h.2 e (merase_sub l k e he)

/-- Dropping entries keeps the canonical form. -/
theorem canon_filter [DecidableEq α] (d : Nat → α) (l : List (Nat × α)) (p : Nat × α → Bool) (h : canon d l = true) :
    canon d (l.filter p) = true := by
  simp only [canon, Bool.and_eq_true, List.all_eq_true, decide_eq_true_eq] at h ⊢
  refine ⟨?_, fun e he => h.2 e (List.mem_filter.mp he).1⟩
  have hr := h.1
  clear h
  induction l with
  | nil => rfl
  | cons a l ih =>
    have h' := (keysRise_cons a l).mp hr
    simp only [List.filter]
    split
    · exact (keysRise_cons _ _).mpr ⟨fun x hx => h'.1 x (List.mem_filter.mp hx).1, ih h'.2⟩
    · exact ih h'.2

/-- Two canonical tables that read alike are equal: equal contents are equal data. -/
theorem canon_ext [DecidableEq α] (d : Nat → α) (l l' : List (Nat × α)) (h : canon d l = true) (h' : canon d l' = true)
    (he : ∀ k, mget d l k = mget d l' k) : l = l' := by
  have low : ∀ (l : List (Nat × α)) (a : Nat), (∀ x ∈ l, a < x.1) → mget d l a = d a := by
    intro l a hl
    induction l with
    | nil => rfl
    | cons b l ih =>
      rw [mget, if_neg (by have := hl b (by simp); omega)]
      exact ih fun x hx => hl x (by simp [hx])
  have parts : ∀ (e : Nat × α) (l : List (Nat × α)), canon d (e :: l) = true →
      (∀ x ∈ l, e.1 < x.1) ∧ canon d l = true ∧ e.2 ≠ d e.1 := by
    intro e l hc
    simp only [canon, Bool.and_eq_true, List.all_eq_true, decide_eq_true_eq] at hc ⊢
    exact ⟨((keysRise_cons e l).mp hc.1).1, ⟨((keysRise_cons e l).mp hc.1).2, fun x hx => hc.2 x (by simp [hx])⟩, hc.2 e (by simp)⟩
  induction l generalizing l' with
  | nil =>
    cases l' with
    | nil => rfl
    | cons b l' =>
      have hb := parts b l' h'
      have := he b.1
      rw [mget_nil, mget, if_pos rfl] at this
      exact absurd this.symm hb.2.2
  | cons a l ih =>
    have ha := parts a l h
    cases l' with
    | nil =>
      have := he a.1
      rw [mget_nil, mget, if_pos rfl] at this
      exact absurd this ha.2.2
    | cons b l' =>
      have hb := parts b l' h'
      have hab : a.1 = b.1 := by
        rcases Nat.lt_trichotomy a.1 b.1 with hlt | heq | hlt
        · have := he a.1
          rw [mget, if_pos rfl, low (b :: l') a.1 (by
            intro x hx
            simp only [List.mem_cons] at hx
            rcases hx with rfl | hx
            · exact hlt
            · exact Nat.lt_trans hlt (hb.1 x hx))] at this
          exact absurd this ha.2.2
        · exact heq
        · have := he b.1
          rw [low (a :: l) b.1 (by
            intro x hx
            simp only [List.mem_cons] at hx
            rcases hx with rfl | hx
            · exact hlt
            · exact Nat.lt_trans hlt (ha.1 x hx)), mget, if_pos rfl] at this
          exact absurd this.symm hb.2.2
      have hv : a.2 = b.2 := by
        have := he a.1
        rw [mget, if_pos rfl, mget, if_pos hab.symm] at this
        exact this
      have hl : l = l' := by
        apply ih l' ha.2.1 hb.2.1
        intro k
        have hk := he k
        rw [mget, mget] at hk
        by_cases hka : a.1 = k
        · subst hka
          rw [low l _ ha.1, low l' _ (fun x hx => hab ▸ hb.1 x hx)]
        · rwa [if_neg hka, if_neg (by omega)] at hk
      rw [hl, Prod.ext hab hv]

end Sys2Proof.Machine
end

