-- ==== Sys2Proof/Laws/Regs.lean ====
section
/-! SUPPORT. Register files: reading a word or a field after writing one. -/

namespace Sys2Proof.Machine

theorem rkey_inj {a b o : Nat} (h : rkey a o = rkey b o) : a = b := by
  unfold rkey at h
  omega

/-- Registers at different offsets are different, whatever their pages. -/
theorem rkey_ne_off {a b o o' : Nat} (ho : o < 0x1000) (ho' : o' < 0x1000) (h : o ≠ o') : rkey a o ≠ rkey b o' := by
  unfold rkey
  omega

/-- Registers of different pages are different. -/
theorem rkey_ne_page {a b o o' : Nat} (ho : o < 0x1000) (ho' : o' < 0x1000) (h : a ≠ b) : rkey a o ≠ rkey b o' := by
  unfold rkey
  omega

@[simp] theorem Regs.word_put_same (r : Regs) (k : Nat) (x : Word) : (r.put k x).word k = x := by
  simp [Regs.word, Regs.put, mget_mset]

theorem Regs.word_put_ne (r : Regs) {k k' : Nat} (x : Word) (h : k' ≠ k) : (r.put k x).word k' = r.word k' := by
  simp [Regs.word, Regs.put, mget_mset, h]

theorem Regs.word_put (r : Regs) (k k' : Nat) (x : Word) : (r.put k x).word k' = if k' = k then x else r.word k' := by
  simp only [Regs.word, Regs.put, mget_mset]

/-- The word of a register, read through a device. -/
theorem Dev.word_eq (d : Dev) (pg off : Nat) : d.word pg off = d.regs.word (rkey pg off) := rfl

theorem Dev.word_putWord (d : Dev) (pg off pg' off' : Nat) (x : Word) :
    (d.putWord pg off x).word pg' off' = if rkey pg' off' = rkey pg off then x else d.word pg' off' :=
  Regs.word_put _ _ _ _

theorem Dev.regs_word_wr (d : Dev) (pg : Nat) (f : Fld) (v i j k q : Nat) :
    (d.wr pg f v i j k).regs.word q =
      if q = f.key pg i k then setBits (d.regs.word q) (f.lo + j * f.bstr) f.w v else d.regs.word q := by
  simp only [Dev.wr, Regs.putFld, Regs.word_put]
  split
  · next h => rw [h]
  · rfl

theorem Dev.regs_word_putWord (d : Dev) (pg off q : Nat) (x : Word) :
    (d.putWord pg off x).regs.word q = if q = rkey pg off then x else d.regs.word q := Regs.word_put _ _ _ _

/-- A field reads what was written to it. -/
theorem Dev.rd_wr_same (d : Dev) (pg : Nat) (f : Fld) (v i j k : Nat) (h : f.lo + j * f.bstr + f.w ≤ 32) :
    (d.wr pg f v i j k).rd pg f i j k = v % 2 ^ f.w := by
  simp only [Dev.rd, Regs.fld, Dev.regs_word_wr, if_true]
  exact getBits_setBits_same _ _ h

/-- A field of another register reads as before. -/
theorem Dev.rd_wr_reg (d : Dev) (pg : Nat) (f : Fld) (v i j k pg' : Nat) (f' : Fld) (i' j' k' : Nat)
    (h : f'.key pg' i' k' ≠ f.key pg i k) : (d.wr pg f v i j k).rd pg' f' i' j' k' = d.rd pg' f' i' j' k' := by
  simp only [Dev.rd, Regs.fld, Dev.regs_word_wr, if_neg h]

/-- A field of the same register that does not overlap reads as before. -/
theorem Dev.rd_wr_bits (d : Dev) (pg : Nat) (f : Fld) (v i j k pg' : Nat) (f' : Fld) (i' j' k' : Nat)
    (hk : f'.key pg' i' k' = f.key pg i k) (h : f.lo + j * f.bstr + f.w ≤ 32)
    (hd : f'.lo + j' * f'.bstr + f'.w ≤ f.lo + j * f.bstr ∨ f.lo + j * f.bstr + f.w ≤ f'.lo + j' * f'.bstr) :
    (d.wr pg f v i j k).rd pg' f' i' j' k' = d.rd pg' f' i' j' k' := by
  simp only [Dev.rd, Regs.fld, Dev.regs_word_wr, if_pos hk]
  exact getBits_setBits_ne _ _ _ _ h hd

/-- A field of another register reads as before a whole word was put. -/
theorem Dev.rd_putWord_ne (d : Dev) (pg off : Nat) (x : Word) (pg' : Nat) (f' : Fld) (i' j' k' : Nat)
    (h : f'.key pg' i' k' ≠ rkey pg off) : (d.putWord pg off x).rd pg' f' i' j' k' = d.rd pg' f' i' j' k' := by
  simp only [Dev.rd, Regs.fld, Dev.regs_word_putWord, if_neg h]

/-- Fields read alike in devices whose words of that register are alike. -/
theorem Dev.rd_congr {d d' : Dev} {pg : Nat} {f : Fld} {i j k : Nat}
    (h : d'.regs.word (f.key pg i k) = d.regs.word (f.key pg i k)) : d'.rd pg f i j k = d.rd pg f i j k := by
  simp only [Dev.rd, Regs.fld, h]

end Sys2Proof.Machine
end

