-- ==== Sys2Proof/Laws/Ops.lean ====
section
/-! SUPPORT. Shared operations, each once: what it changes and what it leaves. `Dev.Pre` is the frame a command's meaning
has before `finish` settles it. -/

namespace Sys2Proof.Machine

/-- Registers that a raised event may write beside its own EV_PEND (R383, R387). -/
def raiseKeys : List Nat := [rkey 0x01 0x014, rkey 0x01 0x084, rkey 0x01 0x0A4, heldKey]

/-- Device d is b but for register words, the standing message requests, and what leaving L1 for them changes (R385). -/
def Dev.Rq (b d : Dev) : Prop :=
  d = { b with regs := d.regs, host := { b.host with
    reqs := d.host.reqs, l1Req := d.host.l1Req, narrow := d.host.narrow, clkreq := d.host.clkreq } }

theorem Dev.Rq.refl (d : Dev) : Dev.Rq d d := rfl

theorem Dev.Rq.trans {b d e : Dev} (h1 : Dev.Rq b d) (h2 : Dev.Rq d e) : Dev.Rq b e := by
  unfold Dev.Rq at *
  refine h2.trans ?_
  rw [h1]

/-- Outside L1 device d has b's link. -/
def Dev.LinkKept (b d : Dev) : Prop :=
  b.inL1 = false → d.host.l1Req = b.host.l1Req ∧ d.host.narrow = b.host.narrow ∧ d.host.clkreq = b.host.clkreq ∧
    d.regs.word linkKey = b.regs.word linkKey

theorem Dev.LinkKept.refl (d : Dev) : Dev.LinkKept d d := fun _ => ⟨rfl, rfl, rfl, rfl⟩

/-- Whether the link is in L1 is read from its state register. -/
theorem Dev.inL1_congr {b d : Dev} (h : d.regs.word linkKey = b.regs.word linkKey) : d.inL1 = b.inL1 := by
  have e : d.link = b.link := Dev.rd_congr (pg := HOSTIF.pg) (f := HDR.PG_STAT_STATE) (i := 0) (j := 0) (k := 0) h
  unfold Dev.inL1
  rw [e]

theorem Dev.LinkKept.inL1 {b d : Dev} (h : Dev.LinkKept b d) (hb : b.inL1 = false) : d.inL1 = false :=
  (Dev.inL1_congr (h hb).2.2.2).trans hb

theorem Dev.LinkKept.trans {b d e : Dev} (h1 : Dev.LinkKept b d) (h2 : Dev.LinkKept d e) : Dev.LinkKept b e := fun hb =>
  have a := h1 hb
  have c := h2 (h1.inL1 hb)
  ⟨c.1.trans a.1, c.2.1.trans a.2.1, c.2.2.1.trans a.2.2.1, c.2.2.2.trans a.2.2.2⟩

/-- What writes other registers keeps the link. -/
theorem Dev.LinkKept.regs (d : Dev) (r : Regs) (h : r.word linkKey = d.regs.word linkKey) : Dev.LinkKept d { d with regs := r } :=
  fun _ => ⟨rfl, rfl, rfl, h⟩

/-- A register that a change of the link may write: it stays outside L1, and in L1 when it is not the link state. -/
abbrev Dev.OffLink (d : Dev) (k : Nat) : Prop := d.inL1 = false ∨ k ≠ linkKey

theorem Dev.LinkKept.off {b d : Dev} (h : Dev.LinkKept b d) {k : Nat} (hk : b.OffLink k) : d.OffLink k :=
  hk.imp_left fun hb => h.inL1 hb

theorem Dev.Rq.regs (d : Dev) (r : Regs) : Dev.Rq d { d with regs := r } := rfl

theorem Dev.Rq.reqs (d : Dev) (l : List MsiReq) : Dev.Rq d { d with host := { d.host with reqs := l } } := rfl

theorem Dev.Rq.wr (d : Dev) (pg : Nat) (f : Fld) (v i j k : Nat) : Dev.Rq d (d.wr pg f v i j k) := rfl

theorem Dev.Rq.putWord (d : Dev) (pg off : Nat) (x : Word) : Dev.Rq d (d.putWord pg off x) := rfl

theorem Dev.Rq.count (d : Dev) (pg : Nat) (f : Fld) (n i j k : Nat) : Dev.Rq d (d.count pg f n i j k) := by
  unfold Dev.count
  split
  · exact .refl d
  · exact .wr ..

/-- From b to d, registers ks change and events evs are raised. -/
structure Dev.Pre (ks : List Nat) (evs : List (Nat × Nat)) (b d : Dev) : Prop where
  rest : Dev.Rq b d
  kept : linkKey ∉ ks → Dev.LinkKept b d
  host : evs = [] → d.host = b.host
  words : ∀ k, k ∉ ks → (evs = [] ∨ k ∉ raiseKeys ∧ b.OffLink k) → (∀ p, k ≠ rkey p 0x014) → d.regs.word k = b.regs.word k
  pend : ∀ p i, rkey p 0x014 ∉ ks → (b.pend p i || evs.contains (p, i)) = true → d.pend p i = true
  pendOnly : ∀ p i, rkey p 0x014 ∉ ks → d.pend p i = true → (b.pend p i || evs.contains (p, i) || wakeEvs.contains (p, i)) = true
  quietWords : rkey 0x01 0x088 ∉ ks → b.rd MOOT.pg MOOT.WAKE_EN_EVENT = 0 →
    ∀ k, k ∉ ks → (evs = [] ∨ k ≠ heldKey ∧ b.OffLink k) → (∀ p, k ≠ rkey p 0x014) → d.regs.word k = b.regs.word k
  quietPend : rkey 0x01 0x088 ∉ ks → b.rd MOOT.pg MOOT.WAKE_EN_EVENT = 0 →
    ∀ p i, rkey p 0x014 ∉ ks → d.pend p i = (b.pend p i || evs.contains (p, i))

/-! ### Leaving L1 -/

theorem Dev.leaveL1_off {d : Dev} (h : d.inL1 = false) : d.leaveL1 = d := by
  unfold Dev.leaveL1
  rw [h]
  rfl

theorem Dev.leaveL1_rest (d : Dev) : Dev.Rq d d.leaveL1 := by
  unfold Dev.leaveL1
  split <;> rfl

theorem Dev.leaveL1_kept (d : Dev) : Dev.LinkKept d d.leaveL1 := fun h => by
  rw [Dev.leaveL1_off h]
  exact ⟨rfl, rfl, rfl, rfl⟩

/-- Leaving L1 writes the link state alone. -/
theorem Dev.leaveL1_word (d : Dev) {k : Nat} (h : d.OffLink k) : d.leaveL1.regs.word k = d.regs.word k := by
  unfold Dev.leaveL1
  split
  · next hl => exact (Dev.regs_word_wr ..).trans (if_neg (h.resolve_left (by simp [hl])))
  · rfl

/-! ### Requests and latching -/

theorem Dev.request_rest (d : Dev) (f v : Nat) : Dev.Rq d (d.request f v) := by
  unfold Dev.request
  split
  · exact .refl d
  · dsimp only
    split
    · exact Dev.Rq.trans (Dev.Rq.reqs d _) (.count ..)
    · exact Dev.Rq.trans (Dev.Rq.reqs d _) (Dev.leaveL1_rest _)

/-- A request writes HELD_CNT when it is held, and in L1 the link state when it is not. -/
theorem Dev.request_word (d : Dev) (f v : Nat) {k : Nat} (h : k ≠ heldKey) (hl : d.OffLink k) :
    (d.request f v).regs.word k = d.regs.word k := by
  unfold Dev.request Dev.count
  split
  · rfl
  · dsimp only
    split
    · split
      · rfl
      · exact (Dev.regs_word_wr ..).trans (if_neg h)
    · exact Dev.leaveL1_word _ hl

theorem Dev.request_kept (d : Dev) (f v : Nat) : Dev.LinkKept d (d.request f v) := fun hb => by
  refine ⟨?_, ?_, ?_, Dev.request_word d f v (by decide) (.inl hb)⟩ <;>
  · unfold Dev.request Dev.count
    repeat' (first | split | dsimp only)
    all_goals first
      | rfl
      | (rw [Dev.leaveL1_off (by exact hb)])

theorem Dev.latch_rest (d : Dev) (pg b : Nat) : Dev.Rq d (d.latch pg b) := by
  unfold Dev.latch
  dsimp only
  split
  · exact .trans (.putWord ..) (Dev.request_rest ..)
  · exact .putWord ..

theorem pendKey_ne_held (p : Nat) : rkey p 0x014 ≠ heldKey := rkey_ne_off (by decide) (by decide) (by decide)
theorem pendKey_ne_link (p : Nat) : rkey p 0x014 ≠ linkKey := rkey_ne_off (by decide) (by decide) (by decide)

/-- Another register keeps the link. -/
theorem Dev.LinkKept.putWord (d : Dev) (pg off : Nat) (x : Word) (h : linkKey ≠ rkey pg off) :
    Dev.LinkKept d (d.putWord pg off x) := fun _ => ⟨rfl, rfl, rfl, (Dev.regs_word_putWord ..).trans (if_neg h)⟩

theorem Dev.latch_kept (d : Dev) (pg b : Nat) : Dev.LinkKept d (d.latch pg b) := by
  have hp := fun x => Dev.LinkKept.putWord d pg 0x014 x (pendKey_ne_link pg).symm
  unfold Dev.latch
  dsimp only
  split
  · exact (hp _).trans (Dev.request_kept _ _ _)
  · exact hp _

/-- Latching writes the event's bit of EV_PEND, and perhaps HELD_CNT or the link state. -/
theorem Dev.latch_word (d : Dev) (pg b : Nat) {k : Nat} (h : k ≠ heldKey) (hl : d.OffLink k) :
    (d.latch pg b).regs.word k =
      if k = rkey pg 0x014 then d.regs.word k ||| BitVec.ofNat 32 (2 ^ b) else d.regs.word k := by
  have hp := fun x => (Dev.LinkKept.putWord d pg 0x014 x (pendKey_ne_link pg).symm).off hl
  unfold Dev.latch
  dsimp only
  split <;> (try rw [Dev.request_word _ _ _ h (hp _)]) <;> rw [Dev.regs_word_putWord] <;> split
  · next hk => rw [hk]; rfl
  · rfl
  · next hk => rw [hk]; rfl
  · rfl

theorem Dev.wakeMark_word (d : Dev) (n : Nat) {k : Nat} (h : k ∉ raiseKeys) : (d.wakeMark n).regs.word k = d.regs.word k := by
  have h1 : k ≠ rkey 0x01 0x0A4 := fun e => h (by simp [raiseKeys, e])
  have h2 : k ≠ rkey 0x01 0x084 := fun e => h (by simp [raiseKeys, e])
  simp only [Dev.wakeMark, Dev.regs_word_wr]
  rw [if_neg (by exact h2), if_neg (by exact h1)]

theorem Dev.wakeMark_rest (d : Dev) (n : Nat) : Dev.Rq d (d.wakeMark n) := rfl

theorem Dev.wakeMark_kept (d : Dev) (n : Nat) : Dev.LinkKept d (d.wakeMark n) := fun _ =>
  ⟨rfl, rfl, rfl, Dev.wakeMark_word d n (by decide)⟩

theorem Dev.raise_rest (d : Dev) (pg b : Nat) : Dev.Rq d (d.raise pg b) := by
  unfold Dev.raise
  dsimp only
  split
  · exact ((Dev.latch_rest d pg b).trans (Dev.wakeMark_rest ..)).trans (Dev.latch_rest ..)
  · exact Dev.latch_rest d pg b

theorem Dev.raise_kept (d : Dev) (pg b : Nat) : Dev.LinkKept d (d.raise pg b) := by
  unfold Dev.raise
  dsimp only
  split
  · exact ((Dev.latch_kept d pg b).trans (Dev.wakeMark_kept _ _)).trans (Dev.latch_kept _ _ _)
  · exact Dev.latch_kept d pg b

/-- Raising an event writes its bit of EV_PEND and, beside it, only `raiseKeys` and in L1 the link state. -/
theorem Dev.raise_word (d : Dev) (pg b : Nat) {k : Nat} (h : k ∉ raiseKeys) (hl : d.OffLink k) :
    (d.raise pg b).regs.word k =
      if k = rkey pg 0x014 then d.regs.word k ||| BitVec.ofNat 32 (2 ^ b) else d.regs.word k := by
  have hh : k ≠ heldKey := fun e => h (by simp [raiseKeys, e])
  have hm : k ≠ rkey MOOT.pg 0x014 := fun e => h (by simp [raiseKeys, e])
  unfold Dev.raise
  dsimp only
  split
  · rw [Dev.latch_word _ _ _ hh (((Dev.latch_kept d pg b).trans (Dev.wakeMark_kept _ _)).off hl), if_neg hm, Dev.wakeMark_word _ _ h,
      Dev.latch_word _ _ _ hh hl]
  · exact Dev.latch_word _ _ _ hh hl

/-- With WAKE_EN.EVENT 0 raising an event is latching it. -/
theorem Dev.raise_quiet (d : Dev) (pg b : Nat) (h : d.rd MOOT.pg MOOT.WAKE_EN_EVENT = 0) : d.raise pg b = d.latch pg b := by
  have hw : (d.latch pg b).rd MOOT.pg MOOT.WAKE_EN_EVENT = 0 := by
    refine (Dev.rd_congr ?_).trans h
    rw [show MOOT.WAKE_EN_EVENT.key MOOT.pg 0 0 = rkey 1 0x088 from rfl, Dev.latch_word _ _ _ (by decide) (.inr (by decide)),
      if_neg (rkey_ne_off (by decide) (by decide) (by decide))]
  unfold Dev.raise
  simp only [Dev.on, hw]
  simp

/-- EV_PEND after an event is latched. -/
theorem Dev.latch_pend (d : Dev) (pg x p i : Nat) (hx : x < 32) :
    (d.latch pg x).pend p i = (d.pend p i || decide (p = pg ∧ i = x)) := by
  unfold Dev.pend
  rw [Dev.word_eq, Dev.latch_word _ _ _ (pendKey_ne_held p) (.inr (pendKey_ne_link p))]
  by_cases e : p = pg
  · rw [if_pos (by rw [e]), bit_or_pow _ _ _ hx]
    simp [e, Dev.word_eq]
  · rw [if_neg (fun h => e (rkey_inj h))]
    simp [e, Dev.word_eq]

theorem Dev.wakeMark_pend (d : Dev) (n p i : Nat) : (d.wakeMark n).pend p i = d.pend p i := by
  have h1 : rkey p 0x014 ≠ MOOT.WAKE_HOLD_DOMS.key MOOT.pg 0 0 :=
    rkey_ne_off (b := 1) (o' := 0x084) (by decide) (by decide) (by decide)
  have h2 : rkey p 0x014 ≠ MOOT.WAKE_LAST_SRC.key MOOT.pg 0 0 :=
    rkey_ne_off (b := 1) (o' := 0x0A4) (by decide) (by decide) (by decide)
  simp only [Dev.pend, Dev.word_eq, Dev.wakeMark, Dev.regs_word_wr, if_neg h1, if_neg h2]

/-- EV_PEND after an event is raised: its bit, and EV_WAKE when it fires the wake source. -/
theorem Dev.raise_pend (d : Dev) (pg x p i : Nat) (hx : x < 32) :
    (d.raise pg x).pend p i = (d.pend p i || decide (p = pg ∧ i = x)) ∨
      (d.raise pg x).pend p i = (d.pend p i || decide (p = pg ∧ i = x) || decide (p = 1 ∧ i = 0)) := by
  unfold Dev.raise
  dsimp only
  split
  · right
    rw [Dev.latch_pend _ _ _ _ _ (by decide), Dev.wakeMark_pend, Dev.latch_pend _ _ _ _ _ hx]
  · left
    exact Dev.latch_pend _ _ _ _ _ hx

/-! ### The frame of a meaning, built up operation by operation -/

theorem Dev.Pre.refl (ks : List Nat) (b : Dev) : Dev.Pre ks [] b b :=
  ⟨rfl, fun _ => .refl b, fun _ => rfl, fun _ _ _ _ => rfl, fun _ _ _ h => by simpa using h, fun _ _ _ h => by simp [h],
    fun _ _ _ _ _ _ => rfl, fun _ _ _ _ _ => by simp⟩

/-- A register of ks is written. -/
theorem Dev.Pre.put {ks : List Nat} {evs : List (Nat × Nat)} {b d : Dev} (h : Dev.Pre ks evs b d) (q : Nat) (x : Word)
    (hq : q ∈ ks) : Dev.Pre ks evs b { d with regs := d.regs.put q x } := by
  have ne : ∀ k, k ∉ ks → (d.regs.put q x).word k = d.regs.word k := fun k hk => Regs.word_put_ne _ _ fun e => hk (e ▸ hq)
  have np : ∀ p i, rkey p 0x014 ∉ ks → Dev.pend { d with regs := d.regs.put q x } p i = d.pend p i := fun p i hk =>
    congrArg (fun w : Word => bit w.toNat i) (ne _ hk)
  refine ⟨h.rest.trans (Dev.Rq.regs ..), fun hk => (h.kept hk).trans (.regs _ _ (ne _ hk)), h.host, ?_, ?_, ?_, ?_, ?_⟩
  · exact fun k hk hw he => (ne k hk).trans (h.words k hk hw he)
  · exact fun p i hk hi => (np p i hk).trans (h.pend p i hk hi)
  · exact fun p i hk hi => h.pendOnly p i hk ((np p i hk).symm.trans hi)
  · exact fun h1 h2 k hk hw he => (ne k hk).trans (h.quietWords h1 h2 k hk hw he)
  · exact fun h1 h2 p i hk => (np p i hk).trans (h.quietPend h1 h2 p i hk)

theorem Dev.Pre.wr {ks : List Nat} {evs : List (Nat × Nat)} {b d : Dev} (h : Dev.Pre ks evs b d) (pg : Nat) (f : Fld)
    (v i j k : Nat) (hq : f.key pg i k ∈ ks) :
    Dev.Pre ks evs b (d.wr pg f v i j k) := h.put _ _ hq

theorem Dev.Pre.putWord {ks : List Nat} {evs : List (Nat × Nat)} {b d : Dev} (h : Dev.Pre ks evs b d) (pg off : Nat) (x : Word)
    (hq : rkey pg off ∈ ks) : Dev.Pre ks evs b (d.putWord pg off x) := h.put _ _ hq

theorem Dev.Pre.count {ks : List Nat} {evs : List (Nat × Nat)} {b d : Dev} (h : Dev.Pre ks evs b d) (pg : Nat) (f : Fld)
    (n i j k : Nat) (hq : f.key pg i k ∈ ks) :
    Dev.Pre ks evs b (d.count pg f n i j k) := by
  unfold Dev.count
  split
  · exact h
  · exact h.wr pg f _ i j k hq

theorem Dev.Pre.stat {ks : List Nat} {evs : List (Nat × Nat)} {b d : Dev} (h : Dev.Pre ks evs b d) (pg : Nat) (f : Fld)
    (v i j : Nat) (hq : f.key pg i 0 ∈ ks) :
    Dev.Pre ks evs b (d.stat pg f v i j) := by
  unfold Dev.stat
  split
  · exact h
  · exact h.wr pg f _ i j 0 hq

/-- A page records an error. -/
theorem Dev.Pre.err {ks : List Nat} {evs : List (Nat × Nat)} {b d : Dev} (h : Dev.Pre ks evs b d) (pg code off func : Nat)
    (h1 : rkey pg 0x024 ∈ ks) (h2 : rkey pg 0x028 ∈ ks) : Dev.Pre ks evs b (d.err pg code off func) := by
  unfold Dev.err Dev.errAt
  split
  · exact (h.wr pg HDR.ERR_CODE_CODE _ 0 0 0 h1).putWord pg 0x028 _ h2
  · exact h.wr pg HDR.ERR_CODE_OVERRUN _ 0 0 0 h1

/-- An event is raised by a command that does not write the link state. -/
theorem Dev.Pre.raise {ks : List Nat} {evs : List (Nat × Nat)} {b d : Dev} (h : Dev.Pre ks evs b d) (hlk : linkKey ∉ ks) (pg x : Nat)
    (hx : x < 32) : Dev.Pre ks (evs ++ [(pg, x)]) b (d.raise pg x) := by
  have hd : ∀ k, b.OffLink k → d.OffLink k := fun _ => (h.kept hlk).off
  have hq : rkey 0x01 0x088 ∉ ks → b.rd MOOT.pg MOOT.WAKE_EN_EVENT = 0 → d.raise pg x = d.latch pg x := fun h1 h2 => by
    refine Dev.raise_quiet _ _ _ ((Dev.rd_congr ?_).trans h2)
    exact h.quietWords h1 h2 (rkey 1 0x088) h1 (.inr ⟨by decide, .inr (by decide)⟩) fun p => rkey_ne_off (by decide) (by decide) (by decide)
  refine ⟨h.rest.trans (Dev.raise_rest ..), fun hk => (h.kept hk).trans (Dev.raise_kept _ _ _), by simp, ?_, ?_, ?_, ?_, ?_⟩
  · intro k hk hw hp
    have hw : k ∉ raiseKeys ∧ b.OffLink k := hw.resolve_left (by simp)
    rw [Dev.raise_word _ _ _ hw.1 (hd k hw.2), if_neg (hp pg)]
    exact h.words k hk (.inr hw) hp
  · intro p i hk hi
    have := h.pend p i hk
    rcases Dev.raise_pend d pg x p i hx with e | e <;> rw [e] <;> simp only [List.contains_append, Bool.or_eq_true] at hi this ⊢ <;>
      simp only [List.contains_cons, List.contains_nil, Bool.or_false, beq_iff_eq, Prod.mk.injEq, decide_eq_true_eq] at hi ⊢ <;> grind
  · intro p i hk hi
    have := h.pendOnly p i hk
    rcases Dev.raise_pend d pg x p i hx with e | e <;> rw [e] at hi <;> simp only [List.contains_append, Bool.or_eq_true] at hi this ⊢ <;>
      simp only [wakeEvs, List.contains_cons, List.contains_nil, Bool.or_false, Bool.or_eq_true, beq_iff_eq, Prod.mk.injEq, decide_eq_true_eq] at hi this ⊢ <;> grind
  · intro h1 h2 k hk hw hp
    have hw : k ≠ heldKey ∧ b.OffLink k := hw.resolve_left (by simp)
    rw [hq h1 h2, Dev.latch_word _ _ _ hw.1 (hd k hw.2), if_neg (hp pg)]
    exact h.quietWords h1 h2 k hk (.inr hw) hp
  · intro h1 h2 p i hk
    rw [hq h1 h2, Dev.latch_pend _ _ _ _ _ hx, h.quietPend h1 h2 p i hk, List.contains_append, Bool.or_assoc]
    congr 2
    simp [Bool.decide_and, eq_comm]

end Sys2Proof.Machine
end

