-- ==== Sys2Proof/Laws/Moot.lean ====
section
/-! SUPPORT. What the Moot and `settle` may change: the wake registers, the power state, message requests, and the events of
`wakeEvs` (`Dev.Changes [] []`); and when `settle` changes nothing. -/

namespace Sys2Proof.Machine

/-! ### Composing -/

theorem Dev.Rest.refl (d : Dev) : Dev.Rest d d := ⟨rfl, fun _ => ⟨rfl, rfl, rfl⟩⟩

/-- One after the other, when the first leaves the link's state as it was outside L1. -/
theorem Dev.Rest.trans {b d e : Dev} (h1 : Dev.Rest b d) (hk : b.inL1 = false → d.inL1 = false) (h2 : Dev.Rest d e) :
    Dev.Rest b e := by
  refine ⟨?_, fun hb => ?_⟩
  · have e2 := h2.1
    rw [h1.1] at e2
    exact e2
  · have a := h1.2 hb
    have c := h2.2 (hk hb)
    exact ⟨c.1.trans a.1, c.2.1.trans a.2.1, c.2.2.trans a.2.2⟩

theorem Dev.Rq.toRest {b d : Dev} (h : Dev.Rq b d) (hl : Dev.LinkKept b d) : Dev.Rest b d :=
  ⟨by rw [h], fun hb => ⟨(hl hb).1, (hl hb).2.1, (hl hb).2.2.1⟩⟩

theorem Dev.Changes.refl (d : Dev) : Dev.Changes [] [] d d :=
  ⟨.refl d, fun _ _ _ _ _ => rfl, fun _ _ _ => ⟨fun h => by simpa using h, fun h => by simp [h]⟩⟩

/-- What changes no named register keeps the link's state outside L1. -/
theorem Dev.Changes.inL1 {ks : List Nat} {evs : List (Nat × Nat)} {b d : Dev} (h : Dev.Changes ks evs b d) (hlk : linkKey ∉ ks)
    (hb : b.inL1 = false) : d.inL1 = false :=
  (Dev.inL1_congr (h.2.1 linkKey hlk (by decide) (.inl hb) fun p => (pendKey_ne_link p).symm)).trans hb

theorem Dev.Changes.trans {ks : List Nat} {evs : List (Nat × Nat)} {b d e : Dev} (h1 : Dev.Changes ks evs b d) (hlk : linkKey ∉ ks)
    (h2 : Dev.Changes [] [] d e) : Dev.Changes ks evs b e := by
  refine ⟨h1.1.trans (h1.inL1 hlk) h2.1, fun k hk hw hl hp => ?_, fun p i hk => ⟨?_, ?_⟩⟩
  · exact (h2.2.1 k (by simp) hw (hl.imp_left (h1.inL1 hlk)) hp).trans (h1.2.1 k hk hw hl hp)
  · exact fun h => (h2.2.2 p i (by simp)).1 (by simp [(h1.2.2 p i hk).1 h])
  · intro h
    have := (h2.2.2 p i (by simp)).2 h
    have h3 := (h1.2.2 p i hk).2
    grind

/-- The same of two that name no register. -/
theorem Dev.Changes.then {b d e : Dev} (h1 : Dev.Changes [] [] b d) (h2 : Dev.Changes [] [] d e) : Dev.Changes [] [] b e :=
  h1.trans (by simp) h2

theorem Dev.Changes.pwr (d : Dev) (x : PowerSt) : Dev.Changes [] [] d { d with pwr := x } :=
  have np : ∀ p i, Dev.pend { d with pwr := x } p i = d.pend p i := fun _ _ => rfl
  ⟨⟨rfl, fun _ => ⟨rfl, rfl, rfl⟩⟩, fun _ _ _ _ _ => rfl,
    fun p i _ => ⟨fun h => by simpa [np] using h, fun h => by rw [np] at h; simp [h]⟩⟩

/-- Writing a wake register. -/
theorem Dev.Changes.put (d : Dev) (q : Nat) (x : Word) (hq : q ∈ wakeKeys) (hp : ∀ p, q ≠ rkey p 0x014) :
    Dev.Changes [] [] d { d with regs := d.regs.put q x } := by
  have np : ∀ p i, Dev.pend { d with regs := d.regs.put q x } p i = d.pend p i := fun p i =>
    congrArg (fun w : Word => bit w.toNat i) (Regs.word_put_ne _ _ (hp p).symm)
  refine ⟨⟨rfl, fun _ => ⟨rfl, rfl, rfl⟩⟩, fun k _ hw _ _ => Regs.word_put_ne _ _ fun e => hw (e ▸ hq), fun p i _ => ?_⟩
  rw [np]
  exact ⟨fun h => by simpa using h, fun h => by simp [h]⟩

theorem Dev.Changes.wr (d : Dev) (pg : Nat) (f : Fld) (v i j k : Nat) (hq : f.key pg i k ∈ wakeKeys)
    (hp : ∀ p, f.key pg i k ≠ rkey p 0x014) : Dev.Changes [] [] d (d.wr pg f v i j k) := .put _ _ _ hq hp

theorem Dev.Changes.foldl {α : Type} (f : Dev → α → Dev) (l : List α) (h : ∀ d, ∀ x ∈ l, Dev.Changes [] [] d (f d x)) (d : Dev) :
    Dev.Changes [] [] d (l.foldl f d) := by
  induction l generalizing d with
  | nil => exact .refl d
  | cons x l ih => exact (h d x (by simp)).then (ih (fun d y hy => h d y (by simp [hy])) _)

theorem Dev.Changes.raise (d : Dev) (pg x : Nat) (he : (pg, x) ∈ wakeEvs) : Dev.Changes [] [] d (d.raise pg x) := by
  have hx : x < 32 := by simp [wakeEvs] at he; omega
  have hpg : rkey pg 0x014 ∈ wakeKeys := by
    simp [wakeEvs] at he
    rcases he with ⟨rfl, _⟩ | ⟨rfl, _⟩ | ⟨rfl, _⟩ | ⟨rfl, _⟩ | ⟨rfl, _⟩ | ⟨rfl, _⟩ <;> decide
  have sub : ∀ k, k ∉ wakeKeys → k ∉ raiseKeys := by
    intro k hk hr
    refine hk ?_
    simp only [raiseKeys, List.mem_cons, List.not_mem_nil, or_false] at hr
    rcases hr with rfl | rfl | rfl | rfl <;> decide
  refine ⟨(Dev.raise_rest ..).toRest (Dev.raise_kept _ _ _), fun k _ hw hl hp => ?_, fun p i _ => ⟨?_, ?_⟩⟩
  · rw [Dev.raise_word _ _ _ (sub k hw) hl, if_neg (hp pg)]
  · intro h
    rcases Dev.raise_pend d pg x p i hx with e | e <;> rw [e] <;> simp at h <;> simp [h]
  · intro h
    have he : wakeEvs.contains (pg, x) = true := by simpa using he
    have hw : wakeEvs.contains (1, 0) = true := by decide
    rcases Dev.raise_pend d pg x p i hx with e | e <;> rw [e] at h <;> simp only [Bool.or_eq_true, decide_eq_true_eq] at h ⊢ <;> grind

/-- A standing condition shows (R381). -/
theorem Dev.Changes.cond (d : Dev) (pg x : Nat) (c : Bool) (he : (pg, x) ∈ wakeEvs) : Dev.Changes [] [] d (d.cond pg x c) := by
  have hk : rkey pg 0x00C ∈ wakeKeys := by
    simp [wakeEvs] at he
    rcases he with ⟨rfl, _⟩ | ⟨rfl, _⟩ | ⟨rfl, _⟩ | ⟨rfl, _⟩ | ⟨rfl, _⟩ | ⟨rfl, _⟩ <;> decide
  have hp : ∀ p, rkey pg 0x00C ≠ rkey p 0x014 := fun p => rkey_ne_off (by decide) (by decide) (by decide)
  unfold Dev.cond
  dsimp only
  split
  · exact .refl d
  · split
    · exact (Dev.Changes.put d _ _ hk hp).then (.raise _ _ _ he)
    · exact .put d _ _ hk hp

/-! ### The Moot -/

theorem Dev.Changes.setDom (d : Dev) (n st : Nat) (hn : n < 16) : Dev.Changes [] [] d (d.setDom n st) := by
  have hk : MOOT.DOM_STAT_STATE.key MOOT.pg (n / 8) 0 = rkey 1 0x100 ∨ MOOT.DOM_STAT_STATE.key MOOT.pg (n / 8) 0 = rkey 1 0x104 := by
    have : n / 8 = 0 ∨ n / 8 = 1 := by omega
    rcases this with e | e <;> rw [e]
    · exact .inl rfl
    · exact .inr rfl
  unfold Dev.setDom
  apply Dev.Changes.wr
  · rcases hk with e | e <;> rw [e] <;> decide
  · intro p
    rcases hk with e | e <;> rw [e] <;> exact rkey_ne_off (by decide) (by decide) (by decide)

theorem Dev.Changes.setDomRec (d : Dev) (n : Nat) (x : Dom) : Dev.Changes [] [] d (d.setDomRec n x) := .pwr d _

theorem Dev.Changes.putVotes (d : Dev) : Dev.Changes [] [] d d.putVotes := by
  apply Dev.Changes.foldl
  intro d i hi
  have hk : MOOT.VOTE_HW_DOMS.key MOOT.pg i 0 = rkey 1 (0x050 + 4 * i) := by
    show 0x1000 + (0x050 + i * 4 + 0 * 4) = 1 * 0x1000 + (0x050 + 4 * i)
    omega
  simp only [List.mem_range] at hi
  apply Dev.Changes.wr
  · rw [hk]
    have : i = 0 ∨ i = 1 ∨ i = 2 ∨ i = 3 ∨ i = 4 ∨ i = 5 ∨ i = 6 ∨ i = 7 := by omega
    rcases this with rfl | rfl | rfl | rfl | rfl | rfl | rfl | rfl <;> decide
  · intro p
    rw [hk]
    exact rkey_ne_off (by omega) (by decide) (by omega)

theorem Dev.Changes.startFirc (d : Dev) : Dev.Changes [] [] d d.startFirc := by
  unfold Dev.startFirc
  split
  · exact .refl d
  · exact .pwr d _

theorem Dev.Changes.startWake (d : Dev) (n : Nat) (hn : n < 16) : Dev.Changes [] [] d (d.startWake n) := by
  have h := ((Dev.Changes.setDomRec d n ⟨false, false, 1, 0⟩).then (.setDom _ n 1 hn)).then (.startFirc _)
  unfold Dev.startWake
  dsimp only
  split
  · exact h.then (.pwr _ _)
  · exact h

theorem Dev.Changes.follow (d : Dev) (n : Nat) (hn : n < 16) : Dev.Changes [] [] d (d.follow n) := by
  unfold Dev.follow
  dsimp only
  repeat' split
  all_goals first
    | exact .refl d
    | exact .startWake d n hn
    | exact .setDom d n _ hn
    | exact (Dev.Changes.setDomRec d n _).then (.setDom _ n _ hn)

theorem Dev.Changes.fircFollow (d : Dev) : Dev.Changes [] [] d d.fircFollow := by
  have h := Dev.Changes.wr d CLOCK.pg CLOCK.OSC_STAT_FIRC_READY 0 0 0 0 (by decide)
    fun p => rkey_ne_off (a := 2) (o := 0x040) (by decide) (by decide) (by decide)
  unfold Dev.fircFollow
  repeat' split
  · exact .refl d
  · exact .startFirc d
  · exact h
  · exact h.then (.pwr _ _)

theorem Dev.Changes.mootRound (d : Dev) : Dev.Changes [] [] d d.mootRound :=
  (Dev.Changes.putVotes d).then (.foldl _ _ (fun d k hk => .follow d (k + 1) (by simp only [List.mem_range] at hk; omega)) _)

/-- The Moot changes only the domains' state and what shows it. -/
theorem Dev.Changes.moot (d : Dev) : Dev.Changes [] [] d d.moot :=
  ((((Dev.Changes.mootRound d).then (.mootRound _)).then (.mootRound _)).then (.fircFollow _)).then (.cond _ _ _ _ (by decide))

/-! ### Settling -/

theorem Dev.Changes.showConds (d : Dev) : Dev.Changes [] [] d d.showConds :=
  ((((Dev.Changes.cond d _ _ _ (by decide)).then (.cond _ _ _ _ (by decide))).then (.cond _ _ _ _ (by decide))).then
    (.cond _ _ _ _ (by decide))).then (.cond _ _ _ _ (by decide))

/-- Settling changes only the wake registers, the power state and requests. -/
theorem Dev.Changes.settle (d0 d : Dev) : Dev.Changes [] [] d (Dev.settle d0 d) := by
  unfold Dev.settle
  split
  · exact .refl d
  · exact ((Dev.Changes.showConds d).then (.moot _)).then (.showConds _)

/-- Registers on which the standing conditions and the holds depend. -/
def standKeys : List Nat :=
  [rkey 0x01 0x00C, rkey 0x01 0x084, rkey 0x01 0x100, rkey 0x01 0x104, rkey 0x02 0x00C, rkey 0x02 0x040, rkey 0x24 0x00C,
    rkey 0x03 0x1F0, rkey 0x03 0x1F8]

theorem Dev.dom_congr {d d' : Dev} (h : ∀ k ∈ standKeys, d'.regs.word k = d.regs.word k) (n : Nat) (hn : n < 16) :
    d'.dom n = d.dom n := by
  unfold Dev.dom
  apply Dev.rd_congr
  have : n / 8 = 0 ∨ n / 8 = 1 := by omega
  rcases this with e | e <;> rw [e]
  · exact h (rkey 1 0x100) (by decide)
  · exact h (rkey 1 0x104) (by decide)

/-- A device is settled when another with the same standing registers is. -/
theorem Dev.settled_congr {d d' : Dev} (h : ∀ k ∈ standKeys, d'.regs.word k = d.regs.word k) : d'.settled = d.settled := by
  have ha : d'.anyFailed = d.anyFailed := by
    unfold Dev.anyFailed
    rw [Bool.eq_iff_iff]
    simp only [List.any_eq_true, List.mem_range]
    constructor <;> rintro ⟨n, hn, he⟩ <;> refine ⟨n, hn, ?_⟩
    · rwa [← Dev.dom_congr h n hn]
    · rwa [Dev.dom_congr h n hn]
  have hf : ∀ (pg : Nat) (f : Fld), f.key pg 0 0 ∈ standKeys → d'.on pg f = d.on pg f := fun pg f hk => by
    unfold Dev.on
    rw [Dev.rd_congr (h _ hk)]
  have hw : ∀ pg, rkey pg 0x00C ∈ standKeys → d'.word pg 0x00C = d.word pg 0x00C := fun pg hk => h _ hk
  simp only [Dev.settled, Dev.standing, List.all_cons, List.all_nil, ha, hf CLOCK.pg CLOCK.OSC_STAT_FIRC_FAILED (by decide),
    hf CLOCK.pg CLOCK.OSC_STAT_XT32_OK (by decide), hf AOBB.pg AOBB.NV_INTR_VALID (by decide),
    hf AOBB.pg AOBB.BB_STAT_VALID (by decide), hw MOOT.pg (by decide), hw CLOCK.pg (by decide), hw GRANARY.pg (by decide)]

/-- A command that leaves the standing registers alone settles at once. -/
theorem Dev.settle_same {d0 d : Dev} (hs : d0.settled = true) (h : ∀ k ∈ standKeys, d.regs.word k = d0.regs.word k) :
    Dev.settle d0 d = d := by
  unfold Dev.settle
  rw [Dev.settled_congr h, hs]
  have : d.rd MOOT.pg MOOT.WAKE_HOLD_DOMS = d0.rd MOOT.pg MOOT.WAKE_HOLD_DOMS := Dev.rd_congr (h (rkey 1 0x084) (by decide))
  simp [this]

end Sys2Proof.Machine
end

