-- ==== Sys2Proof/Laws/Finish.lean ====
section
/-! SUPPORT. From what a meaning's body does to what the command does: `finish` settles the device, which leaves all but the
wake registers as the body has them. -/

namespace Sys2Proof.Machine

/-- A register that settling leaves alone. -/
def Untouched (k : Nat) : Prop := k ∉ wakeKeys ∧ ∀ p, k ≠ rkey p 0x014

/-- Every command answers a next state, leaves the queue, and settles. -/
theorem finish_next (f : Dev → Dev) (s : State) : finish f s = .next { s with dev := Dev.settle s.dev (f s.dev) } := rfl

/-- Registers outside the wake logic read after a command as its body left them, the link state when the body leaves it outside L1. -/
theorem settle_word (d0 d : Dev) {k : Nat} (h : Untouched k) (hl : d.OffLink k) : (Dev.settle d0 d).regs.word k = d.regs.word k :=
  (Dev.Changes.settle d0 d).2.1 k (by simp) h.1 hl h.2

theorem settle_rd (d0 d : Dev) (pg : Nat) (f : Fld) (i j k : Nat) (h : Untouched (f.key pg i k)) (hl : d.OffLink (f.key pg i k)) :
    (Dev.settle d0 d).rd pg f i j k = d.rd pg f i j k := Dev.rd_congr (settle_word d0 d h hl)

/-- What lies outside registers, power and requests is after a command as its body left it. -/
theorem settle_rest (d0 d : Dev) : Dev.Rest d (Dev.settle d0 d) := (Dev.Changes.settle d0 d).1

theorem Dev.quiet_congr {b d : Dev} (h : ∀ k ∈ rkey 0x01 0x088 :: standKeys, d.regs.word k = b.regs.word k) : d.quiet ↔ b.quiet := by
  have h1 : d.rd MOOT.pg MOOT.WAKE_EN_EVENT = b.rd MOOT.pg MOOT.WAKE_EN_EVENT := Dev.rd_congr (h (rkey 1 0x088) (by simp))
  have h2 : d.settled = b.settled := Dev.settled_congr fun k hk => h k (by simp [hk])
  simp only [Dev.quiet, h1, h2]

theorem standKeys_not_pend : ∀ k ∈ standKeys, k ≠ heldKey ∧ k ≠ linkKey ∧ ∀ p, k ≠ rkey p 0x014 := by
  intro k hk
  refine ⟨?_, ?_, ?_⟩
  · rintro rfl
    exact absurd hk (by decide)
  · rintro rfl
    exact absurd hk (by decide)
  · intro p
    simp only [standKeys, List.mem_cons, List.not_mem_nil, or_false] at hk
    rcases hk with rfl | rfl | rfl | rfl | rfl | rfl | rfl | rfl | rfl <;>
      exact rkey_ne_off (by decide) (by decide) (by decide)

theorem Dev.Pre.changes {ks : List Nat} {evs : List (Nat × Nat)} {b d : Dev} (h : Dev.Pre ks evs b d) (hlk : linkKey ∉ ks) :
    Dev.Changes ks evs b d := by
  refine ⟨h.rest.toRest (h.kept hlk), fun k hk hw hl hp => h.words k hk (.inr ⟨fun hr => hw ?_, hl⟩) hp,
    fun p i hk => ⟨h.pend p i hk, h.pendOnly p i hk⟩⟩
  simp only [raiseKeys, List.mem_cons, List.not_mem_nil, or_false] at hr
  rcases hr with rfl | rfl | rfl | rfl <;> decide

/-- The frame of a command whose body has frame `Pre`, when the body writes no standing register and not the link state. -/
theorem Dev.Pre.only {ks : List Nat} {evs : List (Nat × Nat)} {b d0 d : Dev} (h : Dev.Pre ks evs b d) (hb : b.regs = d0.regs)
    (hlk : linkKey ∉ ks) (hs : ∀ k ∈ rkey 0x01 0x088 :: standKeys, k ∉ ks) : Dev.Only ks evs b (Dev.settle d0 d) := by
  refine ⟨(h.changes hlk).trans hlk (.settle d0 d), fun hq => ?_⟩
  have h88 : rkey 0x01 0x088 ∉ ks := hs _ (by simp)
  have hq0 : d0.settled = true := ((Dev.quiet_congr (b := b) fun k _ => by rw [hb]).mpr hq).2
  have same : Dev.settle d0 d = d := by
    refine Dev.settle_same hq0 fun k hk => ?_
    rw [← hb]
    have hn := standKeys_not_pend k hk
    exact h.quietWords h88 hq.1 k (hs k (by simp [hk])) (.inr ⟨hn.1, .inr hn.2.1⟩) hn.2.2
  rw [same]
  exact ⟨by rw [h.rest], h.host, h.quietWords h88 hq.1, h.quietPend h88 hq.1⟩

/-- A command whose body is f runs with the frame of f. -/
theorem ran_of_pre {c : Instr} {s : State} {f : Dev → Dev} {ks : List Nat} {evs : List (Nat × Nat)} {b : Dev} {P : Dev → Prop}
    (he : exec c s = finish f s) (h : Dev.Pre ks evs b (f s.dev)) (hb : b.regs = s.dev.regs)
    (hlk : linkKey ∉ ks) (hs : ∀ k ∈ rkey 0x01 0x088 :: standKeys, k ∉ ks) (hP : P (Dev.settle s.dev (f s.dev))) :
    Ran c s fun d => P d ∧ Dev.Only ks evs b d :=
  ⟨_, he, rfl, hP, h.only hb hlk hs⟩

/-- A command without a frame of its own. -/
theorem ran_of {c : Instr} {s : State} {f : Dev → Dev} {P : Dev → Prop} (he : exec c s = finish f s)
    (hP : P (Dev.settle s.dev (f s.dev))) : Ran c s P := ⟨_, he, rfl, hP⟩

end Sys2Proof.Machine
end

