-- ==== Sys2Proof/Laws/Host.lean ====
section
/-! SUPPORT. The way of a host request (R71, R73): the four things `hostDo` can do, and what a row of a register write comes to. -/

namespace Sys2Proof.Machine

/-- A request that is performed now does what its meaning says. -/
theorem Dev.hostDo_takes {d : Dev} {who : Req} (h : d.takes who = true) (c : Instr) (hdr : List Word) (posted : Bool) (f : Dev → Dev) :
    d.hostDo c who hdr posted f = f d := by
  have hl : d.inL1 = false → d.leaveL1 = d := Dev.leaveL1_off
  unfold Dev.takes at h
  unfold Dev.hostDo
  cases h1 : who == .filpor <;> cases h2 : d.host.serving <;> cases h3 : d.halted <;> cases h4 : d.hostFree <;>
    cases h5 : d.answers who.code <;> cases h6 : d.inL1 <;> simp_all

/-- A request is performed, at once or when the link has left L1; it does not arrive; it is answered as unsupported; or it waits. -/
theorem Dev.hostDo_cases (d : Dev) (c : Instr) (who : Req) (hdr : List Word) (posted : Bool) (f : Dev → Dev) :
    (d.takes who = true ∧ d.hostDo c who hdr posted f = f d) ∨
    (d.halted = true ∧ d.hostDo c who hdr posted f = d) ∨
    (d.halted = false ∧ d.leaveL1.answers who.code = false ∧
      d.hostDo c who hdr posted f = (d.leaveL1.aer who .unsupported hdr (!posted)).onlyIf (!posted) (·.replyStatus 1)) ∨
    (d.halted = false ∧ d.leaveL1.answers who.code = true ∧ d.leaveL1.hostFree = false ∧
      d.hostDo c who hdr posted f = { d.leaveL1 with host := { d.leaveL1.host with later := d.leaveL1.host.later ++ [c] } }) ∨
    (d.halted = false ∧ d.leaveL1.answers who.code = true ∧ d.leaveL1.hostFree = true ∧ d.hostDo c who hdr posted f = f d.leaveL1) := by
  unfold Dev.takes Dev.hostDo
  cases h1 : who == .filpor <;> cases h2 : d.host.serving <;> cases h3 : d.halted <;> cases h4 : d.leaveL1.answers who.code <;>
    cases h5 : d.leaveL1.hostFree <;> simp_all

/-- A row that writes a register, by a requester who is heard. -/
theorem hostWrite_takes {s : State} {a : Acc} (h : s.dev.takes a.who = true) (c : Instr) (f : Dev → Dev) :
    hostWrite c a f s = finish f s := by
  simp only [hostWrite, finish, Dev.hostDo_takes h]

/-- With the right to a register that is there, a guarded write does what its meaning says. -/
theorem Dev.guarded_right {d : Dev} {a : Acc} {pg off : Nat} (hr : regDefined pg off = true) (hm : d.mayWrite a.who pg = true)
    (f : Dev → Dev) : d.guarded a pg off f = f d := by
  simp [Dev.guarded, hr, hm]

/-- Without it the write is dropped and recorded (R50, R67). -/
theorem Dev.guarded_drop {d : Dev} {a : Acc} {pg off : Nat} (hr : regDefined pg off = true) (hm : d.mayWrite a.who pg = false)
    (f : Dev → Dev) : d.guarded a pg off f = d.privDrop a pg off := by
  simp [Dev.guarded, hr, hm]

end Sys2Proof.Machine
end

