-- ==== Sys2Proof/Laws/State.lean ====
section
/-! SUPPORT. What each named update of the device leaves as it was, field by field, and what it writes, read back. -/

namespace Sys2Proof.Machine

/-! ### putWord -/

@[simp] theorem Dev.putWord_sh (d : Dev) (pg off : Nat) (x : Word) : (d.putWord pg off x).sh = d.sh := rfl
@[simp] theorem Dev.putWord_froze (d : Dev) (pg off : Nat) (x : Word) : (d.putWord pg off x).froze = d.froze := rfl
@[simp] theorem Dev.putWord_groups (d : Dev) (pg off : Nat) (x : Word) : (d.putWord pg off x).groups = d.groups := rfl
@[simp] theorem Dev.putWord_pwr (d : Dev) (pg off : Nat) (x : Word) : (d.putWord pg off x).pwr = d.pwr := rfl
@[simp] theorem Dev.putWord_tm (d : Dev) (pg off : Nat) (x : Word) : (d.putWord pg off x).tm = d.tm := rfl
@[simp] theorem Dev.putWord_host (d : Dev) (pg off : Nat) (x : Word) : (d.putWord pg off x).host = d.host := rfl
@[simp] theorem Dev.putWord_bank (d : Dev) (pg off : Nat) (x : Word) : (d.putWord pg off x).bank = d.bank := rfl
@[simp] theorem Dev.putWord_reeve (d : Dev) (pg off : Nat) (x : Word) : (d.putWord pg off x).reeve = d.reeve := rfl
@[simp] theorem Dev.putWord_couch (d : Dev) (pg off : Nat) (x : Word) : (d.putWord pg off x).couch = d.couch := rfl
@[simp] theorem Dev.putWord_flt (d : Dev) (pg off : Nat) (x : Word) : (d.putWord pg off x).flt = d.flt := rfl
@[simp] theorem Dev.putWord_scan (d : Dev) (pg off : Nat) (x : Word) : (d.putWord pg off x).scan = d.scan := rfl
@[simp] theorem Dev.putWord_sync (d : Dev) (pg off : Nat) (x : Word) : (d.putWord pg off x).sync = d.sync := rfl
@[simp] theorem Dev.putWord_tone (d : Dev) (pg off : Nat) (x : Word) : (d.putWord pg off x).tone = d.tone := rfl
@[simp] theorem Dev.putWord_tithe (d : Dev) (pg off : Nat) (x : Word) : (d.putWord pg off x).tithe = d.tithe := rfl
@[simp] theorem Dev.putWord_cal (d : Dev) (pg off : Nat) (x : Word) : (d.putWord pg off x).cal = d.cal := rfl
@[simp] theorem Dev.putWord_aging (d : Dev) (pg off : Nat) (x : Word) : (d.putWord pg off x).aging = d.aging := rfl
@[simp] theorem Dev.putWord_tdl (d : Dev) (pg off : Nat) (x : Word) : (d.putWord pg off x).tdl = d.tdl := rfl
@[simp] theorem Dev.putWord_panel (d : Dev) (pg off : Nat) (x : Word) : (d.putWord pg off x).panel = d.panel := rfl
@[simp] theorem Dev.putWord_rects (d : Dev) (pg off : Nat) (x : Word) : (d.putWord pg off x).rects = d.rects := rfl
@[simp] theorem Dev.putWord_trim (d : Dev) (pg off : Nat) (x : Word) : (d.putWord pg off x).trim = d.trim := rfl
@[simp] theorem Dev.putWord_nv (d : Dev) (pg off : Nat) (x : Word) : (d.putWord pg off x).nv = d.nv := rfl
@[simp] theorem Dev.putWord_mgmt (d : Dev) (pg off : Nat) (x : Word) : (d.putWord pg off x).mgmt = d.mgmt := rfl
@[simp] theorem Dev.putWord_repair (d : Dev) (pg off : Nat) (x : Word) : (d.putWord pg off x).repair = d.repair := rfl
@[simp] theorem Dev.putWord_free (d : Dev) (pg off : Nat) (x : Word) : (d.putWord pg off x).free = d.free := rfl

/-! ### wr -/

@[simp] theorem Dev.wr_sh (d : Dev) (pg : Nat) (f : Fld) (v i j k : Nat) : (d.wr pg f v i j k).sh = d.sh := rfl
@[simp] theorem Dev.wr_froze (d : Dev) (pg : Nat) (f : Fld) (v i j k : Nat) : (d.wr pg f v i j k).froze = d.froze := rfl
@[simp] theorem Dev.wr_groups (d : Dev) (pg : Nat) (f : Fld) (v i j k : Nat) : (d.wr pg f v i j k).groups = d.groups := rfl
@[simp] theorem Dev.wr_pwr (d : Dev) (pg : Nat) (f : Fld) (v i j k : Nat) : (d.wr pg f v i j k).pwr = d.pwr := rfl
@[simp] theorem Dev.wr_tm (d : Dev) (pg : Nat) (f : Fld) (v i j k : Nat) : (d.wr pg f v i j k).tm = d.tm := rfl
@[simp] theorem Dev.wr_host (d : Dev) (pg : Nat) (f : Fld) (v i j k : Nat) : (d.wr pg f v i j k).host = d.host := rfl
@[simp] theorem Dev.wr_bank (d : Dev) (pg : Nat) (f : Fld) (v i j k : Nat) : (d.wr pg f v i j k).bank = d.bank := rfl
@[simp] theorem Dev.wr_reeve (d : Dev) (pg : Nat) (f : Fld) (v i j k : Nat) : (d.wr pg f v i j k).reeve = d.reeve := rfl
@[simp] theorem Dev.wr_couch (d : Dev) (pg : Nat) (f : Fld) (v i j k : Nat) : (d.wr pg f v i j k).couch = d.couch := rfl
@[simp] theorem Dev.wr_flt (d : Dev) (pg : Nat) (f : Fld) (v i j k : Nat) : (d.wr pg f v i j k).flt = d.flt := rfl
@[simp] theorem Dev.wr_scan (d : Dev) (pg : Nat) (f : Fld) (v i j k : Nat) : (d.wr pg f v i j k).scan = d.scan := rfl
@[simp] theorem Dev.wr_sync (d : Dev) (pg : Nat) (f : Fld) (v i j k : Nat) : (d.wr pg f v i j k).sync = d.sync := rfl
@[simp] theorem Dev.wr_tone (d : Dev) (pg : Nat) (f : Fld) (v i j k : Nat) : (d.wr pg f v i j k).tone = d.tone := rfl
@[simp] theorem Dev.wr_tithe (d : Dev) (pg : Nat) (f : Fld) (v i j k : Nat) : (d.wr pg f v i j k).tithe = d.tithe := rfl
@[simp] theorem Dev.wr_cal (d : Dev) (pg : Nat) (f : Fld) (v i j k : Nat) : (d.wr pg f v i j k).cal = d.cal := rfl
@[simp] theorem Dev.wr_aging (d : Dev) (pg : Nat) (f : Fld) (v i j k : Nat) : (d.wr pg f v i j k).aging = d.aging := rfl
@[simp] theorem Dev.wr_tdl (d : Dev) (pg : Nat) (f : Fld) (v i j k : Nat) : (d.wr pg f v i j k).tdl = d.tdl := rfl
@[simp] theorem Dev.wr_panel (d : Dev) (pg : Nat) (f : Fld) (v i j k : Nat) : (d.wr pg f v i j k).panel = d.panel := rfl
@[simp] theorem Dev.wr_rects (d : Dev) (pg : Nat) (f : Fld) (v i j k : Nat) : (d.wr pg f v i j k).rects = d.rects := rfl
@[simp] theorem Dev.wr_trim (d : Dev) (pg : Nat) (f : Fld) (v i j k : Nat) : (d.wr pg f v i j k).trim = d.trim := rfl
@[simp] theorem Dev.wr_nv (d : Dev) (pg : Nat) (f : Fld) (v i j k : Nat) : (d.wr pg f v i j k).nv = d.nv := rfl
@[simp] theorem Dev.wr_mgmt (d : Dev) (pg : Nat) (f : Fld) (v i j k : Nat) : (d.wr pg f v i j k).mgmt = d.mgmt := rfl
@[simp] theorem Dev.wr_repair (d : Dev) (pg : Nat) (f : Fld) (v i j k : Nat) : (d.wr pg f v i j k).repair = d.repair := rfl
@[simp] theorem Dev.wr_free (d : Dev) (pg : Nat) (f : Fld) (v i j k : Nat) : (d.wr pg f v i j k).free = d.free := rfl

/-! ### putViol -/

@[simp] theorem Dev.putViol_sh (d : Dev) (n w x : Nat) : (d.putViol n w x).sh = d.sh := rfl
@[simp] theorem Dev.putViol_froze (d : Dev) (n w x : Nat) : (d.putViol n w x).froze = d.froze := rfl
@[simp] theorem Dev.putViol_groups (d : Dev) (n w x : Nat) : (d.putViol n w x).groups = d.groups := rfl
@[simp] theorem Dev.putViol_pwr (d : Dev) (n w x : Nat) : (d.putViol n w x).pwr = d.pwr := rfl
@[simp] theorem Dev.putViol_tm (d : Dev) (n w x : Nat) : (d.putViol n w x).tm = d.tm := rfl
@[simp] theorem Dev.putViol_host (d : Dev) (n w x : Nat) : (d.putViol n w x).host = d.host := rfl
@[simp] theorem Dev.putViol_bank (d : Dev) (n w x : Nat) : (d.putViol n w x).bank = d.bank := rfl
@[simp] theorem Dev.putViol_reeve (d : Dev) (n w x : Nat) : (d.putViol n w x).reeve = d.reeve := rfl
@[simp] theorem Dev.putViol_couch (d : Dev) (n w x : Nat) : (d.putViol n w x).couch = d.couch := rfl
@[simp] theorem Dev.putViol_flt (d : Dev) (n w x : Nat) : (d.putViol n w x).flt = d.flt := rfl
@[simp] theorem Dev.putViol_scan (d : Dev) (n w x : Nat) : (d.putViol n w x).scan = d.scan := rfl
@[simp] theorem Dev.putViol_sync (d : Dev) (n w x : Nat) : (d.putViol n w x).sync = d.sync := rfl
@[simp] theorem Dev.putViol_tone (d : Dev) (n w x : Nat) : (d.putViol n w x).tone = d.tone := rfl
@[simp] theorem Dev.putViol_tithe (d : Dev) (n w x : Nat) : (d.putViol n w x).tithe = d.tithe := rfl
@[simp] theorem Dev.putViol_cal (d : Dev) (n w x : Nat) : (d.putViol n w x).cal = d.cal := rfl
@[simp] theorem Dev.putViol_aging (d : Dev) (n w x : Nat) : (d.putViol n w x).aging = d.aging := rfl
@[simp] theorem Dev.putViol_tdl (d : Dev) (n w x : Nat) : (d.putViol n w x).tdl = d.tdl := rfl
@[simp] theorem Dev.putViol_panel (d : Dev) (n w x : Nat) : (d.putViol n w x).panel = d.panel := rfl
@[simp] theorem Dev.putViol_rects (d : Dev) (n w x : Nat) : (d.putViol n w x).rects = d.rects := rfl
@[simp] theorem Dev.putViol_trim (d : Dev) (n w x : Nat) : (d.putViol n w x).trim = d.trim := rfl
@[simp] theorem Dev.putViol_nv (d : Dev) (n w x : Nat) : (d.putViol n w x).nv = d.nv := rfl
@[simp] theorem Dev.putViol_mgmt (d : Dev) (n w x : Nat) : (d.putViol n w x).mgmt = d.mgmt := rfl
@[simp] theorem Dev.putViol_repair (d : Dev) (n w x : Nat) : (d.putViol n w x).repair = d.repair := rfl
@[simp] theorem Dev.putViol_free (d : Dev) (n w x : Nat) : (d.putViol n w x).free = d.free := rfl

/-! ### putFault -/

@[simp] theorem Dev.putFault_sh (d : Dev) (n w x : Nat) : (d.putFault n w x).sh = d.sh := rfl
@[simp] theorem Dev.putFault_froze (d : Dev) (n w x : Nat) : (d.putFault n w x).froze = d.froze := rfl
@[simp] theorem Dev.putFault_groups (d : Dev) (n w x : Nat) : (d.putFault n w x).groups = d.groups := rfl
@[simp] theorem Dev.putFault_pwr (d : Dev) (n w x : Nat) : (d.putFault n w x).pwr = d.pwr := rfl
@[simp] theorem Dev.putFault_tm (d : Dev) (n w x : Nat) : (d.putFault n w x).tm = d.tm := rfl
@[simp] theorem Dev.putFault_host (d : Dev) (n w x : Nat) : (d.putFault n w x).host = d.host := rfl
@[simp] theorem Dev.putFault_bank (d : Dev) (n w x : Nat) : (d.putFault n w x).bank = d.bank := rfl
@[simp] theorem Dev.putFault_reeve (d : Dev) (n w x : Nat) : (d.putFault n w x).reeve = d.reeve := rfl
@[simp] theorem Dev.putFault_couch (d : Dev) (n w x : Nat) : (d.putFault n w x).couch = d.couch := rfl
@[simp] theorem Dev.putFault_flt (d : Dev) (n w x : Nat) : (d.putFault n w x).flt = d.flt := rfl
@[simp] theorem Dev.putFault_scan (d : Dev) (n w x : Nat) : (d.putFault n w x).scan = d.scan := rfl
@[simp] theorem Dev.putFault_sync (d : Dev) (n w x : Nat) : (d.putFault n w x).sync = d.sync := rfl
@[simp] theorem Dev.putFault_tone (d : Dev) (n w x : Nat) : (d.putFault n w x).tone = d.tone := rfl
@[simp] theorem Dev.putFault_tithe (d : Dev) (n w x : Nat) : (d.putFault n w x).tithe = d.tithe := rfl
@[simp] theorem Dev.putFault_cal (d : Dev) (n w x : Nat) : (d.putFault n w x).cal = d.cal := rfl
@[simp] theorem Dev.putFault_aging (d : Dev) (n w x : Nat) : (d.putFault n w x).aging = d.aging := rfl
@[simp] theorem Dev.putFault_tdl (d : Dev) (n w x : Nat) : (d.putFault n w x).tdl = d.tdl := rfl
@[simp] theorem Dev.putFault_panel (d : Dev) (n w x : Nat) : (d.putFault n w x).panel = d.panel := rfl
@[simp] theorem Dev.putFault_rects (d : Dev) (n w x : Nat) : (d.putFault n w x).rects = d.rects := rfl
@[simp] theorem Dev.putFault_trim (d : Dev) (n w x : Nat) : (d.putFault n w x).trim = d.trim := rfl
@[simp] theorem Dev.putFault_nv (d : Dev) (n w x : Nat) : (d.putFault n w x).nv = d.nv := rfl
@[simp] theorem Dev.putFault_mgmt (d : Dev) (n w x : Nat) : (d.putFault n w x).mgmt = d.mgmt := rfl
@[simp] theorem Dev.putFault_repair (d : Dev) (n w x : Nat) : (d.putFault n w x).repair = d.repair := rfl
@[simp] theorem Dev.putFault_free (d : Dev) (n w x : Nat) : (d.putFault n w x).free = d.free := rfl

/-! ### setGrp -/

@[simp] theorem Dev.setGrp_regs (d : Dev) (g : Nat) (x : GroupSt) : (d.setGrp g x).regs = d.regs := rfl
@[simp] theorem Dev.setGrp_sh (d : Dev) (g : Nat) (x : GroupSt) : (d.setGrp g x).sh = d.sh := rfl
@[simp] theorem Dev.setGrp_froze (d : Dev) (g : Nat) (x : GroupSt) : (d.setGrp g x).froze = d.froze := rfl
@[simp] theorem Dev.setGrp_pwr (d : Dev) (g : Nat) (x : GroupSt) : (d.setGrp g x).pwr = d.pwr := rfl
@[simp] theorem Dev.setGrp_tm (d : Dev) (g : Nat) (x : GroupSt) : (d.setGrp g x).tm = d.tm := rfl
@[simp] theorem Dev.setGrp_host (d : Dev) (g : Nat) (x : GroupSt) : (d.setGrp g x).host = d.host := rfl
@[simp] theorem Dev.setGrp_bank (d : Dev) (g : Nat) (x : GroupSt) : (d.setGrp g x).bank = d.bank := rfl
@[simp] theorem Dev.setGrp_reeve (d : Dev) (g : Nat) (x : GroupSt) : (d.setGrp g x).reeve = d.reeve := rfl
@[simp] theorem Dev.setGrp_couch (d : Dev) (g : Nat) (x : GroupSt) : (d.setGrp g x).couch = d.couch := rfl
@[simp] theorem Dev.setGrp_flt (d : Dev) (g : Nat) (x : GroupSt) : (d.setGrp g x).flt = d.flt := rfl
@[simp] theorem Dev.setGrp_scan (d : Dev) (g : Nat) (x : GroupSt) : (d.setGrp g x).scan = d.scan := rfl
@[simp] theorem Dev.setGrp_sync (d : Dev) (g : Nat) (x : GroupSt) : (d.setGrp g x).sync = d.sync := rfl
@[simp] theorem Dev.setGrp_tone (d : Dev) (g : Nat) (x : GroupSt) : (d.setGrp g x).tone = d.tone := rfl
@[simp] theorem Dev.setGrp_tithe (d : Dev) (g : Nat) (x : GroupSt) : (d.setGrp g x).tithe = d.tithe := rfl
@[simp] theorem Dev.setGrp_cal (d : Dev) (g : Nat) (x : GroupSt) : (d.setGrp g x).cal = d.cal := rfl
@[simp] theorem Dev.setGrp_aging (d : Dev) (g : Nat) (x : GroupSt) : (d.setGrp g x).aging = d.aging := rfl
@[simp] theorem Dev.setGrp_tdl (d : Dev) (g : Nat) (x : GroupSt) : (d.setGrp g x).tdl = d.tdl := rfl
@[simp] theorem Dev.setGrp_panel (d : Dev) (g : Nat) (x : GroupSt) : (d.setGrp g x).panel = d.panel := rfl
@[simp] theorem Dev.setGrp_rects (d : Dev) (g : Nat) (x : GroupSt) : (d.setGrp g x).rects = d.rects := rfl
@[simp] theorem Dev.setGrp_trim (d : Dev) (g : Nat) (x : GroupSt) : (d.setGrp g x).trim = d.trim := rfl
@[simp] theorem Dev.setGrp_nv (d : Dev) (g : Nat) (x : GroupSt) : (d.setGrp g x).nv = d.nv := rfl
@[simp] theorem Dev.setGrp_mgmt (d : Dev) (g : Nat) (x : GroupSt) : (d.setGrp g x).mgmt = d.mgmt := rfl
@[simp] theorem Dev.setGrp_repair (d : Dev) (g : Nat) (x : GroupSt) : (d.setGrp g x).repair = d.repair := rfl
@[simp] theorem Dev.setGrp_free (d : Dev) (g : Nat) (x : GroupSt) : (d.setGrp g x).free = d.free := rfl

/-! ### setDomRec -/

@[simp] theorem Dev.setDomRec_regs (d : Dev) (n : Nat) (x : Dom) : (d.setDomRec n x).regs = d.regs := rfl
@[simp] theorem Dev.setDomRec_sh (d : Dev) (n : Nat) (x : Dom) : (d.setDomRec n x).sh = d.sh := rfl
@[simp] theorem Dev.setDomRec_froze (d : Dev) (n : Nat) (x : Dom) : (d.setDomRec n x).froze = d.froze := rfl
@[simp] theorem Dev.setDomRec_groups (d : Dev) (n : Nat) (x : Dom) : (d.setDomRec n x).groups = d.groups := rfl
@[simp] theorem Dev.setDomRec_tm (d : Dev) (n : Nat) (x : Dom) : (d.setDomRec n x).tm = d.tm := rfl
@[simp] theorem Dev.setDomRec_host (d : Dev) (n : Nat) (x : Dom) : (d.setDomRec n x).host = d.host := rfl
@[simp] theorem Dev.setDomRec_bank (d : Dev) (n : Nat) (x : Dom) : (d.setDomRec n x).bank = d.bank := rfl
@[simp] theorem Dev.setDomRec_reeve (d : Dev) (n : Nat) (x : Dom) : (d.setDomRec n x).reeve = d.reeve := rfl
@[simp] theorem Dev.setDomRec_couch (d : Dev) (n : Nat) (x : Dom) : (d.setDomRec n x).couch = d.couch := rfl
@[simp] theorem Dev.setDomRec_flt (d : Dev) (n : Nat) (x : Dom) : (d.setDomRec n x).flt = d.flt := rfl
@[simp] theorem Dev.setDomRec_scan (d : Dev) (n : Nat) (x : Dom) : (d.setDomRec n x).scan = d.scan := rfl
@[simp] theorem Dev.setDomRec_sync (d : Dev) (n : Nat) (x : Dom) : (d.setDomRec n x).sync = d.sync := rfl
@[simp] theorem Dev.setDomRec_tone (d : Dev) (n : Nat) (x : Dom) : (d.setDomRec n x).tone = d.tone := rfl
@[simp] theorem Dev.setDomRec_tithe (d : Dev) (n : Nat) (x : Dom) : (d.setDomRec n x).tithe = d.tithe := rfl
@[simp] theorem Dev.setDomRec_cal (d : Dev) (n : Nat) (x : Dom) : (d.setDomRec n x).cal = d.cal := rfl
@[simp] theorem Dev.setDomRec_aging (d : Dev) (n : Nat) (x : Dom) : (d.setDomRec n x).aging = d.aging := rfl
@[simp] theorem Dev.setDomRec_tdl (d : Dev) (n : Nat) (x : Dom) : (d.setDomRec n x).tdl = d.tdl := rfl
@[simp] theorem Dev.setDomRec_panel (d : Dev) (n : Nat) (x : Dom) : (d.setDomRec n x).panel = d.panel := rfl
@[simp] theorem Dev.setDomRec_rects (d : Dev) (n : Nat) (x : Dom) : (d.setDomRec n x).rects = d.rects := rfl
@[simp] theorem Dev.setDomRec_trim (d : Dev) (n : Nat) (x : Dom) : (d.setDomRec n x).trim = d.trim := rfl
@[simp] theorem Dev.setDomRec_nv (d : Dev) (n : Nat) (x : Dom) : (d.setDomRec n x).nv = d.nv := rfl
@[simp] theorem Dev.setDomRec_mgmt (d : Dev) (n : Nat) (x : Dom) : (d.setDomRec n x).mgmt = d.mgmt := rfl
@[simp] theorem Dev.setDomRec_repair (d : Dev) (n : Nat) (x : Dom) : (d.setDomRec n x).repair = d.repair := rfl
@[simp] theorem Dev.setDomRec_free (d : Dev) (n : Nat) (x : Dom) : (d.setDomRec n x).free = d.free := rfl

/-! ### setFn -/

@[simp] theorem Dev.setFn_regs (d : Dev) (f : Nat) (x : Fn) : (d.setFn f x).regs = d.regs := rfl
@[simp] theorem Dev.setFn_sh (d : Dev) (f : Nat) (x : Fn) : (d.setFn f x).sh = d.sh := rfl
@[simp] theorem Dev.setFn_froze (d : Dev) (f : Nat) (x : Fn) : (d.setFn f x).froze = d.froze := rfl
@[simp] theorem Dev.setFn_groups (d : Dev) (f : Nat) (x : Fn) : (d.setFn f x).groups = d.groups := rfl
@[simp] theorem Dev.setFn_pwr (d : Dev) (f : Nat) (x : Fn) : (d.setFn f x).pwr = d.pwr := rfl
@[simp] theorem Dev.setFn_tm (d : Dev) (f : Nat) (x : Fn) : (d.setFn f x).tm = d.tm := rfl
@[simp] theorem Dev.setFn_bank (d : Dev) (f : Nat) (x : Fn) : (d.setFn f x).bank = d.bank := rfl
@[simp] theorem Dev.setFn_reeve (d : Dev) (f : Nat) (x : Fn) : (d.setFn f x).reeve = d.reeve := rfl
@[simp] theorem Dev.setFn_couch (d : Dev) (f : Nat) (x : Fn) : (d.setFn f x).couch = d.couch := rfl
@[simp] theorem Dev.setFn_flt (d : Dev) (f : Nat) (x : Fn) : (d.setFn f x).flt = d.flt := rfl
@[simp] theorem Dev.setFn_scan (d : Dev) (f : Nat) (x : Fn) : (d.setFn f x).scan = d.scan := rfl
@[simp] theorem Dev.setFn_sync (d : Dev) (f : Nat) (x : Fn) : (d.setFn f x).sync = d.sync := rfl
@[simp] theorem Dev.setFn_tone (d : Dev) (f : Nat) (x : Fn) : (d.setFn f x).tone = d.tone := rfl
@[simp] theorem Dev.setFn_tithe (d : Dev) (f : Nat) (x : Fn) : (d.setFn f x).tithe = d.tithe := rfl
@[simp] theorem Dev.setFn_cal (d : Dev) (f : Nat) (x : Fn) : (d.setFn f x).cal = d.cal := rfl
@[simp] theorem Dev.setFn_aging (d : Dev) (f : Nat) (x : Fn) : (d.setFn f x).aging = d.aging := rfl
@[simp] theorem Dev.setFn_tdl (d : Dev) (f : Nat) (x : Fn) : (d.setFn f x).tdl = d.tdl := rfl
@[simp] theorem Dev.setFn_panel (d : Dev) (f : Nat) (x : Fn) : (d.setFn f x).panel = d.panel := rfl
@[simp] theorem Dev.setFn_rects (d : Dev) (f : Nat) (x : Fn) : (d.setFn f x).rects = d.rects := rfl
@[simp] theorem Dev.setFn_trim (d : Dev) (f : Nat) (x : Fn) : (d.setFn f x).trim = d.trim := rfl
@[simp] theorem Dev.setFn_nv (d : Dev) (f : Nat) (x : Fn) : (d.setFn f x).nv = d.nv := rfl
@[simp] theorem Dev.setFn_mgmt (d : Dev) (f : Nat) (x : Fn) : (d.setFn f x).mgmt = d.mgmt := rfl
@[simp] theorem Dev.setFn_repair (d : Dev) (f : Nat) (x : Fn) : (d.setFn f x).repair = d.repair := rfl
@[simp] theorem Dev.setFn_free (d : Dev) (f : Nat) (x : Fn) : (d.setFn f x).free = d.free := rfl

/-! ### putByte -/

@[simp] theorem Dev.putByte_regs (d : Dev) (da : Nat) (b : Byte) : (d.putByte da b).regs = d.regs := rfl
@[simp] theorem Dev.putByte_sh (d : Dev) (da : Nat) (b : Byte) : (d.putByte da b).sh = d.sh := rfl
@[simp] theorem Dev.putByte_froze (d : Dev) (da : Nat) (b : Byte) : (d.putByte da b).froze = d.froze := rfl
@[simp] theorem Dev.putByte_groups (d : Dev) (da : Nat) (b : Byte) : (d.putByte da b).groups = d.groups := rfl
@[simp] theorem Dev.putByte_pwr (d : Dev) (da : Nat) (b : Byte) : (d.putByte da b).pwr = d.pwr := rfl
@[simp] theorem Dev.putByte_tm (d : Dev) (da : Nat) (b : Byte) : (d.putByte da b).tm = d.tm := rfl
@[simp] theorem Dev.putByte_host (d : Dev) (da : Nat) (b : Byte) : (d.putByte da b).host = d.host := rfl
@[simp] theorem Dev.putByte_reeve (d : Dev) (da : Nat) (b : Byte) : (d.putByte da b).reeve = d.reeve := rfl
@[simp] theorem Dev.putByte_couch (d : Dev) (da : Nat) (b : Byte) : (d.putByte da b).couch = d.couch := rfl
@[simp] theorem Dev.putByte_flt (d : Dev) (da : Nat) (b : Byte) : (d.putByte da b).flt = d.flt := rfl
@[simp] theorem Dev.putByte_scan (d : Dev) (da : Nat) (b : Byte) : (d.putByte da b).scan = d.scan := rfl
@[simp] theorem Dev.putByte_sync (d : Dev) (da : Nat) (b : Byte) : (d.putByte da b).sync = d.sync := rfl
@[simp] theorem Dev.putByte_tone (d : Dev) (da : Nat) (b : Byte) : (d.putByte da b).tone = d.tone := rfl
@[simp] theorem Dev.putByte_tithe (d : Dev) (da : Nat) (b : Byte) : (d.putByte da b).tithe = d.tithe := rfl
@[simp] theorem Dev.putByte_cal (d : Dev) (da : Nat) (b : Byte) : (d.putByte da b).cal = d.cal := rfl
@[simp] theorem Dev.putByte_aging (d : Dev) (da : Nat) (b : Byte) : (d.putByte da b).aging = d.aging := rfl
@[simp] theorem Dev.putByte_tdl (d : Dev) (da : Nat) (b : Byte) : (d.putByte da b).tdl = d.tdl := rfl
@[simp] theorem Dev.putByte_panel (d : Dev) (da : Nat) (b : Byte) : (d.putByte da b).panel = d.panel := rfl
@[simp] theorem Dev.putByte_rects (d : Dev) (da : Nat) (b : Byte) : (d.putByte da b).rects = d.rects := rfl
@[simp] theorem Dev.putByte_trim (d : Dev) (da : Nat) (b : Byte) : (d.putByte da b).trim = d.trim := rfl
@[simp] theorem Dev.putByte_nv (d : Dev) (da : Nat) (b : Byte) : (d.putByte da b).nv = d.nv := rfl
@[simp] theorem Dev.putByte_mgmt (d : Dev) (da : Nat) (b : Byte) : (d.putByte da b).mgmt = d.mgmt := rfl
@[simp] theorem Dev.putByte_repair (d : Dev) (da : Nat) (b : Byte) : (d.putByte da b).repair = d.repair := rfl
@[simp] theorem Dev.putByte_free (d : Dev) (da : Nat) (b : Byte) : (d.putByte da b).free = d.free := rfl

/-! ### setBankRec -/

@[simp] theorem Dev.setBankRec_regs (d : Dev) (b : Nat) (x : Bank) : (d.setBankRec b x).regs = d.regs := rfl
@[simp] theorem Dev.setBankRec_sh (d : Dev) (b : Nat) (x : Bank) : (d.setBankRec b x).sh = d.sh := rfl
@[simp] theorem Dev.setBankRec_froze (d : Dev) (b : Nat) (x : Bank) : (d.setBankRec b x).froze = d.froze := rfl
@[simp] theorem Dev.setBankRec_groups (d : Dev) (b : Nat) (x : Bank) : (d.setBankRec b x).groups = d.groups := rfl
@[simp] theorem Dev.setBankRec_pwr (d : Dev) (b : Nat) (x : Bank) : (d.setBankRec b x).pwr = d.pwr := rfl
@[simp] theorem Dev.setBankRec_tm (d : Dev) (b : Nat) (x : Bank) : (d.setBankRec b x).tm = d.tm := rfl
@[simp] theorem Dev.setBankRec_host (d : Dev) (b : Nat) (x : Bank) : (d.setBankRec b x).host = d.host := rfl
@[simp] theorem Dev.setBankRec_reeve (d : Dev) (b : Nat) (x : Bank) : (d.setBankRec b x).reeve = d.reeve := rfl
@[simp] theorem Dev.setBankRec_couch (d : Dev) (b : Nat) (x : Bank) : (d.setBankRec b x).couch = d.couch := rfl
@[simp] theorem Dev.setBankRec_flt (d : Dev) (b : Nat) (x : Bank) : (d.setBankRec b x).flt = d.flt := rfl
@[simp] theorem Dev.setBankRec_scan (d : Dev) (b : Nat) (x : Bank) : (d.setBankRec b x).scan = d.scan := rfl
@[simp] theorem Dev.setBankRec_sync (d : Dev) (b : Nat) (x : Bank) : (d.setBankRec b x).sync = d.sync := rfl
@[simp] theorem Dev.setBankRec_tone (d : Dev) (b : Nat) (x : Bank) : (d.setBankRec b x).tone = d.tone := rfl
@[simp] theorem Dev.setBankRec_tithe (d : Dev) (b : Nat) (x : Bank) : (d.setBankRec b x).tithe = d.tithe := rfl
@[simp] theorem Dev.setBankRec_cal (d : Dev) (b : Nat) (x : Bank) : (d.setBankRec b x).cal = d.cal := rfl
@[simp] theorem Dev.setBankRec_aging (d : Dev) (b : Nat) (x : Bank) : (d.setBankRec b x).aging = d.aging := rfl
@[simp] theorem Dev.setBankRec_tdl (d : Dev) (b : Nat) (x : Bank) : (d.setBankRec b x).tdl = d.tdl := rfl
@[simp] theorem Dev.setBankRec_panel (d : Dev) (b : Nat) (x : Bank) : (d.setBankRec b x).panel = d.panel := rfl
@[simp] theorem Dev.setBankRec_rects (d : Dev) (b : Nat) (x : Bank) : (d.setBankRec b x).rects = d.rects := rfl
@[simp] theorem Dev.setBankRec_trim (d : Dev) (b : Nat) (x : Bank) : (d.setBankRec b x).trim = d.trim := rfl
@[simp] theorem Dev.setBankRec_nv (d : Dev) (b : Nat) (x : Bank) : (d.setBankRec b x).nv = d.nv := rfl
@[simp] theorem Dev.setBankRec_mgmt (d : Dev) (b : Nat) (x : Bank) : (d.setBankRec b x).mgmt = d.mgmt := rfl
@[simp] theorem Dev.setBankRec_repair (d : Dev) (b : Nat) (x : Bank) : (d.setBankRec b x).repair = d.repair := rfl
@[simp] theorem Dev.setBankRec_free (d : Dev) (b : Nat) (x : Bank) : (d.setBankRec b x).free = d.free := rfl

/-! ### setLayer -/

@[simp] theorem Dev.setLayer_regs (d : Dev) (m : Nat) (x : Layer) : (d.setLayer m x).regs = d.regs := rfl
@[simp] theorem Dev.setLayer_sh (d : Dev) (m : Nat) (x : Layer) : (d.setLayer m x).sh = d.sh := rfl
@[simp] theorem Dev.setLayer_froze (d : Dev) (m : Nat) (x : Layer) : (d.setLayer m x).froze = d.froze := rfl
@[simp] theorem Dev.setLayer_groups (d : Dev) (m : Nat) (x : Layer) : (d.setLayer m x).groups = d.groups := rfl
@[simp] theorem Dev.setLayer_pwr (d : Dev) (m : Nat) (x : Layer) : (d.setLayer m x).pwr = d.pwr := rfl
@[simp] theorem Dev.setLayer_tm (d : Dev) (m : Nat) (x : Layer) : (d.setLayer m x).tm = d.tm := rfl
@[simp] theorem Dev.setLayer_host (d : Dev) (m : Nat) (x : Layer) : (d.setLayer m x).host = d.host := rfl
@[simp] theorem Dev.setLayer_bank (d : Dev) (m : Nat) (x : Layer) : (d.setLayer m x).bank = d.bank := rfl
@[simp] theorem Dev.setLayer_reeve (d : Dev) (m : Nat) (x : Layer) : (d.setLayer m x).reeve = d.reeve := rfl
@[simp] theorem Dev.setLayer_flt (d : Dev) (m : Nat) (x : Layer) : (d.setLayer m x).flt = d.flt := rfl
@[simp] theorem Dev.setLayer_scan (d : Dev) (m : Nat) (x : Layer) : (d.setLayer m x).scan = d.scan := rfl
@[simp] theorem Dev.setLayer_sync (d : Dev) (m : Nat) (x : Layer) : (d.setLayer m x).sync = d.sync := rfl
@[simp] theorem Dev.setLayer_tone (d : Dev) (m : Nat) (x : Layer) : (d.setLayer m x).tone = d.tone := rfl
@[simp] theorem Dev.setLayer_tithe (d : Dev) (m : Nat) (x : Layer) : (d.setLayer m x).tithe = d.tithe := rfl
@[simp] theorem Dev.setLayer_cal (d : Dev) (m : Nat) (x : Layer) : (d.setLayer m x).cal = d.cal := rfl
@[simp] theorem Dev.setLayer_aging (d : Dev) (m : Nat) (x : Layer) : (d.setLayer m x).aging = d.aging := rfl
@[simp] theorem Dev.setLayer_tdl (d : Dev) (m : Nat) (x : Layer) : (d.setLayer m x).tdl = d.tdl := rfl
@[simp] theorem Dev.setLayer_panel (d : Dev) (m : Nat) (x : Layer) : (d.setLayer m x).panel = d.panel := rfl
@[simp] theorem Dev.setLayer_rects (d : Dev) (m : Nat) (x : Layer) : (d.setLayer m x).rects = d.rects := rfl
@[simp] theorem Dev.setLayer_trim (d : Dev) (m : Nat) (x : Layer) : (d.setLayer m x).trim = d.trim := rfl
@[simp] theorem Dev.setLayer_nv (d : Dev) (m : Nat) (x : Layer) : (d.setLayer m x).nv = d.nv := rfl
@[simp] theorem Dev.setLayer_mgmt (d : Dev) (m : Nat) (x : Layer) : (d.setLayer m x).mgmt = d.mgmt := rfl
@[simp] theorem Dev.setLayer_repair (d : Dev) (m : Nat) (x : Layer) : (d.setLayer m x).repair = d.repair := rfl
@[simp] theorem Dev.setLayer_free (d : Dev) (m : Nat) (x : Layer) : (d.setLayer m x).free = d.free := rfl

/-! ### setImg -/

@[simp] theorem Dev.setImg_regs (d : Dev) (k : Nat) (x : Img) : (d.setImg k x).regs = d.regs := rfl
@[simp] theorem Dev.setImg_sh (d : Dev) (k : Nat) (x : Img) : (d.setImg k x).sh = d.sh := rfl
@[simp] theorem Dev.setImg_froze (d : Dev) (k : Nat) (x : Img) : (d.setImg k x).froze = d.froze := rfl
@[simp] theorem Dev.setImg_groups (d : Dev) (k : Nat) (x : Img) : (d.setImg k x).groups = d.groups := rfl
@[simp] theorem Dev.setImg_pwr (d : Dev) (k : Nat) (x : Img) : (d.setImg k x).pwr = d.pwr := rfl
@[simp] theorem Dev.setImg_tm (d : Dev) (k : Nat) (x : Img) : (d.setImg k x).tm = d.tm := rfl
@[simp] theorem Dev.setImg_host (d : Dev) (k : Nat) (x : Img) : (d.setImg k x).host = d.host := rfl
@[simp] theorem Dev.setImg_bank (d : Dev) (k : Nat) (x : Img) : (d.setImg k x).bank = d.bank := rfl
@[simp] theorem Dev.setImg_reeve (d : Dev) (k : Nat) (x : Img) : (d.setImg k x).reeve = d.reeve := rfl
@[simp] theorem Dev.setImg_flt (d : Dev) (k : Nat) (x : Img) : (d.setImg k x).flt = d.flt := rfl
@[simp] theorem Dev.setImg_scan (d : Dev) (k : Nat) (x : Img) : (d.setImg k x).scan = d.scan := rfl
@[simp] theorem Dev.setImg_sync (d : Dev) (k : Nat) (x : Img) : (d.setImg k x).sync = d.sync := rfl
@[simp] theorem Dev.setImg_tone (d : Dev) (k : Nat) (x : Img) : (d.setImg k x).tone = d.tone := rfl
@[simp] theorem Dev.setImg_tithe (d : Dev) (k : Nat) (x : Img) : (d.setImg k x).tithe = d.tithe := rfl
@[simp] theorem Dev.setImg_cal (d : Dev) (k : Nat) (x : Img) : (d.setImg k x).cal = d.cal := rfl
@[simp] theorem Dev.setImg_aging (d : Dev) (k : Nat) (x : Img) : (d.setImg k x).aging = d.aging := rfl
@[simp] theorem Dev.setImg_tdl (d : Dev) (k : Nat) (x : Img) : (d.setImg k x).tdl = d.tdl := rfl
@[simp] theorem Dev.setImg_panel (d : Dev) (k : Nat) (x : Img) : (d.setImg k x).panel = d.panel := rfl
@[simp] theorem Dev.setImg_rects (d : Dev) (k : Nat) (x : Img) : (d.setImg k x).rects = d.rects := rfl
@[simp] theorem Dev.setImg_trim (d : Dev) (k : Nat) (x : Img) : (d.setImg k x).trim = d.trim := rfl
@[simp] theorem Dev.setImg_nv (d : Dev) (k : Nat) (x : Img) : (d.setImg k x).nv = d.nv := rfl
@[simp] theorem Dev.setImg_mgmt (d : Dev) (k : Nat) (x : Img) : (d.setImg k x).mgmt = d.mgmt := rfl
@[simp] theorem Dev.setImg_repair (d : Dev) (k : Nat) (x : Img) : (d.setImg k x).repair = d.repair := rfl
@[simp] theorem Dev.setImg_free (d : Dev) (k : Nat) (x : Img) : (d.setImg k x).free = d.free := rfl

/-! ### setPortR -/

@[simp] theorem Dev.setPortR_regs (d : Dev) (p : Nat) (x : PortR) : (d.setPortR p x).regs = d.regs := rfl
@[simp] theorem Dev.setPortR_sh (d : Dev) (p : Nat) (x : PortR) : (d.setPortR p x).sh = d.sh := rfl
@[simp] theorem Dev.setPortR_froze (d : Dev) (p : Nat) (x : PortR) : (d.setPortR p x).froze = d.froze := rfl
@[simp] theorem Dev.setPortR_groups (d : Dev) (p : Nat) (x : PortR) : (d.setPortR p x).groups = d.groups := rfl
@[simp] theorem Dev.setPortR_pwr (d : Dev) (p : Nat) (x : PortR) : (d.setPortR p x).pwr = d.pwr := rfl
@[simp] theorem Dev.setPortR_tm (d : Dev) (p : Nat) (x : PortR) : (d.setPortR p x).tm = d.tm := rfl
@[simp] theorem Dev.setPortR_host (d : Dev) (p : Nat) (x : PortR) : (d.setPortR p x).host = d.host := rfl
@[simp] theorem Dev.setPortR_bank (d : Dev) (p : Nat) (x : PortR) : (d.setPortR p x).bank = d.bank := rfl
@[simp] theorem Dev.setPortR_reeve (d : Dev) (p : Nat) (x : PortR) : (d.setPortR p x).reeve = d.reeve := rfl
@[simp] theorem Dev.setPortR_couch (d : Dev) (p : Nat) (x : PortR) : (d.setPortR p x).couch = d.couch := rfl
@[simp] theorem Dev.setPortR_flt (d : Dev) (p : Nat) (x : PortR) : (d.setPortR p x).flt = d.flt := rfl
@[simp] theorem Dev.setPortR_sync (d : Dev) (p : Nat) (x : PortR) : (d.setPortR p x).sync = d.sync := rfl
@[simp] theorem Dev.setPortR_tone (d : Dev) (p : Nat) (x : PortR) : (d.setPortR p x).tone = d.tone := rfl
@[simp] theorem Dev.setPortR_tithe (d : Dev) (p : Nat) (x : PortR) : (d.setPortR p x).tithe = d.tithe := rfl
@[simp] theorem Dev.setPortR_cal (d : Dev) (p : Nat) (x : PortR) : (d.setPortR p x).cal = d.cal := rfl
@[simp] theorem Dev.setPortR_aging (d : Dev) (p : Nat) (x : PortR) : (d.setPortR p x).aging = d.aging := rfl
@[simp] theorem Dev.setPortR_tdl (d : Dev) (p : Nat) (x : PortR) : (d.setPortR p x).tdl = d.tdl := rfl
@[simp] theorem Dev.setPortR_panel (d : Dev) (p : Nat) (x : PortR) : (d.setPortR p x).panel = d.panel := rfl
@[simp] theorem Dev.setPortR_rects (d : Dev) (p : Nat) (x : PortR) : (d.setPortR p x).rects = d.rects := rfl
@[simp] theorem Dev.setPortR_trim (d : Dev) (p : Nat) (x : PortR) : (d.setPortR p x).trim = d.trim := rfl
@[simp] theorem Dev.setPortR_nv (d : Dev) (p : Nat) (x : PortR) : (d.setPortR p x).nv = d.nv := rfl
@[simp] theorem Dev.setPortR_mgmt (d : Dev) (p : Nat) (x : PortR) : (d.setPortR p x).mgmt = d.mgmt := rfl
@[simp] theorem Dev.setPortR_repair (d : Dev) (p : Nat) (x : PortR) : (d.setPortR p x).repair = d.repair := rfl
@[simp] theorem Dev.setPortR_free (d : Dev) (p : Nat) (x : PortR) : (d.setPortR p x).free = d.free := rfl

/-! ### pulse -/

@[simp] theorem Dev.pulse_regs (d : Dev) (n : Nat) : (d.pulse n).regs = d.regs := rfl
@[simp] theorem Dev.pulse_sh (d : Dev) (n : Nat) : (d.pulse n).sh = d.sh := rfl
@[simp] theorem Dev.pulse_froze (d : Dev) (n : Nat) : (d.pulse n).froze = d.froze := rfl
@[simp] theorem Dev.pulse_groups (d : Dev) (n : Nat) : (d.pulse n).groups = d.groups := rfl
@[simp] theorem Dev.pulse_pwr (d : Dev) (n : Nat) : (d.pulse n).pwr = d.pwr := rfl
@[simp] theorem Dev.pulse_tm (d : Dev) (n : Nat) : (d.pulse n).tm = d.tm := rfl
@[simp] theorem Dev.pulse_host (d : Dev) (n : Nat) : (d.pulse n).host = d.host := rfl
@[simp] theorem Dev.pulse_bank (d : Dev) (n : Nat) : (d.pulse n).bank = d.bank := rfl
@[simp] theorem Dev.pulse_reeve (d : Dev) (n : Nat) : (d.pulse n).reeve = d.reeve := rfl
@[simp] theorem Dev.pulse_couch (d : Dev) (n : Nat) : (d.pulse n).couch = d.couch := rfl
@[simp] theorem Dev.pulse_flt (d : Dev) (n : Nat) : (d.pulse n).flt = d.flt := rfl
@[simp] theorem Dev.pulse_scan (d : Dev) (n : Nat) : (d.pulse n).scan = d.scan := rfl
@[simp] theorem Dev.pulse_tone (d : Dev) (n : Nat) : (d.pulse n).tone = d.tone := rfl
@[simp] theorem Dev.pulse_tithe (d : Dev) (n : Nat) : (d.pulse n).tithe = d.tithe := rfl
@[simp] theorem Dev.pulse_cal (d : Dev) (n : Nat) : (d.pulse n).cal = d.cal := rfl
@[simp] theorem Dev.pulse_aging (d : Dev) (n : Nat) : (d.pulse n).aging = d.aging := rfl
@[simp] theorem Dev.pulse_tdl (d : Dev) (n : Nat) : (d.pulse n).tdl = d.tdl := rfl
@[simp] theorem Dev.pulse_panel (d : Dev) (n : Nat) : (d.pulse n).panel = d.panel := rfl
@[simp] theorem Dev.pulse_rects (d : Dev) (n : Nat) : (d.pulse n).rects = d.rects := rfl
@[simp] theorem Dev.pulse_trim (d : Dev) (n : Nat) : (d.pulse n).trim = d.trim := rfl
@[simp] theorem Dev.pulse_nv (d : Dev) (n : Nat) : (d.pulse n).nv = d.nv := rfl
@[simp] theorem Dev.pulse_mgmt (d : Dev) (n : Nat) : (d.pulse n).mgmt = d.mgmt := rfl
@[simp] theorem Dev.pulse_repair (d : Dev) (n : Nat) : (d.pulse n).repair = d.repair := rfl
@[simp] theorem Dev.pulse_free (d : Dev) (n : Nat) : (d.pulse n).free = d.free := rfl

/-! ### setCal -/

@[simp] theorem Dev.setCal_regs (d : Dev) (p : Nat) (x : CalSt) : (d.setCal p x).regs = d.regs := rfl
@[simp] theorem Dev.setCal_sh (d : Dev) (p : Nat) (x : CalSt) : (d.setCal p x).sh = d.sh := rfl
@[simp] theorem Dev.setCal_froze (d : Dev) (p : Nat) (x : CalSt) : (d.setCal p x).froze = d.froze := rfl
@[simp] theorem Dev.setCal_groups (d : Dev) (p : Nat) (x : CalSt) : (d.setCal p x).groups = d.groups := rfl
@[simp] theorem Dev.setCal_pwr (d : Dev) (p : Nat) (x : CalSt) : (d.setCal p x).pwr = d.pwr := rfl
@[simp] theorem Dev.setCal_tm (d : Dev) (p : Nat) (x : CalSt) : (d.setCal p x).tm = d.tm := rfl
@[simp] theorem Dev.setCal_host (d : Dev) (p : Nat) (x : CalSt) : (d.setCal p x).host = d.host := rfl
@[simp] theorem Dev.setCal_bank (d : Dev) (p : Nat) (x : CalSt) : (d.setCal p x).bank = d.bank := rfl
@[simp] theorem Dev.setCal_reeve (d : Dev) (p : Nat) (x : CalSt) : (d.setCal p x).reeve = d.reeve := rfl
@[simp] theorem Dev.setCal_couch (d : Dev) (p : Nat) (x : CalSt) : (d.setCal p x).couch = d.couch := rfl
@[simp] theorem Dev.setCal_flt (d : Dev) (p : Nat) (x : CalSt) : (d.setCal p x).flt = d.flt := rfl
@[simp] theorem Dev.setCal_scan (d : Dev) (p : Nat) (x : CalSt) : (d.setCal p x).scan = d.scan := rfl
@[simp] theorem Dev.setCal_sync (d : Dev) (p : Nat) (x : CalSt) : (d.setCal p x).sync = d.sync := rfl
@[simp] theorem Dev.setCal_tone (d : Dev) (p : Nat) (x : CalSt) : (d.setCal p x).tone = d.tone := rfl
@[simp] theorem Dev.setCal_tithe (d : Dev) (p : Nat) (x : CalSt) : (d.setCal p x).tithe = d.tithe := rfl
@[simp] theorem Dev.setCal_aging (d : Dev) (p : Nat) (x : CalSt) : (d.setCal p x).aging = d.aging := rfl
@[simp] theorem Dev.setCal_tdl (d : Dev) (p : Nat) (x : CalSt) : (d.setCal p x).tdl = d.tdl := rfl
@[simp] theorem Dev.setCal_panel (d : Dev) (p : Nat) (x : CalSt) : (d.setCal p x).panel = d.panel := rfl
@[simp] theorem Dev.setCal_rects (d : Dev) (p : Nat) (x : CalSt) : (d.setCal p x).rects = d.rects := rfl
@[simp] theorem Dev.setCal_trim (d : Dev) (p : Nat) (x : CalSt) : (d.setCal p x).trim = d.trim := rfl
@[simp] theorem Dev.setCal_nv (d : Dev) (p : Nat) (x : CalSt) : (d.setCal p x).nv = d.nv := rfl
@[simp] theorem Dev.setCal_mgmt (d : Dev) (p : Nat) (x : CalSt) : (d.setCal p x).mgmt = d.mgmt := rfl
@[simp] theorem Dev.setCal_repair (d : Dev) (p : Nat) (x : CalSt) : (d.setCal p x).repair = d.repair := rfl
@[simp] theorem Dev.setCal_free (d : Dev) (p : Nat) (x : CalSt) : (d.setCal p x).free = d.free := rfl

/-! ### setTdl -/

@[simp] theorem Dev.setTdl_regs (d : Dev) (p : Nat) (x : TdlSt) : (d.setTdl p x).regs = d.regs := rfl
@[simp] theorem Dev.setTdl_sh (d : Dev) (p : Nat) (x : TdlSt) : (d.setTdl p x).sh = d.sh := rfl
@[simp] theorem Dev.setTdl_froze (d : Dev) (p : Nat) (x : TdlSt) : (d.setTdl p x).froze = d.froze := rfl
@[simp] theorem Dev.setTdl_groups (d : Dev) (p : Nat) (x : TdlSt) : (d.setTdl p x).groups = d.groups := rfl
@[simp] theorem Dev.setTdl_pwr (d : Dev) (p : Nat) (x : TdlSt) : (d.setTdl p x).pwr = d.pwr := rfl
@[simp] theorem Dev.setTdl_tm (d : Dev) (p : Nat) (x : TdlSt) : (d.setTdl p x).tm = d.tm := rfl
@[simp] theorem Dev.setTdl_host (d : Dev) (p : Nat) (x : TdlSt) : (d.setTdl p x).host = d.host := rfl
@[simp] theorem Dev.setTdl_bank (d : Dev) (p : Nat) (x : TdlSt) : (d.setTdl p x).bank = d.bank := rfl
@[simp] theorem Dev.setTdl_reeve (d : Dev) (p : Nat) (x : TdlSt) : (d.setTdl p x).reeve = d.reeve := rfl
@[simp] theorem Dev.setTdl_couch (d : Dev) (p : Nat) (x : TdlSt) : (d.setTdl p x).couch = d.couch := rfl
@[simp] theorem Dev.setTdl_flt (d : Dev) (p : Nat) (x : TdlSt) : (d.setTdl p x).flt = d.flt := rfl
@[simp] theorem Dev.setTdl_scan (d : Dev) (p : Nat) (x : TdlSt) : (d.setTdl p x).scan = d.scan := rfl
@[simp] theorem Dev.setTdl_sync (d : Dev) (p : Nat) (x : TdlSt) : (d.setTdl p x).sync = d.sync := rfl
@[simp] theorem Dev.setTdl_tone (d : Dev) (p : Nat) (x : TdlSt) : (d.setTdl p x).tone = d.tone := rfl
@[simp] theorem Dev.setTdl_tithe (d : Dev) (p : Nat) (x : TdlSt) : (d.setTdl p x).tithe = d.tithe := rfl
@[simp] theorem Dev.setTdl_cal (d : Dev) (p : Nat) (x : TdlSt) : (d.setTdl p x).cal = d.cal := rfl
@[simp] theorem Dev.setTdl_aging (d : Dev) (p : Nat) (x : TdlSt) : (d.setTdl p x).aging = d.aging := rfl
@[simp] theorem Dev.setTdl_panel (d : Dev) (p : Nat) (x : TdlSt) : (d.setTdl p x).panel = d.panel := rfl
@[simp] theorem Dev.setTdl_rects (d : Dev) (p : Nat) (x : TdlSt) : (d.setTdl p x).rects = d.rects := rfl
@[simp] theorem Dev.setTdl_trim (d : Dev) (p : Nat) (x : TdlSt) : (d.setTdl p x).trim = d.trim := rfl
@[simp] theorem Dev.setTdl_nv (d : Dev) (p : Nat) (x : TdlSt) : (d.setTdl p x).nv = d.nv := rfl
@[simp] theorem Dev.setTdl_mgmt (d : Dev) (p : Nat) (x : TdlSt) : (d.setTdl p x).mgmt = d.mgmt := rfl
@[simp] theorem Dev.setTdl_repair (d : Dev) (p : Nat) (x : TdlSt) : (d.setTdl p x).repair = d.repair := rfl
@[simp] theorem Dev.setTdl_free (d : Dev) (p : Nat) (x : TdlSt) : (d.setTdl p x).free = d.free := rfl

/-! ### setPanel -/

@[simp] theorem Dev.setPanel_regs (d : Dev) (p : Nat) (x : PanelSt) : (d.setPanel p x).regs = d.regs := rfl
@[simp] theorem Dev.setPanel_sh (d : Dev) (p : Nat) (x : PanelSt) : (d.setPanel p x).sh = d.sh := rfl
@[simp] theorem Dev.setPanel_froze (d : Dev) (p : Nat) (x : PanelSt) : (d.setPanel p x).froze = d.froze := rfl
@[simp] theorem Dev.setPanel_groups (d : Dev) (p : Nat) (x : PanelSt) : (d.setPanel p x).groups = d.groups := rfl
@[simp] theorem Dev.setPanel_pwr (d : Dev) (p : Nat) (x : PanelSt) : (d.setPanel p x).pwr = d.pwr := rfl
@[simp] theorem Dev.setPanel_tm (d : Dev) (p : Nat) (x : PanelSt) : (d.setPanel p x).tm = d.tm := rfl
@[simp] theorem Dev.setPanel_host (d : Dev) (p : Nat) (x : PanelSt) : (d.setPanel p x).host = d.host := rfl
@[simp] theorem Dev.setPanel_bank (d : Dev) (p : Nat) (x : PanelSt) : (d.setPanel p x).bank = d.bank := rfl
@[simp] theorem Dev.setPanel_reeve (d : Dev) (p : Nat) (x : PanelSt) : (d.setPanel p x).reeve = d.reeve := rfl
@[simp] theorem Dev.setPanel_couch (d : Dev) (p : Nat) (x : PanelSt) : (d.setPanel p x).couch = d.couch := rfl
@[simp] theorem Dev.setPanel_flt (d : Dev) (p : Nat) (x : PanelSt) : (d.setPanel p x).flt = d.flt := rfl
@[simp] theorem Dev.setPanel_scan (d : Dev) (p : Nat) (x : PanelSt) : (d.setPanel p x).scan = d.scan := rfl
@[simp] theorem Dev.setPanel_sync (d : Dev) (p : Nat) (x : PanelSt) : (d.setPanel p x).sync = d.sync := rfl
@[simp] theorem Dev.setPanel_tone (d : Dev) (p : Nat) (x : PanelSt) : (d.setPanel p x).tone = d.tone := rfl
@[simp] theorem Dev.setPanel_tithe (d : Dev) (p : Nat) (x : PanelSt) : (d.setPanel p x).tithe = d.tithe := rfl
@[simp] theorem Dev.setPanel_cal (d : Dev) (p : Nat) (x : PanelSt) : (d.setPanel p x).cal = d.cal := rfl
@[simp] theorem Dev.setPanel_aging (d : Dev) (p : Nat) (x : PanelSt) : (d.setPanel p x).aging = d.aging := rfl
@[simp] theorem Dev.setPanel_tdl (d : Dev) (p : Nat) (x : PanelSt) : (d.setPanel p x).tdl = d.tdl := rfl
@[simp] theorem Dev.setPanel_rects (d : Dev) (p : Nat) (x : PanelSt) : (d.setPanel p x).rects = d.rects := rfl
@[simp] theorem Dev.setPanel_trim (d : Dev) (p : Nat) (x : PanelSt) : (d.setPanel p x).trim = d.trim := rfl
@[simp] theorem Dev.setPanel_nv (d : Dev) (p : Nat) (x : PanelSt) : (d.setPanel p x).nv = d.nv := rfl
@[simp] theorem Dev.setPanel_mgmt (d : Dev) (p : Nat) (x : PanelSt) : (d.setPanel p x).mgmt = d.mgmt := rfl
@[simp] theorem Dev.setPanel_repair (d : Dev) (p : Nat) (x : PanelSt) : (d.setPanel p x).repair = d.repair := rfl
@[simp] theorem Dev.setPanel_free (d : Dev) (p : Nat) (x : PanelSt) : (d.setPanel p x).free = d.free := rfl

/-! ### nvPut -/

@[simp] theorem Dev.nvPut_regs (d : Dev) (ga : Nat) (b : Byte) : (d.nvPut ga b).regs = d.regs := rfl
@[simp] theorem Dev.nvPut_sh (d : Dev) (ga : Nat) (b : Byte) : (d.nvPut ga b).sh = d.sh := rfl
@[simp] theorem Dev.nvPut_froze (d : Dev) (ga : Nat) (b : Byte) : (d.nvPut ga b).froze = d.froze := rfl
@[simp] theorem Dev.nvPut_groups (d : Dev) (ga : Nat) (b : Byte) : (d.nvPut ga b).groups = d.groups := rfl
@[simp] theorem Dev.nvPut_pwr (d : Dev) (ga : Nat) (b : Byte) : (d.nvPut ga b).pwr = d.pwr := rfl
@[simp] theorem Dev.nvPut_tm (d : Dev) (ga : Nat) (b : Byte) : (d.nvPut ga b).tm = d.tm := rfl
@[simp] theorem Dev.nvPut_host (d : Dev) (ga : Nat) (b : Byte) : (d.nvPut ga b).host = d.host := rfl
@[simp] theorem Dev.nvPut_bank (d : Dev) (ga : Nat) (b : Byte) : (d.nvPut ga b).bank = d.bank := rfl
@[simp] theorem Dev.nvPut_reeve (d : Dev) (ga : Nat) (b : Byte) : (d.nvPut ga b).reeve = d.reeve := rfl
@[simp] theorem Dev.nvPut_couch (d : Dev) (ga : Nat) (b : Byte) : (d.nvPut ga b).couch = d.couch := rfl
@[simp] theorem Dev.nvPut_flt (d : Dev) (ga : Nat) (b : Byte) : (d.nvPut ga b).flt = d.flt := rfl
@[simp] theorem Dev.nvPut_scan (d : Dev) (ga : Nat) (b : Byte) : (d.nvPut ga b).scan = d.scan := rfl
@[simp] theorem Dev.nvPut_sync (d : Dev) (ga : Nat) (b : Byte) : (d.nvPut ga b).sync = d.sync := rfl
@[simp] theorem Dev.nvPut_tone (d : Dev) (ga : Nat) (b : Byte) : (d.nvPut ga b).tone = d.tone := rfl
@[simp] theorem Dev.nvPut_tithe (d : Dev) (ga : Nat) (b : Byte) : (d.nvPut ga b).tithe = d.tithe := rfl
@[simp] theorem Dev.nvPut_cal (d : Dev) (ga : Nat) (b : Byte) : (d.nvPut ga b).cal = d.cal := rfl
@[simp] theorem Dev.nvPut_aging (d : Dev) (ga : Nat) (b : Byte) : (d.nvPut ga b).aging = d.aging := rfl
@[simp] theorem Dev.nvPut_tdl (d : Dev) (ga : Nat) (b : Byte) : (d.nvPut ga b).tdl = d.tdl := rfl
@[simp] theorem Dev.nvPut_panel (d : Dev) (ga : Nat) (b : Byte) : (d.nvPut ga b).panel = d.panel := rfl
@[simp] theorem Dev.nvPut_rects (d : Dev) (ga : Nat) (b : Byte) : (d.nvPut ga b).rects = d.rects := rfl
@[simp] theorem Dev.nvPut_trim (d : Dev) (ga : Nat) (b : Byte) : (d.nvPut ga b).trim = d.trim := rfl
@[simp] theorem Dev.nvPut_mgmt (d : Dev) (ga : Nat) (b : Byte) : (d.nvPut ga b).mgmt = d.mgmt := rfl
@[simp] theorem Dev.nvPut_repair (d : Dev) (ga : Nat) (b : Byte) : (d.nvPut ga b).repair = d.repair := rfl
@[simp] theorem Dev.nvPut_free (d : Dev) (ga : Nat) (b : Byte) : (d.nvPut ga b).free = d.free := rfl

/-! ### setMb -/

@[simp] theorem Dev.setMb_regs (d : Dev) (c : MbCmd) : (d.setMb c).regs = d.regs := rfl
@[simp] theorem Dev.setMb_sh (d : Dev) (c : MbCmd) : (d.setMb c).sh = d.sh := rfl
@[simp] theorem Dev.setMb_froze (d : Dev) (c : MbCmd) : (d.setMb c).froze = d.froze := rfl
@[simp] theorem Dev.setMb_groups (d : Dev) (c : MbCmd) : (d.setMb c).groups = d.groups := rfl
@[simp] theorem Dev.setMb_pwr (d : Dev) (c : MbCmd) : (d.setMb c).pwr = d.pwr := rfl
@[simp] theorem Dev.setMb_tm (d : Dev) (c : MbCmd) : (d.setMb c).tm = d.tm := rfl
@[simp] theorem Dev.setMb_host (d : Dev) (c : MbCmd) : (d.setMb c).host = d.host := rfl
@[simp] theorem Dev.setMb_bank (d : Dev) (c : MbCmd) : (d.setMb c).bank = d.bank := rfl
@[simp] theorem Dev.setMb_reeve (d : Dev) (c : MbCmd) : (d.setMb c).reeve = d.reeve := rfl
@[simp] theorem Dev.setMb_couch (d : Dev) (c : MbCmd) : (d.setMb c).couch = d.couch := rfl
@[simp] theorem Dev.setMb_flt (d : Dev) (c : MbCmd) : (d.setMb c).flt = d.flt := rfl
@[simp] theorem Dev.setMb_scan (d : Dev) (c : MbCmd) : (d.setMb c).scan = d.scan := rfl
@[simp] theorem Dev.setMb_sync (d : Dev) (c : MbCmd) : (d.setMb c).sync = d.sync := rfl
@[simp] theorem Dev.setMb_tone (d : Dev) (c : MbCmd) : (d.setMb c).tone = d.tone := rfl
@[simp] theorem Dev.setMb_tithe (d : Dev) (c : MbCmd) : (d.setMb c).tithe = d.tithe := rfl
@[simp] theorem Dev.setMb_cal (d : Dev) (c : MbCmd) : (d.setMb c).cal = d.cal := rfl
@[simp] theorem Dev.setMb_aging (d : Dev) (c : MbCmd) : (d.setMb c).aging = d.aging := rfl
@[simp] theorem Dev.setMb_tdl (d : Dev) (c : MbCmd) : (d.setMb c).tdl = d.tdl := rfl
@[simp] theorem Dev.setMb_panel (d : Dev) (c : MbCmd) : (d.setMb c).panel = d.panel := rfl
@[simp] theorem Dev.setMb_rects (d : Dev) (c : MbCmd) : (d.setMb c).rects = d.rects := rfl
@[simp] theorem Dev.setMb_trim (d : Dev) (c : MbCmd) : (d.setMb c).trim = d.trim := rfl
@[simp] theorem Dev.setMb_nv (d : Dev) (c : MbCmd) : (d.setMb c).nv = d.nv := rfl
@[simp] theorem Dev.setMb_repair (d : Dev) (c : MbCmd) : (d.setMb c).repair = d.repair := rfl
@[simp] theorem Dev.setMb_free (d : Dev) (c : MbCmd) : (d.setMb c).free = d.free := rfl

/-! ### sendHost -/

@[simp] theorem Dev.sendHost_regs (d : Dev) (ha : Nat) (l : List Byte) : (d.sendHost ha l).regs = d.regs := rfl
@[simp] theorem Dev.sendHost_sh (d : Dev) (ha : Nat) (l : List Byte) : (d.sendHost ha l).sh = d.sh := rfl
@[simp] theorem Dev.sendHost_froze (d : Dev) (ha : Nat) (l : List Byte) : (d.sendHost ha l).froze = d.froze := rfl
@[simp] theorem Dev.sendHost_groups (d : Dev) (ha : Nat) (l : List Byte) : (d.sendHost ha l).groups = d.groups := rfl
@[simp] theorem Dev.sendHost_pwr (d : Dev) (ha : Nat) (l : List Byte) : (d.sendHost ha l).pwr = d.pwr := rfl
@[simp] theorem Dev.sendHost_tm (d : Dev) (ha : Nat) (l : List Byte) : (d.sendHost ha l).tm = d.tm := rfl
@[simp] theorem Dev.sendHost_host (d : Dev) (ha : Nat) (l : List Byte) : (d.sendHost ha l).host = d.host := rfl
@[simp] theorem Dev.sendHost_bank (d : Dev) (ha : Nat) (l : List Byte) : (d.sendHost ha l).bank = d.bank := rfl
@[simp] theorem Dev.sendHost_reeve (d : Dev) (ha : Nat) (l : List Byte) : (d.sendHost ha l).reeve = d.reeve := rfl
@[simp] theorem Dev.sendHost_couch (d : Dev) (ha : Nat) (l : List Byte) : (d.sendHost ha l).couch = d.couch := rfl
@[simp] theorem Dev.sendHost_flt (d : Dev) (ha : Nat) (l : List Byte) : (d.sendHost ha l).flt = d.flt := rfl
@[simp] theorem Dev.sendHost_scan (d : Dev) (ha : Nat) (l : List Byte) : (d.sendHost ha l).scan = d.scan := rfl
@[simp] theorem Dev.sendHost_sync (d : Dev) (ha : Nat) (l : List Byte) : (d.sendHost ha l).sync = d.sync := rfl
@[simp] theorem Dev.sendHost_tone (d : Dev) (ha : Nat) (l : List Byte) : (d.sendHost ha l).tone = d.tone := rfl
@[simp] theorem Dev.sendHost_tithe (d : Dev) (ha : Nat) (l : List Byte) : (d.sendHost ha l).tithe = d.tithe := rfl
@[simp] theorem Dev.sendHost_cal (d : Dev) (ha : Nat) (l : List Byte) : (d.sendHost ha l).cal = d.cal := rfl
@[simp] theorem Dev.sendHost_aging (d : Dev) (ha : Nat) (l : List Byte) : (d.sendHost ha l).aging = d.aging := rfl
@[simp] theorem Dev.sendHost_tdl (d : Dev) (ha : Nat) (l : List Byte) : (d.sendHost ha l).tdl = d.tdl := rfl
@[simp] theorem Dev.sendHost_panel (d : Dev) (ha : Nat) (l : List Byte) : (d.sendHost ha l).panel = d.panel := rfl
@[simp] theorem Dev.sendHost_rects (d : Dev) (ha : Nat) (l : List Byte) : (d.sendHost ha l).rects = d.rects := rfl
@[simp] theorem Dev.sendHost_trim (d : Dev) (ha : Nat) (l : List Byte) : (d.sendHost ha l).trim = d.trim := rfl
@[simp] theorem Dev.sendHost_nv (d : Dev) (ha : Nat) (l : List Byte) : (d.sendHost ha l).nv = d.nv := rfl
@[simp] theorem Dev.sendHost_repair (d : Dev) (ha : Nat) (l : List Byte) : (d.sendHost ha l).repair = d.repair := rfl
@[simp] theorem Dev.sendHost_free (d : Dev) (ha : Nat) (l : List Byte) : (d.sendHost ha l).free = d.free := rfl

/-! ### setTile -/

@[simp] theorem Dev.setTile_regs (d : Dev) (t u : Repair) : (d.setTile t u).regs = d.regs := rfl
@[simp] theorem Dev.setTile_sh (d : Dev) (t u : Repair) : (d.setTile t u).sh = d.sh := rfl
@[simp] theorem Dev.setTile_froze (d : Dev) (t u : Repair) : (d.setTile t u).froze = d.froze := rfl
@[simp] theorem Dev.setTile_groups (d : Dev) (t u : Repair) : (d.setTile t u).groups = d.groups := rfl
@[simp] theorem Dev.setTile_pwr (d : Dev) (t u : Repair) : (d.setTile t u).pwr = d.pwr := rfl
@[simp] theorem Dev.setTile_tm (d : Dev) (t u : Repair) : (d.setTile t u).tm = d.tm := rfl
@[simp] theorem Dev.setTile_host (d : Dev) (t u : Repair) : (d.setTile t u).host = d.host := rfl
@[simp] theorem Dev.setTile_bank (d : Dev) (t u : Repair) : (d.setTile t u).bank = d.bank := rfl
@[simp] theorem Dev.setTile_reeve (d : Dev) (t u : Repair) : (d.setTile t u).reeve = d.reeve := rfl
@[simp] theorem Dev.setTile_couch (d : Dev) (t u : Repair) : (d.setTile t u).couch = d.couch := rfl
@[simp] theorem Dev.setTile_flt (d : Dev) (t u : Repair) : (d.setTile t u).flt = d.flt := rfl
@[simp] theorem Dev.setTile_scan (d : Dev) (t u : Repair) : (d.setTile t u).scan = d.scan := rfl
@[simp] theorem Dev.setTile_sync (d : Dev) (t u : Repair) : (d.setTile t u).sync = d.sync := rfl
@[simp] theorem Dev.setTile_tone (d : Dev) (t u : Repair) : (d.setTile t u).tone = d.tone := rfl
@[simp] theorem Dev.setTile_tithe (d : Dev) (t u : Repair) : (d.setTile t u).tithe = d.tithe := rfl
@[simp] theorem Dev.setTile_cal (d : Dev) (t u : Repair) : (d.setTile t u).cal = d.cal := rfl
@[simp] theorem Dev.setTile_aging (d : Dev) (t u : Repair) : (d.setTile t u).aging = d.aging := rfl
@[simp] theorem Dev.setTile_tdl (d : Dev) (t u : Repair) : (d.setTile t u).tdl = d.tdl := rfl
@[simp] theorem Dev.setTile_panel (d : Dev) (t u : Repair) : (d.setTile t u).panel = d.panel := rfl
@[simp] theorem Dev.setTile_rects (d : Dev) (t u : Repair) : (d.setTile t u).rects = d.rects := rfl
@[simp] theorem Dev.setTile_trim (d : Dev) (t u : Repair) : (d.setTile t u).trim = d.trim := rfl
@[simp] theorem Dev.setTile_nv (d : Dev) (t u : Repair) : (d.setTile t u).nv = d.nv := rfl
@[simp] theorem Dev.setTile_mgmt (d : Dev) (t u : Repair) : (d.setTile t u).mgmt = d.mgmt := rfl
@[simp] theorem Dev.setTile_free (d : Dev) (t u : Repair) : (d.setTile t u).free = d.free := rfl

/-! ### serveOn, serveOff -/

@[simp] theorem Dev.serveOn_regs (d : Dev) : d.serveOn.regs = d.regs := rfl
@[simp] theorem Dev.serveOn_sh (d : Dev) : d.serveOn.sh = d.sh := rfl
@[simp] theorem Dev.serveOn_froze (d : Dev) : d.serveOn.froze = d.froze := rfl
@[simp] theorem Dev.serveOn_groups (d : Dev) : d.serveOn.groups = d.groups := rfl
@[simp] theorem Dev.serveOn_pwr (d : Dev) : d.serveOn.pwr = d.pwr := rfl
@[simp] theorem Dev.serveOn_tm (d : Dev) : d.serveOn.tm = d.tm := rfl
@[simp] theorem Dev.serveOn_bank (d : Dev) : d.serveOn.bank = d.bank := rfl
@[simp] theorem Dev.serveOn_reeve (d : Dev) : d.serveOn.reeve = d.reeve := rfl
@[simp] theorem Dev.serveOn_couch (d : Dev) : d.serveOn.couch = d.couch := rfl
@[simp] theorem Dev.serveOn_flt (d : Dev) : d.serveOn.flt = d.flt := rfl
@[simp] theorem Dev.serveOn_scan (d : Dev) : d.serveOn.scan = d.scan := rfl
@[simp] theorem Dev.serveOn_sync (d : Dev) : d.serveOn.sync = d.sync := rfl
@[simp] theorem Dev.serveOn_tone (d : Dev) : d.serveOn.tone = d.tone := rfl
@[simp] theorem Dev.serveOn_tithe (d : Dev) : d.serveOn.tithe = d.tithe := rfl
@[simp] theorem Dev.serveOn_cal (d : Dev) : d.serveOn.cal = d.cal := rfl
@[simp] theorem Dev.serveOn_aging (d : Dev) : d.serveOn.aging = d.aging := rfl
@[simp] theorem Dev.serveOn_tdl (d : Dev) : d.serveOn.tdl = d.tdl := rfl
@[simp] theorem Dev.serveOn_panel (d : Dev) : d.serveOn.panel = d.panel := rfl
@[simp] theorem Dev.serveOn_rects (d : Dev) : d.serveOn.rects = d.rects := rfl
@[simp] theorem Dev.serveOn_trim (d : Dev) : d.serveOn.trim = d.trim := rfl
@[simp] theorem Dev.serveOn_nv (d : Dev) : d.serveOn.nv = d.nv := rfl
@[simp] theorem Dev.serveOn_mgmt (d : Dev) : d.serveOn.mgmt = d.mgmt := rfl
@[simp] theorem Dev.serveOn_repair (d : Dev) : d.serveOn.repair = d.repair := rfl
@[simp] theorem Dev.serveOn_free (d : Dev) : d.serveOn.free = d.free := rfl
@[simp] theorem Dev.serveOff_regs (d : Dev) (cs : List Instr) : (d.serveOff cs).regs = d.regs := rfl
@[simp] theorem Dev.serveOff_sh (d : Dev) (cs : List Instr) : (d.serveOff cs).sh = d.sh := rfl
@[simp] theorem Dev.serveOff_froze (d : Dev) (cs : List Instr) : (d.serveOff cs).froze = d.froze := rfl
@[simp] theorem Dev.serveOff_groups (d : Dev) (cs : List Instr) : (d.serveOff cs).groups = d.groups := rfl
@[simp] theorem Dev.serveOff_pwr (d : Dev) (cs : List Instr) : (d.serveOff cs).pwr = d.pwr := rfl
@[simp] theorem Dev.serveOff_tm (d : Dev) (cs : List Instr) : (d.serveOff cs).tm = d.tm := rfl
@[simp] theorem Dev.serveOff_bank (d : Dev) (cs : List Instr) : (d.serveOff cs).bank = d.bank := rfl
@[simp] theorem Dev.serveOff_reeve (d : Dev) (cs : List Instr) : (d.serveOff cs).reeve = d.reeve := rfl
@[simp] theorem Dev.serveOff_couch (d : Dev) (cs : List Instr) : (d.serveOff cs).couch = d.couch := rfl
@[simp] theorem Dev.serveOff_flt (d : Dev) (cs : List Instr) : (d.serveOff cs).flt = d.flt := rfl
@[simp] theorem Dev.serveOff_scan (d : Dev) (cs : List Instr) : (d.serveOff cs).scan = d.scan := rfl
@[simp] theorem Dev.serveOff_sync (d : Dev) (cs : List Instr) : (d.serveOff cs).sync = d.sync := rfl
@[simp] theorem Dev.serveOff_tone (d : Dev) (cs : List Instr) : (d.serveOff cs).tone = d.tone := rfl
@[simp] theorem Dev.serveOff_tithe (d : Dev) (cs : List Instr) : (d.serveOff cs).tithe = d.tithe := rfl
@[simp] theorem Dev.serveOff_cal (d : Dev) (cs : List Instr) : (d.serveOff cs).cal = d.cal := rfl
@[simp] theorem Dev.serveOff_aging (d : Dev) (cs : List Instr) : (d.serveOff cs).aging = d.aging := rfl
@[simp] theorem Dev.serveOff_tdl (d : Dev) (cs : List Instr) : (d.serveOff cs).tdl = d.tdl := rfl
@[simp] theorem Dev.serveOff_panel (d : Dev) (cs : List Instr) : (d.serveOff cs).panel = d.panel := rfl
@[simp] theorem Dev.serveOff_rects (d : Dev) (cs : List Instr) : (d.serveOff cs).rects = d.rects := rfl
@[simp] theorem Dev.serveOff_trim (d : Dev) (cs : List Instr) : (d.serveOff cs).trim = d.trim := rfl
@[simp] theorem Dev.serveOff_nv (d : Dev) (cs : List Instr) : (d.serveOff cs).nv = d.nv := rfl
@[simp] theorem Dev.serveOff_mgmt (d : Dev) (cs : List Instr) : (d.serveOff cs).mgmt = d.mgmt := rfl
@[simp] theorem Dev.serveOff_repair (d : Dev) (cs : List Instr) : (d.serveOff cs).repair = d.repair := rfl
@[simp] theorem Dev.serveOff_free (d : Dev) (cs : List Instr) : (d.serveOff cs).free = d.free := rfl
@[simp] theorem Dev.serveOff_later (d : Dev) (cs : List Instr) : (d.serveOff cs).host.later = cs := rfl

/-! ### writeByte -/

@[simp] theorem Dev.writeByte_regs (d : Dev) (da : Nat) (b : Byte) : (d.writeByte da b).regs = d.regs := rfl
@[simp] theorem Dev.writeByte_sh (d : Dev) (da : Nat) (b : Byte) : (d.writeByte da b).sh = d.sh := rfl
@[simp] theorem Dev.writeByte_froze (d : Dev) (da : Nat) (b : Byte) : (d.writeByte da b).froze = d.froze := rfl
@[simp] theorem Dev.writeByte_groups (d : Dev) (da : Nat) (b : Byte) : (d.writeByte da b).groups = d.groups := rfl
@[simp] theorem Dev.writeByte_pwr (d : Dev) (da : Nat) (b : Byte) : (d.writeByte da b).pwr = d.pwr := rfl
@[simp] theorem Dev.writeByte_tm (d : Dev) (da : Nat) (b : Byte) : (d.writeByte da b).tm = d.tm := rfl
@[simp] theorem Dev.writeByte_host (d : Dev) (da : Nat) (b : Byte) : (d.writeByte da b).host = d.host := rfl
@[simp] theorem Dev.writeByte_reeve (d : Dev) (da : Nat) (b : Byte) : (d.writeByte da b).reeve = d.reeve := rfl
@[simp] theorem Dev.writeByte_couch (d : Dev) (da : Nat) (b : Byte) : (d.writeByte da b).couch = d.couch := rfl
@[simp] theorem Dev.writeByte_flt (d : Dev) (da : Nat) (b : Byte) : (d.writeByte da b).flt = d.flt := rfl
@[simp] theorem Dev.writeByte_scan (d : Dev) (da : Nat) (b : Byte) : (d.writeByte da b).scan = d.scan := rfl
@[simp] theorem Dev.writeByte_sync (d : Dev) (da : Nat) (b : Byte) : (d.writeByte da b).sync = d.sync := rfl
@[simp] theorem Dev.writeByte_tone (d : Dev) (da : Nat) (b : Byte) : (d.writeByte da b).tone = d.tone := rfl
@[simp] theorem Dev.writeByte_tithe (d : Dev) (da : Nat) (b : Byte) : (d.writeByte da b).tithe = d.tithe := rfl
@[simp] theorem Dev.writeByte_cal (d : Dev) (da : Nat) (b : Byte) : (d.writeByte da b).cal = d.cal := rfl
@[simp] theorem Dev.writeByte_aging (d : Dev) (da : Nat) (b : Byte) : (d.writeByte da b).aging = d.aging := rfl
@[simp] theorem Dev.writeByte_tdl (d : Dev) (da : Nat) (b : Byte) : (d.writeByte da b).tdl = d.tdl := rfl
@[simp] theorem Dev.writeByte_panel (d : Dev) (da : Nat) (b : Byte) : (d.writeByte da b).panel = d.panel := rfl
@[simp] theorem Dev.writeByte_rects (d : Dev) (da : Nat) (b : Byte) : (d.writeByte da b).rects = d.rects := rfl
@[simp] theorem Dev.writeByte_trim (d : Dev) (da : Nat) (b : Byte) : (d.writeByte da b).trim = d.trim := rfl
@[simp] theorem Dev.writeByte_nv (d : Dev) (da : Nat) (b : Byte) : (d.writeByte da b).nv = d.nv := rfl
@[simp] theorem Dev.writeByte_mgmt (d : Dev) (da : Nat) (b : Byte) : (d.writeByte da b).mgmt = d.mgmt := rfl
@[simp] theorem Dev.writeByte_repair (d : Dev) (da : Nat) (b : Byte) : (d.writeByte da b).repair = d.repair := rfl
@[simp] theorem Dev.writeByte_free (d : Dev) (da : Nat) (b : Byte) : (d.writeByte da b).free = d.free := rfl

@[simp] theorem Dev.writeByte_mem (d : Dev) (da : Nat) (b : Byte) : (d.writeByte da b).bank.mem = (d.putByte da b).bank.mem := rfl

/-! ### Free values -/

@[simp] theorem Dev.takeBool_regs (d : Dev) : (d.takeBool.2).regs = d.regs := rfl
@[simp] theorem Dev.takeBool_sh (d : Dev) : (d.takeBool.2).sh = d.sh := rfl
@[simp] theorem Dev.takeBool_froze (d : Dev) : (d.takeBool.2).froze = d.froze := rfl
@[simp] theorem Dev.takeBool_groups (d : Dev) : (d.takeBool.2).groups = d.groups := rfl
@[simp] theorem Dev.takeBool_pwr (d : Dev) : (d.takeBool.2).pwr = d.pwr := rfl
@[simp] theorem Dev.takeBool_tm (d : Dev) : (d.takeBool.2).tm = d.tm := rfl
@[simp] theorem Dev.takeBool_host (d : Dev) : (d.takeBool.2).host = d.host := rfl
@[simp] theorem Dev.takeBool_bank (d : Dev) : (d.takeBool.2).bank = d.bank := rfl
@[simp] theorem Dev.takeBool_reeve (d : Dev) : (d.takeBool.2).reeve = d.reeve := rfl
@[simp] theorem Dev.takeBool_couch (d : Dev) : (d.takeBool.2).couch = d.couch := rfl
@[simp] theorem Dev.takeBool_flt (d : Dev) : (d.takeBool.2).flt = d.flt := rfl
@[simp] theorem Dev.takeBool_scan (d : Dev) : (d.takeBool.2).scan = d.scan := rfl
@[simp] theorem Dev.takeBool_sync (d : Dev) : (d.takeBool.2).sync = d.sync := rfl
@[simp] theorem Dev.takeBool_tone (d : Dev) : (d.takeBool.2).tone = d.tone := rfl
@[simp] theorem Dev.takeBool_tithe (d : Dev) : (d.takeBool.2).tithe = d.tithe := rfl
@[simp] theorem Dev.takeBool_cal (d : Dev) : (d.takeBool.2).cal = d.cal := rfl
@[simp] theorem Dev.takeBool_aging (d : Dev) : (d.takeBool.2).aging = d.aging := rfl
@[simp] theorem Dev.takeBool_tdl (d : Dev) : (d.takeBool.2).tdl = d.tdl := rfl
@[simp] theorem Dev.takeBool_panel (d : Dev) : (d.takeBool.2).panel = d.panel := rfl
@[simp] theorem Dev.takeBool_rects (d : Dev) : (d.takeBool.2).rects = d.rects := rfl
@[simp] theorem Dev.takeBool_trim (d : Dev) : (d.takeBool.2).trim = d.trim := rfl
@[simp] theorem Dev.takeBool_nv (d : Dev) : (d.takeBool.2).nv = d.nv := rfl
@[simp] theorem Dev.takeBool_mgmt (d : Dev) : (d.takeBool.2).mgmt = d.mgmt := rfl
@[simp] theorem Dev.takeBool_repair (d : Dev) : (d.takeBool.2).repair = d.repair := rfl

/-! ### Free numbers -/

@[simp] theorem Dev.takeNat_regs (d : Dev) (n : Nat) : ((d.takeNat n).2).regs = d.regs := rfl
@[simp] theorem Dev.takeNat_sh (d : Dev) (n : Nat) : ((d.takeNat n).2).sh = d.sh := rfl
@[simp] theorem Dev.takeNat_froze (d : Dev) (n : Nat) : ((d.takeNat n).2).froze = d.froze := rfl
@[simp] theorem Dev.takeNat_groups (d : Dev) (n : Nat) : ((d.takeNat n).2).groups = d.groups := rfl
@[simp] theorem Dev.takeNat_pwr (d : Dev) (n : Nat) : ((d.takeNat n).2).pwr = d.pwr := rfl
@[simp] theorem Dev.takeNat_tm (d : Dev) (n : Nat) : ((d.takeNat n).2).tm = d.tm := rfl
@[simp] theorem Dev.takeNat_host (d : Dev) (n : Nat) : ((d.takeNat n).2).host = d.host := rfl
@[simp] theorem Dev.takeNat_bank (d : Dev) (n : Nat) : ((d.takeNat n).2).bank = d.bank := rfl
@[simp] theorem Dev.takeNat_reeve (d : Dev) (n : Nat) : ((d.takeNat n).2).reeve = d.reeve := rfl
@[simp] theorem Dev.takeNat_couch (d : Dev) (n : Nat) : ((d.takeNat n).2).couch = d.couch := rfl
@[simp] theorem Dev.takeNat_flt (d : Dev) (n : Nat) : ((d.takeNat n).2).flt = d.flt := rfl
@[simp] theorem Dev.takeNat_scan (d : Dev) (n : Nat) : ((d.takeNat n).2).scan = d.scan := rfl
@[simp] theorem Dev.takeNat_sync (d : Dev) (n : Nat) : ((d.takeNat n).2).sync = d.sync := rfl
@[simp] theorem Dev.takeNat_tone (d : Dev) (n : Nat) : ((d.takeNat n).2).tone = d.tone := rfl
@[simp] theorem Dev.takeNat_tithe (d : Dev) (n : Nat) : ((d.takeNat n).2).tithe = d.tithe := rfl
@[simp] theorem Dev.takeNat_cal (d : Dev) (n : Nat) : ((d.takeNat n).2).cal = d.cal := rfl
@[simp] theorem Dev.takeNat_aging (d : Dev) (n : Nat) : ((d.takeNat n).2).aging = d.aging := rfl
@[simp] theorem Dev.takeNat_tdl (d : Dev) (n : Nat) : ((d.takeNat n).2).tdl = d.tdl := rfl
@[simp] theorem Dev.takeNat_panel (d : Dev) (n : Nat) : ((d.takeNat n).2).panel = d.panel := rfl
@[simp] theorem Dev.takeNat_rects (d : Dev) (n : Nat) : ((d.takeNat n).2).rects = d.rects := rfl
@[simp] theorem Dev.takeNat_trim (d : Dev) (n : Nat) : ((d.takeNat n).2).trim = d.trim := rfl
@[simp] theorem Dev.takeNat_nv (d : Dev) (n : Nat) : ((d.takeNat n).2).nv = d.nv := rfl
@[simp] theorem Dev.takeNat_mgmt (d : Dev) (n : Nat) : ((d.takeNat n).2).mgmt = d.mgmt := rfl
@[simp] theorem Dev.takeNat_repair (d : Dev) (n : Nat) : ((d.takeNat n).2).repair = d.repair := rfl

/-! ### Free answers -/

@[simp] theorem Dev.takeEcc_regs (d : Dev) : (d.takeEcc.2).regs = d.regs := rfl
@[simp] theorem Dev.takeEcc_sh (d : Dev) : (d.takeEcc.2).sh = d.sh := rfl
@[simp] theorem Dev.takeEcc_froze (d : Dev) : (d.takeEcc.2).froze = d.froze := rfl
@[simp] theorem Dev.takeEcc_groups (d : Dev) : (d.takeEcc.2).groups = d.groups := rfl
@[simp] theorem Dev.takeEcc_pwr (d : Dev) : (d.takeEcc.2).pwr = d.pwr := rfl
@[simp] theorem Dev.takeEcc_tm (d : Dev) : (d.takeEcc.2).tm = d.tm := rfl
@[simp] theorem Dev.takeEcc_host (d : Dev) : (d.takeEcc.2).host = d.host := rfl
@[simp] theorem Dev.takeEcc_bank (d : Dev) : (d.takeEcc.2).bank = d.bank := rfl
@[simp] theorem Dev.takeEcc_reeve (d : Dev) : (d.takeEcc.2).reeve = d.reeve := rfl
@[simp] theorem Dev.takeEcc_couch (d : Dev) : (d.takeEcc.2).couch = d.couch := rfl
@[simp] theorem Dev.takeEcc_flt (d : Dev) : (d.takeEcc.2).flt = d.flt := rfl
@[simp] theorem Dev.takeEcc_scan (d : Dev) : (d.takeEcc.2).scan = d.scan := rfl
@[simp] theorem Dev.takeEcc_sync (d : Dev) : (d.takeEcc.2).sync = d.sync := rfl
@[simp] theorem Dev.takeEcc_tone (d : Dev) : (d.takeEcc.2).tone = d.tone := rfl
@[simp] theorem Dev.takeEcc_tithe (d : Dev) : (d.takeEcc.2).tithe = d.tithe := rfl
@[simp] theorem Dev.takeEcc_cal (d : Dev) : (d.takeEcc.2).cal = d.cal := rfl
@[simp] theorem Dev.takeEcc_aging (d : Dev) : (d.takeEcc.2).aging = d.aging := rfl
@[simp] theorem Dev.takeEcc_tdl (d : Dev) : (d.takeEcc.2).tdl = d.tdl := rfl
@[simp] theorem Dev.takeEcc_panel (d : Dev) : (d.takeEcc.2).panel = d.panel := rfl
@[simp] theorem Dev.takeEcc_rects (d : Dev) : (d.takeEcc.2).rects = d.rects := rfl
@[simp] theorem Dev.takeEcc_trim (d : Dev) : (d.takeEcc.2).trim = d.trim := rfl
@[simp] theorem Dev.takeEcc_nv (d : Dev) : (d.takeEcc.2).nv = d.nv := rfl
@[simp] theorem Dev.takeEcc_mgmt (d : Dev) : (d.takeEcc.2).mgmt = d.mgmt := rfl
@[simp] theorem Dev.takeEcc_repair (d : Dev) : (d.takeEcc.2).repair = d.repair := rfl

/-! ### leaveL1 -/

@[simp] theorem Dev.leaveL1_sh (d : Dev) : (d.leaveL1).sh = d.sh := by unfold Dev.leaveL1; split <;> rfl
@[simp] theorem Dev.leaveL1_froze (d : Dev) : (d.leaveL1).froze = d.froze := by unfold Dev.leaveL1; split <;> rfl
@[simp] theorem Dev.leaveL1_groups (d : Dev) : (d.leaveL1).groups = d.groups := by unfold Dev.leaveL1; split <;> rfl
@[simp] theorem Dev.leaveL1_pwr (d : Dev) : (d.leaveL1).pwr = d.pwr := by unfold Dev.leaveL1; split <;> rfl
@[simp] theorem Dev.leaveL1_tm (d : Dev) : (d.leaveL1).tm = d.tm := by unfold Dev.leaveL1; split <;> rfl
@[simp] theorem Dev.leaveL1_bank (d : Dev) : (d.leaveL1).bank = d.bank := by unfold Dev.leaveL1; split <;> rfl
@[simp] theorem Dev.leaveL1_reeve (d : Dev) : (d.leaveL1).reeve = d.reeve := by unfold Dev.leaveL1; split <;> rfl
@[simp] theorem Dev.leaveL1_couch (d : Dev) : (d.leaveL1).couch = d.couch := by unfold Dev.leaveL1; split <;> rfl
@[simp] theorem Dev.leaveL1_flt (d : Dev) : (d.leaveL1).flt = d.flt := by unfold Dev.leaveL1; split <;> rfl
@[simp] theorem Dev.leaveL1_scan (d : Dev) : (d.leaveL1).scan = d.scan := by unfold Dev.leaveL1; split <;> rfl
@[simp] theorem Dev.leaveL1_sync (d : Dev) : (d.leaveL1).sync = d.sync := by unfold Dev.leaveL1; split <;> rfl
@[simp] theorem Dev.leaveL1_tone (d : Dev) : (d.leaveL1).tone = d.tone := by unfold Dev.leaveL1; split <;> rfl
@[simp] theorem Dev.leaveL1_tithe (d : Dev) : (d.leaveL1).tithe = d.tithe := by unfold Dev.leaveL1; split <;> rfl
@[simp] theorem Dev.leaveL1_cal (d : Dev) : (d.leaveL1).cal = d.cal := by unfold Dev.leaveL1; split <;> rfl
@[simp] theorem Dev.leaveL1_aging (d : Dev) : (d.leaveL1).aging = d.aging := by unfold Dev.leaveL1; split <;> rfl
@[simp] theorem Dev.leaveL1_tdl (d : Dev) : (d.leaveL1).tdl = d.tdl := by unfold Dev.leaveL1; split <;> rfl
@[simp] theorem Dev.leaveL1_panel (d : Dev) : (d.leaveL1).panel = d.panel := by unfold Dev.leaveL1; split <;> rfl
@[simp] theorem Dev.leaveL1_rects (d : Dev) : (d.leaveL1).rects = d.rects := by unfold Dev.leaveL1; split <;> rfl
@[simp] theorem Dev.leaveL1_trim (d : Dev) : (d.leaveL1).trim = d.trim := by unfold Dev.leaveL1; split <;> rfl
@[simp] theorem Dev.leaveL1_nv (d : Dev) : (d.leaveL1).nv = d.nv := by unfold Dev.leaveL1; split <;> rfl
@[simp] theorem Dev.leaveL1_mgmt (d : Dev) : (d.leaveL1).mgmt = d.mgmt := by unfold Dev.leaveL1; split <;> rfl
@[simp] theorem Dev.leaveL1_repair (d : Dev) : (d.leaveL1).repair = d.repair := by unfold Dev.leaveL1; split <;> rfl
@[simp] theorem Dev.leaveL1_free (d : Dev) : (d.leaveL1).free = d.free := by unfold Dev.leaveL1; split <;> rfl

/-! ### Read back -/

theorem Dev.grp_setGrp (d : Dev) (g : Nat) (x : GroupSt) (g' : Nat) : (d.setGrp g x).grp g' = if g' = g then x else d.grp g' := mget_mset ..
@[simp] theorem Dev.grp_setGrp_same (d : Dev) (g : Nat) (x : GroupSt) : (d.setGrp g x).grp g = x := by simp [Dev.grp_setGrp]

theorem Dev.domRec_setDomRec (d : Dev) (n : Nat) (x : Dom) (n' : Nat) : (d.setDomRec n x).domRec n' = if n' = n then x else d.domRec n' := mget_mset ..
@[simp] theorem Dev.domRec_setDomRec_same (d : Dev) (n : Nat) (x : Dom) : (d.setDomRec n x).domRec n = x := by simp [Dev.domRec_setDomRec]

theorem Dev.fn_setFn (d : Dev) (f : Nat) (x : Fn) (f' : Nat) : (d.setFn f x).fn f' = if f' = f then x else d.fn f' := mget_mset ..
@[simp] theorem Dev.fn_setFn_same (d : Dev) (f : Nat) (x : Fn) : (d.setFn f x).fn f = x := by simp [Dev.fn_setFn]

theorem Dev.bankRec_setBankRec (d : Dev) (b : Nat) (x : Bank) (b' : Nat) : (d.setBankRec b x).bankRec b' = if b' = b then x else d.bankRec b' := mget_mset ..
@[simp] theorem Dev.bankRec_setBankRec_same (d : Dev) (b : Nat) (x : Bank) : (d.setBankRec b x).bankRec b = x := by simp [Dev.bankRec_setBankRec]

theorem Dev.layer_setLayer (d : Dev) (m : Nat) (x : Layer) (m' : Nat) : (d.setLayer m x).layer m' = if m' = m then x else d.layer m' := mget_mset ..
@[simp] theorem Dev.layer_setLayer_same (d : Dev) (m : Nat) (x : Layer) : (d.setLayer m x).layer m = x := by simp [Dev.layer_setLayer]

theorem Dev.img_setImg (d : Dev) (k : Nat) (x : Img) (k' : Nat) : (d.setImg k x).img k' = if k' = k then x else d.img k' := mget_mset ..
@[simp] theorem Dev.img_setImg_same (d : Dev) (k : Nat) (x : Img) : (d.setImg k x).img k = x := by simp [Dev.img_setImg]

theorem Dev.portR_setPortR (d : Dev) (p : Nat) (x : PortR) (p' : Nat) : (d.setPortR p x).portR p' = if p' = p then x else d.portR p' := mget_mset ..
@[simp] theorem Dev.portR_setPortR_same (d : Dev) (p : Nat) (x : PortR) : (d.setPortR p x).portR p = x := by simp [Dev.portR_setPortR]

theorem Dev.calSt_setCal (d : Dev) (p : Nat) (x : CalSt) (p' : Nat) : (d.setCal p x).calSt p' = if p' = p then x else d.calSt p' := mget_mset ..
@[simp] theorem Dev.calSt_setCal_same (d : Dev) (p : Nat) (x : CalSt) : (d.setCal p x).calSt p = x := by simp [Dev.calSt_setCal]

theorem Dev.tdlSt_setTdl (d : Dev) (p : Nat) (x : TdlSt) (p' : Nat) : (d.setTdl p x).tdlSt p' = if p' = p then x else d.tdlSt p' := mget_mset ..
@[simp] theorem Dev.tdlSt_setTdl_same (d : Dev) (p : Nat) (x : TdlSt) : (d.setTdl p x).tdlSt p = x := by simp [Dev.tdlSt_setTdl]

theorem Dev.panelSt_setPanel (d : Dev) (p : Nat) (x : PanelSt) (p' : Nat) : (d.setPanel p x).panelSt p' = if p' = p then x else d.panelSt p' := mget_mset ..
@[simp] theorem Dev.panelSt_setPanel_same (d : Dev) (p : Nat) (x : PanelSt) : (d.setPanel p x).panelSt p = x := by simp [Dev.panelSt_setPanel]

theorem Dev.byte_putByte (d : Dev) (da : Nat) (b : Byte) (x : Nat) : (d.putByte da b).byte x = if x = da then b else d.byte x := mget_mset ..
theorem Dev.nvByte_nvPut (d : Dev) (ga : Nat) (b : Byte) (x : Nat) : (d.nvPut ga b).nvByte x = if x = ga then b else d.nvByte x := mget_mset ..

end Sys2Proof.Machine
end

