-- ==== Sys2Proof/Laws/Memory.lean ====
section
/-! SUPPORT. The canonical form of bank memory and of the Granary: every operation that writes bytes keeps it, and the state after
reset has it. -/

namespace Sys2Proof.Machine

/-- Both memories of a device are in canonical form. -/
abbrev Memory.wf (d : Dev) : Prop := memWf d.bank.mem = true ∧ nvWf d.nv.mem = true

theorem Memory.wf_reset : Memory.wf State.reset.dev := ⟨rfl, rfl⟩

/-- What leaves both memories alone keeps their form. -/
theorem Memory.wf_congr {b d : Dev} (hm : d.bank.mem = b.bank.mem) (hn : d.nv.mem = b.nv.mem) (h : Memory.wf b) : Memory.wf d := by
  rw [Memory.wf, hm, hn]
  exact h

theorem Memory.wf_foldl {α : Type} (f : Dev → α → Dev) (l : List α) (hf : ∀ d, ∀ x ∈ l, Memory.wf d → Memory.wf (f d x)) :
    ∀ d, Memory.wf d → Memory.wf (l.foldl f d) := by
  induction l with
  | nil => exact fun d h => h
  | cons x l ih =>
    intro d h
    exact ih (fun d y hy => hf d y (List.mem_cons_of_mem x hy)) _ (hf d x (List.mem_cons_self ..) h)

/-! ### Bank memory -/

theorem Memory.wf_putByte (d : Dev) (da : Nat) (b : Byte) (h : Memory.wf d) : Memory.wf (d.putByte da b) :=
  ⟨canon_mset _ _ _ _ h.1, h.2⟩

theorem Memory.wf_writeByte (d : Dev) (da : Nat) (b : Byte) (h : Memory.wf d) : Memory.wf (d.writeByte da b) := wf_putByte d da b h

theorem Memory.wf_putBytes (l : List Byte) : ∀ (d : Dev) (da : Nat), Memory.wf d → Memory.wf (d.putBytes da l) := by
  induction l with
  | nil => exact fun d _ h => h
  | cons b l ih => exact fun d da h => ih _ _ (wf_putByte d da b h)

theorem Memory.wf_putSome (l : List (Option Byte)) : ∀ (d : Dev) (da : Nat), Memory.wf d → Memory.wf (d.putSome da l) := by
  induction l with
  | nil => exact fun d _ h => h
  | cons b l ih =>
    cases b with
    | none => exact fun d da h => ih d _ h
    | some b => exact fun d da h => ih _ _ (wf_writeByte d da b h)

theorem Memory.wf_putItemBytes (k : ItemKind) (l : List Byte) : ∀ (d : Dev) (off : Nat), Memory.wf d → Memory.wf (d.putItemBytes k off l) := by
  induction l with
  | nil => exact fun d _ h => h
  | cons b l ih => exact fun d off h => ih _ _ (wf_putByte d _ b h)

theorem Memory.wf_cleanse (d : Dev) (w : Nat) (h : Memory.wf d) : Memory.wf (d.cleanse w) := by
  unfold Dev.cleanse
  split <;> exact h

theorem Memory.wf_spoil (d : Dev) (w : Nat) (h : Memory.wf d) : Memory.wf (d.spoil w) := by
  unfold Dev.spoil
  split <;> exact h

/-- What changes registers and requests only keeps the form. -/
theorem Memory.wf_rq {b d : Dev} (r : Dev.Rq b d) (h : Memory.wf b) : Memory.wf d := wf_congr (by rw [r]) (by rw [r]) h

theorem Memory.wf_raise (d : Dev) (pg b : Nat) (h : Memory.wf d) : Memory.wf (d.raise pg b) := wf_rq (Dev.raise_rest d pg b) h

theorem Memory.wf_flt (d : Dev) (x : FaultSt) (h : Memory.wf d) : Memory.wf { d with flt := x } := h

theorem Memory.wf_wr (d : Dev) (pg : Nat) (f : Fld) (v i j k : Nat) (h : Memory.wf d) : Memory.wf (d.wr pg f v i j k) := h

theorem Memory.wf_ringPush (d : Dev) (w n : Nat) (f : Fld) (h : Memory.wf d) : Memory.wf (d.ringPush w n f) := by
  unfold Dev.ringPush
  split
  · exact wf_raise _ _ _ h
  · exact h

theorem Memory.wf_putWord (d : Dev) (pg off : Nat) (x : Word) (h : Memory.wf d) : Memory.wf (d.putWord pg off x) := h

theorem Memory.wf_faultState (d : Dev) (h : Memory.wf d) : Memory.wf d.faultState := wf_wr _ _ _ _ _ _ _ h

theorem Memory.wf_putFaults (n : Nat) (g : Nat → Nat) (l : List Nat) (d : Dev) (h : Memory.wf d) :
    Memory.wf (l.foldl (fun d w => d.putFault n w (g w)) d) :=
  wf_foldl (fun d w => d.putFault n w (g w)) l (fun _ _ _ h => h) d h

theorem Memory.wf_fault (d : Dev) (r : FaultRec) (h : Memory.wf d) : Memory.wf (d.fault r) := by
  have w n g := wf_putFaults n g (List.range 16) _ (wf_ringPush d d.flt.wr 16 FAULT.FAULT_RD_INDEX h)
  unfold Dev.fault
  refine wf_raise _ _ _ (wf_faultState _ ?_)
  dsimp only
  generalize hf : List.foldl _ _ _ = e
  have w : Memory.wf e := hf ▸ w _ _
  have w := fun x => wf_flt e x w
  split <;> split
  all_goals first
    | exact w _
    | exact wf_wr _ _ _ _ _ _ _ (w _)

theorem Memory.wf_count (d : Dev) (pg : Nat) (f : Fld) (n i j k : Nat) (h : Memory.wf d) : Memory.wf (d.count pg f n i j k) :=
  wf_rq (.count d pg f n i j k) h

theorem Memory.wf_ueMark (d : Dev) (r da : Nat) (write : Bool) (h : Memory.wf d) : Memory.wf (d.ueMark r da write) := by
  unfold Dev.ueMark
  have w := wf_putWord _ BANKS.pg 0x054 (BitVec.ofNat 32 (r + b2n write * 32))
    (wf_putWord d BANKS.pg 0x050 (BitVec.ofNat 32 (da % 2 ^ 30 + 2 ^ 31)) h)
  cases write
  · exact wf_raise _ _ _ (wf_count _ _ _ _ _ _ _ w)
  · exact wf_raise _ _ _ w

theorem Memory.wf_ueLog (d : Dev) (r da : Nat) (write : Bool) (h : Memory.wf d) : Memory.wf (d.ueLog r da write) :=
  wf_fault _ _ (wf_ueMark d r da write h)

theorem Memory.wf_putItem (d : Dev) (k : ItemKind) (off : Nat) (l : List Byte) (h : Memory.wf d) : Memory.wf (d.putItem k off l) := by
  unfold Dev.putItem
  split
  · exact h
  · exact wf_foldl _ _ (fun d w _ h => wf_cleanse d _ h) _
      (wf_putItemBytes k l _ off (wf_foldl _ _ (fun d w _ h => wf_ueLog d _ _ _ h) d h))

theorem Memory.wf_putAux (d : Dev) (off w x : Nat) (h : Memory.wf d) : Memory.wf (d.putAux off w x) := wf_putItem d _ _ _ h

theorem Memory.wf_eraseBank (d : Dev) (b : Nat) (h : Memory.wf d) : Memory.wf (d.eraseBank b) := ⟨canon_filter _ _ _ h.1, h.2⟩

theorem Memory.wf_moveBank (d : Dev) (b r : Nat) (h : Memory.wf d) : Memory.wf (d.moveBank b r) :=
  wf_foldl (fun d (c : Host.Cell) => d.putByte (c.1 % 2 ^ 24 + r * 2 ^ 24) c.2) _ (fun d _ _ h => wf_putByte d _ _ h) _
    (wf_eraseBank _ b (wf_eraseBank d r h))

theorem Memory.wf_reseed (d : Dev) (banks : List Nat) (old new : Word) (lo hi : Nat) (h : Memory.wf d) :
    Memory.wf (d.reseed banks old new lo hi) := by
  have w := fun (f : Host.Cell → Nat × Byte) (l : List Host.Cell) (d : Dev) (h : Memory.wf d) =>
    wf_foldl (fun d c => d.putByte (f c).1 (f c).2) l (fun d c _ h => wf_putByte d (f c).1 (f c).2 h) d h
  exact w (fun c => (_, _)) _ _ (w (fun c => (c.1, 0)) _ _ h)

/-! ### The Granary -/

theorem Memory.wf_nvPut (d : Dev) (ga : Nat) (b : Byte) (h : Memory.wf d) : Memory.wf (d.nvPut ga b) :=
  ⟨h.1, canon_mset _ _ _ _ h.2⟩

theorem Memory.wf_nvNewBad (d : Dev) (g : Nat) (h : Memory.wf d) : Memory.wf (d.nvNewBad g) := by
  unfold Dev.nvNewBad
  split
  · exact h
  · exact wf_foldl (fun d (e : Byte × Nat) => d.nvPut (8 * g + e.2) e.1) _ (fun d _ _ h => wf_nvPut d _ _ h) _ h

end Sys2Proof.Machine
end

