-- ==== Sys2Proof/WellFormed.lean ====
section
/-! DEFINITION. Which terms of Instr are commands that can reach the block: addresses within their BAR or page, lengths that
their data have, tags and device addresses in range. The meanings are total and do not rest on it. -/

namespace Sys2Proof

/-- A TLP header is at most 12 DW; none for an access that no TLP carries (R77). -/
def hdrOk (h : List Word) : Bool := decide (h.length ≤ 12)

def Acc.wf (a : Acc) : Bool := hdrOk a.hdr

/-- BAR0 is 1 MiB (R65). -/
def bar0Ok (addr len : Nat) : Bool := decide (0 < len ∧ addr + len ≤ 2 ^ 20)

/-- A register's offset within its page's normal view: 4 KiB, 32-bit registers (R46). -/
def offOk (off : Nat) : Bool := decide (off < 0x1000 ∧ off % 4 = 0)

/-- Bank memory is 64 banks of 16 MiB (R108). -/
def daOk (da len : Nat) : Bool := decide (0 < len ∧ da + len ≤ 2 ^ 30)

/-- The Granary is 32 MiB (R365). -/
def gaOk (ga len : Nat) : Bool := decide (0 < len ∧ ga + len ≤ 2 ^ 25)

/-- What cells answer lies in the memory of that many bytes. -/
def Ecc.wf (e : Ecc) (size : Nat) : Bool := e.single.all (fun x => decide (x.1 < size)) && e.ue.all fun x => decide (x < size)

/-- Tags are 14 bits at most (04_host_link). -/
def tagOk (tag : Nat) : Bool := decide (tag < 2 ^ 14)

/-- ISNS voltages at the samples (R43), a list per slot of the frame. -/
def isnsOk (l : List (List Rat)) : Bool := decide (l.length ≤ 4)

/-- A training's operands: 24 lanes, phases 0 to 3, words of 32 bits, EYE values of 8 bits. -/
def TrainIn.wf (t : TrainIn) : Bool :=
  decide (t.failed < 2 ^ 24 ∧ t.phase < 4 ∧ t.ident.length ≤ 12 ∧ t.eyes.length ≤ 24) && t.ident.all (fun i => i.all fun x => decide (x < 2 ^ 32)) &&
    t.eyes.all fun l => decide (l.length ≤ 8) && l.all fun x => decide (x < 256)

/-- Blocks of 132 bits. -/
def Sampled.wf (x : Sampled) : Bool := (x.fed ++ x.got).all fun b => decide (b < 2 ^ 132)

/-- Region codes have four bits (R139). -/
def Met.wf (c : Met) : Bool := c.samples.all fun e => decide (e.1 < 16)
def Composed.wf (c : Composed) : Bool := c.met.wf && c.ecc.wf (2 ^ 30)

def SmbEnd.wf : SmbEnd → Bool
  | .ok data => decide (data < 2 ^ 32)
  | _ => true

def RspIn.wf : RspIn → Bool
  | .ok code x y => decide (code < 16 ∧ x < 2 ^ 32 ∧ y < 2 ^ 32)
  | _ => true

def MsixWrite.wf : MsixWrite → Bool
  | .addr _ x => x.toNat % 4 == 0
  | _ => true

/-- The command is one that can reach the block. -/
def Instr.wf : Instr → Bool
  | .registerWrite a addr len data => a.wf && bar0Ok addr len && decide (data.length = len)
  | .setAliasWrite a _ off _ | .clearAliasWrite a _ off _ => a.wf && offOk off
  | .rcRead a addr len => a.wf && bar0Ok addr len
  | .bar2BankRead _ h da len e => hdrOk h && daOk da len && e.wf (2 ^ 30)
  | .bar2BankWrite _ h da data e | .bar2SetAliasWrite _ h da data e | .bar2ClearAliasWrite _ h da data e =>
    hdrOk h && daOk da data.length && e.wf (2 ^ 30)
  | .granaryWindowRead _ ga len e => gaOk ga len && e.wf (2 ^ 25)
  | .granaryWindowWrite _ h ga => hdrOk h && gaOk ga 1
  | .readCompletion _ tag _ _ data h _ => tagOk tag && decide (data.length ≤ 4096) && hdrOk h
  | .cplTimeout _ tag _ => tagOk tag
  | .linkUp speed width _ => decide (0 < speed ∧ speed ≤ 6) && [1, 2, 4, 8].contains width
  | .ptmDialogueDone host => decide (host < 2 ^ 64)
  | .scrubLine _ line e => decide (line < 2 ^ 18) && e.wf (2 ^ 30)
  | .bankSignDone _ e | .bankVerifyDone _ e | .lineFetchDone _ e | .tableReadDone _ e | .stressOpDone e => e.wf (2 ^ 30)
  | .pageProgramDone e | .granaryReadDone e | .mboxCmdDone e => e.wf (2 ^ 25)
  | .frameFle _ isA isB | .slotFle _ _ isA isB => isnsOk isA && isnsOk isB
  | .imageComplete c => c.wf
  | .rectStaged c e => c.wf && e.wf (2 ^ 30)
  | .panelTempPoll _ e | .smbXferDone e => e.wf
  | .rspReceived _ _ r => r.wf
  | .msixTableWrite _ w => w.wf
  | .tdlTrainDone _ failed ident eyes us phase => (TrainIn.mk failed ident eyes us phase).wf
  | .wmCompare _ _ _ _ lo hi => lo.all Sampled.wf && hi.all Sampled.wf
  | .trimResultReady sweep _ => sweep.all fun x => decide (x.1 < 24 ∧ x.2.1 < 2 ^ 64 ∧ x.2.2 < 2 ^ 64)
  | _ => true

end Sys2Proof
end

