-- ==== Sys2Proof/Tests/Slice0.lean ====
section
/-! SUPPORT. Tests: the worked examples of spec/ beside the model's functions, single steps, one ill-formed term per check of
WellFormed, and for each statement with hypotheses a state and operands that meet them. -/

-- The tests are checked one after another: each evaluates, and together they would want a thread each.
set_option Elab.async false

namespace Sys2Proof.Tests
open Sys2Proof.Machine

/-! ### States and operands of the tests -/

def pf0 : Acc := ⟨.pf0, [], false⟩
def pf1 : Acc := ⟨.pf1, [], false⟩
def pf2 : Acc := ⟨.pf2, [], false⟩

/-- After reset, with Memory Space Enable of every function and PG_CTL.ENABLE of every page set. -/
def T0 : State :=
  let d := Dev.reset
  ⟨[], { d with
    regs := d.regs.take 2 ++ (List.range 0x1C).map (fun p => (rkey (p + 8) 0x004, (1 : Word))) ++ d.regs.drop 2
    host := { d.host with fns := (List.range 3).map fun f => (f, { Fn.reset with mse := true }) } }⟩

theorem test_T0_on : ((List.range 0x28).all fun p => T0.dev.on p HDR.PG_CTL_ENABLE) = true ∧ (List.range 3).all T0.dev.answers = true := by
  decide +kernel
/-- The state after reset with the given words (page, offset, value) put in. -/
def at_ (ws : List (Nat × Nat × Nat)) : State :=
  ⟨[], ws.foldl (fun d w => d.putWord w.1 w.2.1 (BitVec.ofNat 32 w.2.2)) T0.dev⟩
/-- A state with its device changed. -/
def upd (s : State) (f : Dev → Dev) : State := { s with dev := f s.dev }
/-- PF0 in D3. -/
def asleep : State := upd T0 fun d => d.setFn 0 { Fn.reset with mse := true, dstate := 1 }
/-- A host request waits. -/
def queued : State := upd T0 fun d => { d with host := { d.host with later := [.devtimeRead pf0] } }
/-- Bank 0 in VERIFY with the signature of its first n bytes. -/
noncomputable def signedN (n : Nat) : State :=
  ⟨[], { Dev.reset.putWord 7 0x200 3 with
    bank := { Dev.reset.bank with banks := [(0, { Bank.reset with sig := crc64 (Dev.reset.bytes 0 n) })] } }⟩
noncomputable def signed : State := signedN (2 ^ 24)
theorem signedN_sig (n : Nat) : crc64 ((signedN n).dev.bytes 0 n) = ((signedN n).dev.bankRec 0).sig := rfl
/-- The reference raster runs. -/
def running : State := upd T0 fun d => ({ d with scan := { d.scan with run := true } } : Dev).wr SCAN.pg SCAN.CTL_RUN 1
/-- The raster runs and port A follows, emitting; no line is ready. -/
def following : State := upd running fun d =>
  (((d.setPortState 0 1).wr (PANEL.pg 0) HDR.PG_STAT_STATE 7).wr SCAN.pg SCAN.POS_LINE 5).wr (CAL.pg 0) CAL.TBL_STAT_LOST 0
/-- A running pass: bank-source layer 0 of PF0 takes part. -/
def waitPass : Pass :=
  ⟨[(rkey 0x0A 0x040, BitVec.ofNat 32 0x11), (rkey 0x0A 0x058, 0x10001)], 0, false, some 0, 0, [], [], false, []⟩
/-- The same with the layer below the screen. -/
def awayPass : Pass := { waitPass with vals := waitPass.vals ++ [(rkey 0x0A 0x05C, BitVec.ofNat 32 0x40000000)] }
/-- A compose runs in which layer 0 waits: its bank is not PF0's. -/
def waiting : State := upd T0 fun d => { d with couch := { d.couch with
  pass := some waitPass
  layers := [(0, { Layer.reset with use := .waiting })] } }
/-- A curve derivation and a plan for image 0. -/
def toneJob : ToneJob := ⟨0, 0, 0, false, 0, [], [], []⟩
def planJob : PlanJob := ⟨0, 0, 0, false, Curve.none, [], [], 0⟩
/-- The same pass with POLICY 0, HOLD. -/
def holdPass : Pass := { waitPass with vals := [(rkey 0x0A 0x040, 1), (rkey 0x0A 0x058, 0x10001)] }
/-- PARTIAL mode with one rectangle. -/
def partial_ (r : Rect) : State := upd T0 fun d => { d.wr SCAN.pg SCAN.MODE_SEL_PARTIAL 1 with rects := [r] }
/-- A 2 by 2 rectangle with tag 5, in state st. -/
def rect (st : Nat) : Rect := { Rect.make 5 0 0 0 2 2 false false with st := st }
/-- D4 on. -/
def scanOn_ : State := upd T0 fun d => d.setDom 4 3
/-- Port A's driver link runs with its first group enabled. -/
def linked : State := upd T0 fun d => (d.setTdlState 0 2).wr (TDL.pg 0) TDL.GROUPS_EN 1
/-- A STATUS command in progress. -/
def cmd_ : TdlCmd := { op := 2, grp := 0, a0 := 0, a1 := 0, asked := 1, src := 0, rsp := true, ask := false, rspAt := some 8 }
/-- The same; line 0 of the running pass has gone out. -/
def sent_ : State := upd linked fun d => d.setTdl 0 { d.tdlSt 0 with carried := [⟨0, 0, 0, false⟩] }
/-- Port A's panel sequencer stands in panel state st and waits for w. -/
def seq (st : Nat) (w : SeqWait) : State := upd T0 fun d => (d.setPanelState 0 st).setPanel 0 { PanelSt.reset with wait := w }
/-- A calibration runs. -/
def trimRun (cal : Nat) (auto : Bool) : TrimRun := ⟨cal, 0, 0, false, auto, false, [], []⟩
def trimming (cal : Nat) (auto : Bool) : State := upd T0 fun d => { d with trim := { d.trim with run := some (trimRun cal auto) } }
/-- PF0's read with tag 7. -/
def rd_ (j : Job) (addr len : Nat) : DevRead := { fn := 0, tag := 7, job := j, addr := addr, len := len }
/-- A Granary command in step st. -/
def nvCmd_ (op st len : Nat) : NvCmd := ⟨op, 0, hostArea, len, 0, 1, 7, [], st, false⟩
def nvRunning (c : NvCmd) : State := upd T0 fun d => { d with nv := { d.nv with cmd := some c } }
/-- The Granary's command registers: destination, length, pages, argument. -/
def nvRegs (len : Nat) : State := upd T0 fun d =>
  ((((d.setDom 1 3).wr GRANARY.pg GRANARY.DST_GA hostArea).wr GRANARY.pg GRANARY.LEN_BYTES len).wr GRANARY.pg GRANARY.GEOM_PAGES 2).wr GRANARY.pg GRANARY.ARG_LO_ARG 7
/-- One valid copy of a twin record of no bytes. -/
def twin_ : State := upd (nvRunning (nvCmd_ 2 1 0)) fun d =>
  let h : List Byte := leBytes 4 twinMagic ++ leBytes 4 3 ++ leBytes 4 0
  (h ++ leBytes 4 (crc32c h)).zipIdx.foldl (fun d e => d.nvPut (hostArea + e.2) e.1) d
/-- A mailbox command in step st. -/
def mb_ (op st : Nat) : MbCmd := ⟨op, 0, 0, 0, 0, 64, 0, [], st, false⟩
def mbRunning (c : MbCmd) : State := upd T0 fun d => { d with mgmt := { d.mgmt with cmd := some c } }
def mbRegs (arg0 len : Nat) : State := upd T0 fun d => ((d.setDom 1 3).wr MGMT.pg MGMT.MB_ARG arg0).wr MGMT.pg MGMT.MB_LEN_BYTES len
/-- A repair of tile (0, 0) of image 0, in the given phase. -/
def repair_ (ph : Nat) (rows : List (List Nat)) : Repair := ⟨0, 0, 0, [], rows, ph, false, 0⟩
def repairing (r : Repair) : State := upd T0 fun d => { d with repair := { d.repair with tiles := [r] } }
/-- Slot k's window, GLOBAL without latches. -/
def win (k : Nat) : Win := ⟨k, false, false, false, false⟩

/-- What a step left of the device, where it answered a next state. -/
def after (c : Instr) (s : State) : Dev :=
  match step { s with pending := [c] } with
  | .next t => t.dev
  | _ => s.dev

/-! ### Worked examples of the spec -/

/-- 09_composition, three graphic layers: 302.511 cd/m² encodes as code 2,550 (R166). -/
theorem test_fs36_code : fsCode (cf24 (302511 / 10000000)) = 2550 := by decide +kernel

/-- The same example: byte 0xBC expands to 754 (R153), and the three layers blend to code 2,550 (R170). -/
theorem test_expand : expand10 8 0xBC = 754 := by decide +kernel

theorem test_blend :
    (blend false 0x80 [cf24 (1 / 10)] 409 (blend true 255 [cf24 (decodeTF 3 203 257)] 257
      (blend false 255 [cf24 (decodeTF 0 203 754)] 1023 [cf24 0]))).map fsCode = [2550] := by decide +kernel

/-- 14_output_pipeline, one green subpixel: C10 gives 652 (R263), and line 500 of frame 0x1A2B has polarity 1 (R264). -/
theorem test_dither : ditherC10 2 10 2 1 1000 500 41752 = 652 := by decide +kernel

theorem test_polarity : polarity 1 0x1A2B 1000 500 = 1 ∧ polarity 1 0x1A2C 1000 500 = 0 := by decide +kernel

/-- 12_scan_timing, 3840×2160 at 60 Hz: LINE_TIME 7,575,758 ps and PIXRATE 523 (R233). -/
theorem test_raster_times : rne Mode.base.tLine = 7575758 ∧ (Mode.base.pixRate / 1000000).floor = 523 := by decide +kernel

/-- 15_aging_irdrop, one cell of the supply-drop solve: 181,394 µV (R290), and with SENS 16,384 a factor of 17,162 (R291). -/
theorem test_supply_drop_cell :
    (IrNet.relax ⟨3, 3, 5120, 5120, 0, 0⟩ [0, 0, 0, 0, 157000] [0, 176500, 0, 180100, 178000, 180100, 0, 176500, 0] 4).getD 4 0 =
      181394 := by decide +kernel

theorem test_supply_drop_factor : (irFactor [(rkey AGING.pg 0x108, 0x50004000)] 0 181394).1 = 17162 := by decide +kernel

/-- 19_calibration, a CURMODEL run: a = 1.043, c = 410 mA, RES 139 (R356). -/
theorem test_regression :
    let d := T0.dev.setAcc 0 ⟨512, 512 * 12000, 512 * 12926, 512 * (9000000 + 144000000), 512 * (9387000 + 12000 * 12926),
      512 * (9823041 + 12926 * 12926)⟩
    (d.regression 0).map (fun r => (r.1, r.2.1, nearSqrt (r.2.2.1 * 100000000 / (r.2.2.2 * r.2.2.2)))) =
      some (1043 / 1000, 410, 139) := by decide +kernel

/-- 16_energy_budget, a bright sky: Imax is 18,750 mA, and 0.540883 and 0.964213 floor to 17,723 and 31,595 (R297). -/
theorem test_plan_floors : floorU115 (540883 / 1000000) = 17723 ∧ floorU115 (964213 / 1000000) = 31595 := by decide +kernel

/-- ISNS codes are truncated and saturate (R43): 1 V × 4,096 / 1.5 V is 2,730.67. -/
theorem test_isns_code : isnsCode 1 = 2730 ∧ isnsCode (3 / 2) = 4095 ∧ isnsCode 2 = 4095 := by decide +kernel

/-- Crack resistance: an LSB is 4.88 Ω, and above 20 kΩ is full scale (R44). -/
theorem test_crack_code : crkCode (488 / 100) = 1 ∧ crkCode 20001 = 4095 := by decide +kernel

/-- Every valid header has even parity (R311). -/
theorem test_headers_even :
    (BlockKind.all.all fun k => ((List.range 4).countP fun i => bit k.header i) % 2 == 0) = true := by decide

/-- SHA3-512 of the empty message, as the standard's examples give it: A69F73CC A23A9AC5 … (FIPS 202; log entry 4). -/
theorem test_sha3_512 : (sha3_512 []).take 8 = [0xA6, 0x9F, 0x73, 0xCC, 0xA2, 0x3A, 0x9A, 0xC5] := by decide +kernel

/-! ### Single steps -/

/-- 04_host_link, a narrow link: x4 at 32 GT/s has FETCH_BUDGET 14,500 MB/s (R70). -/
theorem test_link_up :
    let d := after (.linkUp 5 4 true) T0
    d.rd HOSTIF.pg HOSTIF.FETCH_BUDGET_MBPS = 14500 ∧ d.rd HOSTIF.pg HOSTIF.LINK_STAT_SPEED = 5 ∧ d.pend HOSTIF.pg 2 = true := by
  decide +kernel

/-- IDENT.DEVICE_ID reads 0x1F5C_8640 (R61). -/
theorem test_read_ident : (after (.rcRead pf0 0x40 4) T0).host.cpl.data = [0x40, 0x86, 0x5C, 0x1F] := by decide +kernel

/-- PF1 may not write PF0's page: E_PRIV, and the violation is counted (R67, R77). -/
theorem test_privilege :
    let d := after (.registerWrite pf1 (0x18 * 0x4000 + 0x44) 4 (wordBytes 3)) T0
    d.rd SCAN.pg HDR.ERR_CODE_CODE = E.PRIV ∧ d.rd HOSTIF.pg HOSTIF.VIOL_CNT_COUNT = 1 := by decide +kernel

/-- REQ takes the group's shadow values for the check (R53). -/
theorem test_commit_req : ((after (.commitReq pf0 0x18) T0).grp 1).check.map (·.pg) = some 0x18 := by decide +kernel

/-- A READY bank that PF0 owns takes its bytes, and the set alias sets bits (R65, R115). -/
theorem test_bank_write :
    (after (.bar2BankWrite 0 [] 8 [some 0x12] ⟨[], []⟩) (at_ [(7, 0x100, 1), (7, 0x200, 5)])).byte 8 = 0x12 := by decide +kernel

theorem test_bank_set_alias :
    (after (.bar2SetAliasWrite 0 [] 8 [some 0x12] ⟨[], []⟩) (upd (at_ [(7, 0x100, 1), (7, 0x200, 5)]) (·.putByte 8 0x21))).byte 8 = 0x33 := by
  decide +kernel

/-- One XTAL cycle of device time on an empty queue (log entry 1). -/
theorem test_idle_tick : step ⟨[], { Dev.reset with tm := ⟨0, 0, true, 0, 0⟩ }⟩ = .next ⟨[], { Dev.reset with tm := ⟨40, 0, true, 0, 0⟩ }⟩ := rfl

/-- VREF with ladder code 4,095 and trim code 128 stands at 3.00 V (R41), and an output that is not enabled at no voltage. -/
theorem test_vref :
    let d := (((Dev.reset.setDom 6 3).wr (PANEL.pg 0) PANEL.VREF_LADDER 4095).wr (PANEL.pg 0) PANEL.VREF_TRIM 128).wr (PANEL.pg 0) PANEL.VREF_EN 1
    let d := d.setPanel 0 { d.panelSt 0 with vref := true }
    d.vrefVolts 0 0 = some 3 ∧ d.vrefVolts 0 1 = none := by decide +kernel

/-! ### WellFormed: a term that each check refuses -/

theorem test_wf_header : (Instr.errClear ⟨.pf0, List.replicate 13 0, false⟩ 0).wf = true ∧
    (Instr.registerWrite ⟨.pf0, List.replicate 13 0, false⟩ 0 4 (wordBytes 0)).wf = false := by decide +kernel

theorem test_wf_bar0 : (Instr.rcRead pf0 0xFFFFC 4).wf = true ∧ (Instr.rcRead pf0 0xFFFFC 8).wf = false ∧
    (Instr.rcRead pf0 0 0).wf = false := by decide +kernel

theorem test_wf_data : (Instr.registerWrite pf0 0 2 [some 1, none]).wf = true ∧ (Instr.registerWrite pf0 0 8 (wordBytes 1)).wf = false := by decide +kernel

theorem test_wf_offset : (Instr.setAliasWrite pf0 0 0xFFC 1).wf = true ∧ (Instr.setAliasWrite pf0 0 0x1000 1).wf = false ∧
    (Instr.clearAliasWrite pf0 0 0x42 1).wf = false := by decide +kernel

theorem test_wf_da : (Instr.bar2BankRead 0 [] 0x3FFFFFFC 4 ⟨[], []⟩).wf = true ∧
    (Instr.bar2BankRead 0 [] 0x3FFFFFFC 8 ⟨[], []⟩).wf = false ∧ (Instr.bar2BankWrite 0 [] 0 [] ⟨[], []⟩).wf = false := by decide +kernel

theorem test_wf_ga : (Instr.granaryWindowRead 0 0x1FFFFFC 4 ⟨[], []⟩).wf = true ∧ (Instr.granaryWindowRead 0 0x1FFFFFC 8 ⟨[], []⟩).wf = false ∧
    (Instr.granaryWindowWrite 0 [] 0x2000000).wf = false := by decide +kernel

theorem test_wf_ecc : (Instr.scrubLine 0 0 ⟨[(0x40000000, true)], []⟩).wf = false ∧ (Instr.pageProgramDone ⟨[], [0x2000000]⟩).wf = false ∧
    (Instr.scrubLine 0 0x40000 ⟨[], []⟩).wf = false := by decide +kernel

theorem test_wf_tag : (Instr.cplTimeout 0 0x3FFF 0).wf = true ∧ (Instr.cplTimeout 0 0x4000 0).wf = false := by decide +kernel

theorem test_wf_link : (Instr.linkUp 6 8 true).wf = true ∧ (Instr.linkUp 7 8 true).wf = false ∧ (Instr.linkUp 5 16 true).wf = false := by
  decide +kernel

theorem test_wf_time : (Instr.ptmDialogueDone (2 ^ 64)).wf = false := by decide +kernel

theorem test_wf_isns : (Instr.frameFle 0 [[1 / 2]] []).wf = true ∧ (Instr.frameFle 0 [[], [], [], [], []] []).wf = false := by decide +kernel

theorem test_wf_compose : (Instr.imageComplete ⟨⟨0, 0, 0, [], [(16, [])], []⟩, ⟨[], []⟩⟩).wf = false := by decide +kernel

theorem test_wf_smbus : (Instr.smbXferDone (.ok (2 ^ 32))).wf = false := by decide +kernel

theorem test_wf_rsp : (Instr.rspReceived 0 0 (.ok 16 0 0)).wf = false := by decide +kernel

theorem test_wf_msix : (Instr.msixTableWrite 0 (.addr 0 2)).wf = false := by decide +kernel

theorem test_wf_training : (Instr.tdlTrainDone 0 (2 ^ 24) [] [] 0 0).wf = false ∧ (Instr.tdlTrainDone 0 0 [some (2 ^ 32)] [] 0 0).wf = false ∧
    (Instr.tdlTrainDone 0 0 [] [[256]] 0 0).wf = false ∧ (Instr.tdlTrainDone 0 0 [] [] 0 4).wf = false := by decide +kernel

theorem test_wf_sampled : (Instr.wmCompare 0 0 0 0 (some ⟨[], [2 ^ 132]⟩) none).wf = false := by decide +kernel

theorem test_wf_sweep : (Instr.trimResultReady [(24, 0, 0)] false).wf = false := by decide +kernel

/-! ### Witnesses: the hypotheses of the statements can be met, clause by clause -/

theorem witness_RegisterWriteStores :
    (∃ (s : State) (a : Acc) (pg : Nat) (off : Nat) (x : Word), s.dev.awake a = true ∧ s.dev.mayWrite a.who pg = true ∧ storesOnly pg off x = true) ∧
    (∃ (s : State) (a : Acc) (pg : Nat), s.dev.awake a = true ∧ s.dev.mayWrite a.who pg = true ∧ pg < 0x28 ∧ (evSource pg).2 ≠ 0) ∧
    (∃ (s : State) (a : Acc) (pg : Nat) (off : Nat), s.dev.awake a = true ∧ off < 0x1000 ∧ off % 4 = 0 ∧ 0x28 ≤ pg ∧ pg < 0x40) ∧
    (∃ (s : State) (a : Acc) (pg : Nat) (off : Nat), s.dev.awake a = true ∧ off < 0x1000 ∧ off % 4 = 0 ∧ pg < 0x40) ∧
    (∃ (s : State) (a : Acc) (pg : Nat) (off : Nat) (x : Word) (y : Word), s.dev.awake a = true ∧ s.dev.mayWrite a.who pg = true ∧ storesOnly pg off x = true ∧ storesOnly pg (off + 4) y = true ∧ off % 8 = 0) ∧
    (∃ (s : State) (a : Acc) (pg : Nat) (off : Nat) (x : Word), s.dev.awake a = true ∧ s.dev.mayWrite a.who pg = true ∧ actingReg pg off = true ∧ badValue pg off x = false ∧ pg < 0x28 ∧ 0x02C ≤ off ∧ off < 0x1000 ∧ off % 4 = 0 ∧ (pg = BANKS.pg → off < 0x100 ∨ 0x200 ≤ off)) ∧
    (∃ (s : State) (a : Acc) (pg : Nat) (x : Word), s.dev.awake a = true ∧ s.dev.mayWrite a.who pg = true ∧ actingCtl pg = true ∧ bit x.toNat 1 = false) ∧
    (∃ (s : State) (a : Acc) (addr : Nat) (len : Nat), s.dev.awake a = true ∧ shapeOk addr len = true) :=
  ⟨⟨T0, pf0, 0x18, 0x44, 3, by decide +kernel⟩, ⟨T0, pf0, 0x18, by decide +kernel⟩, ⟨T0, pf0, 0x28, 0x44, by decide +kernel⟩, ⟨T0, pf0, 0x18, 0x44, by decide +kernel⟩, ⟨T0, pf0, 0x0A, 0x48, 3, 5, by decide +kernel⟩, ⟨T0, pf0, 0x02, 0x044, 1, by decide +kernel⟩, ⟨T0, pf0, 0x18, 1, by decide +kernel⟩, ⟨T0, pf0, 0x60040, 16, by decide +kernel⟩⟩

theorem witness_RegisterWriteDropped :
    (∃ (s : State) (a : Acc) (pg : Nat) (off : Nat), s.dev.awake a = true ∧ s.dev.mayWrite a.who pg = false ∧ regDefined pg off = true ∧ off < 0x1000 ∧ off % 4 = 0 ∧ isVote pg off = false) ∧
    (∃ (s : State) (a : Acc) (addr : Nat) (len : Nat), s.dev.awake a = true ∧ shapeOk addr len = false ∧ misshapen addr len true = false) ∧
    (∃ (s : State) (a : Acc) (addr : Nat) (len : Nat), s.dev.awake a = true ∧ shapeOk addr len = false ∧ misshapen addr len true = true) ∧
    (∃ (s : State) (a : Acc) (pg : Nat) (off : Nat) (len : Nat) (i : Nat), s.dev.awake a = true ∧ s.dev.mayWrite a.who pg = true ∧ regDefined pg off = true ∧ off < 0x1000 ∧ off % 4 = 0 ∧ isVote pg off = false ∧ 0 < len ∧ len < 4 ∧ i + len ≤ 4) ∧
    (∃ (s : State) (a : Acc) (pg : Nat) (off : Nat) (xs : List (Option Byte)), s.dev.awake a = true ∧ s.dev.mayWrite a.who pg = true ∧ regDefined pg off = true ∧ off < 0x1000 ∧ off % 4 = 0 ∧ isVote pg off = false ∧ xs.length = 4 ∧ xs.contains none = true) ∧
    (∃ (s : State) (a : Acc) (pg : Nat) (off : Nat) (x : Word), s.dev.awake a = true ∧ s.dev.mayWrite a.who pg = true ∧ badValue pg off x = true ∧ 0x02C ≤ off ∧ off < 0x1000 ∧ off % 4 = 0 ∧ actingReg pg off = false) ∧
    (∃ (s : State) (a : Acc) (pg : Nat) (off : Nat) (len : Nat) (i : Nat), s.dev.awake a = true ∧ regDefined pg off = false ∧ pg < 0x40 ∧ off < 0x1000 ∧ off % 4 = 0 ∧ 0 < len ∧ len ≤ 4 ∧ i + len ≤ 4) ∧
    (∃ (s : State) (a : Acc), s.dev.deaf a = true) ∧
    (∃ (s : State) (a : Acc), s.dev.queues a = true) :=
  ⟨⟨T0, pf1, 0x18, 0x44, by decide +kernel⟩, ⟨T0, pf0, 0x6002C, 12, by decide +kernel⟩, ⟨T0, pf0, 4, 8, by decide +kernel⟩, ⟨T0, pf0, 0x18, 0x44, 3, 1, by decide +kernel⟩, ⟨T0, pf0, 0x18, 0x44, [some 0, some 0, none, some 0], by decide +kernel⟩, ⟨T0, pf0, 0x07, 0x040, 0, by decide +kernel⟩, ⟨T0, pf1, 0x18, 0x02C, 2, 2, by decide +kernel⟩, ⟨asleep, pf0, by decide +kernel⟩, ⟨queued, pf0, by decide +kernel⟩⟩

theorem witness_AliasWritesChangeBits :
    (∃ (s : State) (a : Acc) (pg : Fin 64) (off : Nat) (x : Word), s.dev.awake a = true ∧ s.dev.mayWrite a.who pg.val = true ∧ storesOnly pg.val off (s.dev.aliasWord true pg.val off x) = true) ∧
    (∃ (s : State) (a : Acc) (pg : Fin 64) (off : Nat) (x : Word), s.dev.awake a = true ∧ s.dev.mayWrite a.who pg.val = true ∧ storesOnly pg.val off (s.dev.aliasWord false pg.val off x) = true) :=
  ⟨⟨T0, pf0, 0x18, 0x44, 3, by decide +kernel⟩, ⟨T0, pf0, 0x18, 0x44, 3, by decide +kernel⟩⟩

theorem witness_ReadsReplyAndClear :
    (∃ (s : State) (a : Acc) (pg : Nat) (off : Nat), s.settled = true ∧ s.dev.awake a = true ∧ pg < 0x28 ∧ off < 0x1000 ∧ off % 4 = 0 ∧ (off = 0x040 → pg ≠ AOBB.pg ∧ pg ≠ FAULT.pg) ∧ (off = 0x048 → pg ≠ FAULT.pg) ∧ (off = 0x05C → pg ≠ COUCH.pg ∨ s.dev.composing = false)) ∧
    (∃ (s : State) (a : Acc), s.dev.awake a = true) ∧
    (∃ (s : State) (a : Acc), s.dev.awake a = true) ∧
    (∃ (s : State) (a : Acc), s.dev.awake a = true) ∧
    (∃ (s : State) (a : Acc) (addr : Nat) (len : Nat), s.dev.awake a = true ∧ shapeOk addr len = false ∧ misshapen addr len false = true) ∧
    (∃ (s : State) (a : Acc), s.dev.deaf a = true) ∧
    (∃ (s : State) (a : Acc), a.who ≠ .filpor ∧ s.dev.host.serving = false ∧ s.dev.halted = false ∧ s.dev.inL1 = true) ∧
    (∃ (s : State) (a : Acc), s.dev.deaf a = true) ∧
    (∃ (s : State) (a : Acc) (addr : Nat) (len : Nat), s.dev.awake a = true ∧ shapeOk addr len = true) :=
  ⟨⟨T0, pf0, 0x07, 0x200, by decide +kernel⟩, ⟨T0, pf0, by decide +kernel⟩, ⟨T0, pf0, by decide +kernel⟩, ⟨T0, pf0, by decide +kernel⟩, ⟨T0, pf0, 4, 8, by decide +kernel⟩, ⟨asleep, pf0, by decide +kernel⟩, ⟨upd T0 (fun d => d.wr HOSTIF.pg HDR.PG_STAT_STATE 4), pf0, by decide +kernel⟩, ⟨asleep, pf0, by decide +kernel⟩, ⟨T0, pf0, 0x60042, 3, by decide +kernel⟩⟩

theorem witness_HeaderCommands :
    (∃ (s : State) (a : Acc) (pg : Fin 64), s.dev.awake a = true ∧ pg.val < 0x28 ∧ s.dev.mayWrite a.who pg.val = true) ∧
    (∃ (s : State) (a : Acc) (pg : Fin 64), s.dev.awake a = true ∧ s.settled = true ∧ pg.val < 0x28 ∧ s.dev.mayWrite a.who pg.val = true) ∧
    (∃ (s : State) (a : Acc) (pg : Fin 64), s.dev.awake a = true ∧ pg.val < 0x28 ∧ s.dev.mayWrite a.who pg.val = true) ∧
    (∃ (s : State) (a : Acc) (pg : Fin 64), s.dev.awake a = true ∧ pg.val < 0x28 ∧ s.dev.mayWrite a.who pg.val = false) ∧
    (∃ (s : State) (a : Acc) (pg : Fin 64), s.dev.awake a = true ∧ pg.val < 0x28 ∧ s.dev.mayWrite a.who pg.val = false) :=
  ⟨⟨at_ [(0x18, 0x24, 2)], pf0, 0x18, by decide +kernel⟩, ⟨at_ [(0x18, 0x14, 3)], pf0, 0x18, by decide +kernel⟩, ⟨T0, pf0, 0x18, by decide +kernel⟩, ⟨T0, pf1, 0x18, by decide +kernel⟩, ⟨T0, pf1, 0x18, by decide +kernel⟩⟩

theorem witness_EventDelivery :
    (∃ (s : State) (a : Acc) (pg : Fin 64) (i : Fin 32), s.dev.awake a = true ∧ pg.val < 0x28 ∧ s.dev.mayWrite a.who pg.val = true ∧ i.val < (evSource pg.val).2 ∧ bit (s.dev.word pg.val 0x010).toNat i.val = true ∧ s.dev.deliverable (evOf pg.val i.val) = false ∧ s.dev.crierOn = true ∧ s.dev.routeFn (evOf pg.val i.val) < 3) ∧
    (∃ (s : State) (a : Acc) (pg : Fin 64) (i : Fin 32), s.dev.awake a = true ∧ pg.val < 0x28 ∧ s.dev.mayWrite a.who pg.val = true ∧ i.val < (evSource pg.val).2 ∧ bit (s.dev.word pg.val 0x010).toNat i.val = true ∧ s.dev.deliverable (evOf pg.val i.val) = false ∧ s.dev.wakeRouted (evOf pg.val i.val) = true ∧ s.dev.rd MOOT.pg MOOT.WAKE_EN_EVENT = 1) ∧
    (∃ (s : State) (a : Acc), s.dev.awake a = true ∧ s.dev.mayWrite a.who CRIER.pg = true) :=
  ⟨⟨at_ [(0x18, 0x10, 1), (1, 0x100, 0x145)], pf0, 0x18, 0, by decide +kernel⟩, ⟨at_ [(0x18, 0x10, 1), (4, 0x400 + 4 * evOf 0x18 0, 0x1800), (1, 0x88, 0x20)], pf0, 0x18, 0, by decide +kernel⟩, ⟨at_ [(0x18, 0x10, 1), (0x18, 0x14, 1), (1, 0x100, 0x145)], pf0, by decide +kernel⟩⟩

theorem witness_SoftResetResets :
    (∃ (s : State) (a : Acc) (pg : Fin 64), s.dev.awake a = true ∧ s.settled = true ∧ pg.val < 0x28 ∧ pg.val ∉ [0x01, 0x02, 0x24] ∧ s.dev.mayWrite a.who pg.val = true ∧ s.dev.softRefused pg.val = false) ∧
    (∃ (s : State) (a : Acc) (pg : Fin 64), s.dev.awake a = true ∧ s.settled = true ∧ pg.val ∈ [0x04, 0x05, 0x08, 0x16, 0x20] ∧ s.dev.mayWrite a.who pg.val = true) ∧
    (∃ (s : State) (a : Acc) (pg : Fin 64), s.dev.awake a = true ∧ pg.val < 0x28 ∧ s.dev.mayWrite a.who pg.val = true ∧ s.dev.softRefused pg.val = true) ∧
    (∃ (s : State) (a : Acc) (pg : Fin 64), s.dev.awake a = true ∧ pg.val ∈ [0x01, 0x02, 0x24] ∧ s.dev.mayWrite a.who pg.val = true ∧ s.dev.softRefused pg.val = false) :=
  ⟨⟨at_ [(0x18, 0x24, 2), (0x18, 0x44, 3)], pf0, 0x18, by decide +kernel⟩, ⟨at_ [(0x16, 0x24, 2)], pf0, 0x16, by decide +kernel⟩, ⟨upd T0 fun d => { d with scan := { d.scan with run := true } }, pf0, 0x18, by decide +kernel⟩, ⟨at_ [(0x24, 0x24, 2)], pf0, 0x24, by decide +kernel⟩⟩

theorem witness_CommitRequest :
    (∃ (s : State) (a : Acc) (pg : Fin 64) (g : Group), s.dev.awake a = true ∧ pageGroup pg.val = some g ∧ s.dev.mayWrite a.who pg.val = true ∧ (s.dev.grp g.num).check = none) ∧
    (∃ (s : State) (a : Acc) (pg : Fin 64) (g : Group), s.dev.awake a = true ∧ pageGroup pg.val = some g ∧ s.dev.mayWrite a.who pg.val = true ∧ (s.dev.grp g.num).check ≠ none ∧ a.same = false) ∧
    (∃ (s : State) (a : Acc) (pg : Fin 64) (g : Group), s.dev.awake a = true ∧ pageGroup pg.val = some g ∧ s.dev.mayWrite a.who pg.val = true ∧ (s.dev.grp g.num).check ≠ none ∧ a.same = true) ∧
    (∃ (s : State) (a : Acc) (pg : Fin 64), s.dev.awake a = true ∧ pg.val < 0x28 ∧ pageGroup pg.val = none ∧ s.dev.mayWrite a.who pg.val = true) :=
  ⟨⟨T0, pf0, 0x18, .scan, by decide +kernel⟩, ⟨upd T0 fun d => d.setGrp 1 { GroupSt.idle with check := some ⟨0x18, 0, []⟩ }, pf0, 0x18, .scan, by decide +kernel⟩, ⟨upd T0 fun d => d.setGrp 1 { GroupSt.idle with check := some ⟨0x18, 0, []⟩ }, { pf0 with same := true }, 0x18, .scan, by decide +kernel⟩, ⟨T0, pf0, 0x07, by decide +kernel⟩⟩

theorem witness_CommitOutcome :
    (∃ (s : State) (g : Fin 4) (c : Check), s.dev.bank.claim = none ∧ (s.dev.grp g.val).check = some c ∧ firstBad (s.dev.groupBad g.val c) = none ∧ (s.dev.placeCheck (s.dev.viewWith g.val c.copy)).1 = 0) ∧
    (∃ (s : State) (g : Fin 4) (c : Check) (b : Bad), s.dev.bank.claim = none ∧ (s.dev.grp g.val).check = some c ∧ c.pg < 0x28 ∧ firstBad (s.dev.groupBad g.val c) = some b) ∧
    (∃ (s : State) (g : Fin 4) (k : Capture), (s.dev.grp g.val).pend = some k ∧ k.byRaster = false) ∧
    (∃ (s : State) (g : Fin 4), (s.dev.grp g.val).pend = none) ∧
    (∃ (s : State) (g : Fin 4) (c : Check), (s.dev.grp g.val).check = some c) :=
  ⟨⟨upd T0 fun d => d.setGrp 0 { GroupSt.idle with check := some ⟨0x09, 0, []⟩ }, 0, ⟨0x09, 0, []⟩, by decide +kernel⟩, ⟨upd T0 fun d => (d.setGrp 2 { GroupSt.idle with check := some ⟨0x1A, 0, [(rkey 0x1A 0x44, 1)]⟩ }), 2, ⟨0x1A, 0, [(rkey 0x1A 0x44, 1)]⟩, ⟨2, 0x1A, 0x44, 0⟩, by decide +kernel⟩, ⟨upd T0 fun d => (d.setGrp 2 { GroupSt.idle with pend := some ⟨[(rkey 0x1A 0x44, 500)], 0, false, 0⟩ }), 2, ⟨[(rkey 0x1A 0x44, 500)], 0, false, 0⟩, by decide +kernel⟩, ⟨T0, 0, by decide +kernel⟩, ⟨upd T0 (fun d => d.setGrp 0 { d.grp 0 with check := some ⟨2, 0, []⟩ }), 0, ⟨2, 0, []⟩, by decide +kernel⟩⟩

theorem witness_LinkErrorsLogged :
    (∃ (s : State) (a : Acc), s.dev.ecrcChecked a.who = true) ∧
    (∃ (s : State) (a : Acc), s.dev.ecrcChecked a.who = false) ∧
    (∃ (s : State) (f : Fin 3), s.dev.takes (Req.ofFn f) = true) ∧
    (∃ (s : State) (f : Fin 3), s.dev.takes (Req.ofFn f) = true) :=
  ⟨⟨upd T0 (fun d => d.setFn 0 { d.fn 0 with ecrcCheck := true }), pf0, by decide +kernel⟩, ⟨T0, pf0, by decide +kernel⟩, ⟨T0, 0, by decide +kernel⟩, ⟨T0, 0, by decide +kernel⟩⟩

theorem witness_LinkStates :
    (∃ (s : State), s.dev.host.reads = [] ∧ s.dev.host.todo = []) ∧
    (∃ (s : State), s.dev.pwr.perst = false) ∧
    (∃ (s : State) (speed : Nat) (width : Nat), s.dev.pwr.perst = false ∧ speed ∈ [1, 2, 3, 4, 5, 6] ∧ width ∈ [1, 2, 4, 8]) ∧
    (∃ (s : State) (f : Fin 3), (s.dev.host.reads.any fun r => r.fn == f.val) = false ∧ (s.dev.host.todo.any fun w => w.fn == f.val) = false ∧ s.dev.couch.pass = none) ∧
    (∃ (s : State), s.dev.linkIdle = true ∧ (s.dev.link = 2 ∨ s.dev.link = 3)) ∧
    (∃ (s : State), s.dev.pwr.perst = true) ∧
    (∃ (s : State) (a : Acc), a.who ≠ .filpor ∧ s.dev.host.serving = false ∧ s.dev.halted = false) ∧
    (∃ (s : State) (a : Acc), a.who ≠ .filpor ∧ s.dev.host.serving = false ∧ s.dev.halted = false) ∧
    (∃ (s : State) (a : Acc), a.who ≠ .filpor ∧ s.dev.host.serving = false ∧ s.dev.halted = false) ∧
    (∃ (s : State) (a : Acc), a.who ≠ .filpor ∧ s.dev.host.serving = false ∧ s.dev.halted = false) ∧
    (∃ (s : State) (a : Acc), a.who ≠ .filpor ∧ s.dev.host.serving = false ∧ s.dev.halted = false) ∧
    (∃ (s : State) (a : Acc), a.who ≠ .filpor ∧ s.dev.host.serving = false ∧ s.dev.halted = false) ∧
    (∃ (s : State) (a : Acc), a.who ≠ .filpor ∧ s.dev.host.serving = false ∧ s.dev.halted = false) ∧
    (∃ (s : State) (a : Acc), a.who ≠ .filpor ∧ s.dev.host.serving = false ∧ s.dev.halted = false) ∧
    (∃ (s : State) (a : Acc), a.who ≠ .filpor ∧ s.dev.host.serving = false ∧ s.dev.halted = false) ∧
    (∃ (s : State) (a : Acc), a.who ≠ .filpor ∧ s.dev.host.serving = false ∧ s.dev.halted = false) ∧
    (∃ (s : State) (a : Acc), a.who ≠ .filpor ∧ s.dev.host.serving = false ∧ s.dev.halted = false) ∧
    (∃ (s : State) (a : Acc), a.who ≠ .filpor ∧ s.dev.host.serving = false ∧ s.dev.halted = false) ∧
    (∃ (s : State), s.dev.host.serving = false ∧ s.dev.halted = false) ∧
    (∃ (s : State), s.dev.host.serving = false ∧ s.dev.halted = false) ∧
    (∃ (s : State), s.dev.host.serving = false ∧ s.dev.halted = false) :=
  ⟨⟨T0, by decide +kernel⟩, ⟨at_ [(5, 0x40, 0x800)], by decide +kernel⟩, ⟨upd T0 fun d => { d with host := { d.host with downAt := some 0 } }, 6, 8, by decide +kernel⟩, ⟨T0, 0, by decide +kernel⟩, ⟨at_ [(5, 8, 0x20)], by decide +kernel⟩, ⟨upd (at_ [(1, 0x88, 1)]) fun d => { d with pwr := { d.pwr with perst := true } }, by decide +kernel⟩, ⟨at_ [(5, 8, 4)], pf0, by decide +kernel⟩, ⟨at_ [(5, 8, 4)], pf0, by decide +kernel⟩, ⟨at_ [(5, 8, 4)], pf0, by decide +kernel⟩, ⟨at_ [(5, 8, 4)], pf0, by decide +kernel⟩, ⟨at_ [(5, 8, 4)], pf0, by decide +kernel⟩, ⟨at_ [(5, 8, 4)], pf0, by decide +kernel⟩, ⟨at_ [(5, 8, 4)], pf0, by decide +kernel⟩, ⟨at_ [(5, 8, 4)], pf0, by decide +kernel⟩, ⟨at_ [(5, 8, 4)], pf0, by decide +kernel⟩, ⟨at_ [(5, 8, 4)], pf0, by decide +kernel⟩, ⟨at_ [(5, 8, 4)], pf0, by decide +kernel⟩, ⟨at_ [(5, 8, 4)], pf0, by decide +kernel⟩, ⟨at_ [(5, 8, 4)], by decide +kernel⟩, ⟨at_ [(5, 8, 4)], by decide +kernel⟩, ⟨at_ [(5, 8, 4)], by decide +kernel⟩⟩

theorem witness_ConfigAndMessages :
    (∃ (s : State) (us : Nat) (up : Nat), s.dev.pwr.testMode = false ∧ s.dev.pwr.perst = false ∧ s.dev.halted = false ∧ 40000 ≤ us ∧ 20000 ≤ up) ∧
    (∃ (s : State) (f : Fin 3) (us : Nat) (up : Nat), s.dev.pwr.testMode = false ∧ s.dev.pwr.perst = false ∧ s.dev.halted = false ∧ 40000 ≤ us ∧ 20000 ≤ up ∧ s.dev.host.todo.all (fun w => w.fn != f.val) = true) ∧
    (∃ (s : State), (s.dev.pwr.testMode = true ∨ s.dev.pwr.perst = true ∨ s.dev.halted = true)) ∧
    (∃ (s : State) (us : Nat), s.dev.pwr.testMode = false ∧ s.dev.pwr.perst = false ∧ s.dev.halted = false ∧ us < 40000) ∧
    (∃ (s : State) (f : Fin 3), s.dev.takes (Req.ofFn f) = true) ∧
    (∃ (s : State) (f : Fin 3), s.dev.takes (Req.ofFn f) = true) ∧
    (∃ (s : State) (f : Fin 3) (v : Fin 256), s.dev.host.reqs.any (fun r => r.f == f.val && r.v == v.val && !r.held) = true ∧ s.dev.holding f.val v.val = false) :=
  ⟨⟨T0, 40000, 20000, by decide +kernel⟩, ⟨T0, 0, 40000, 20000, by decide +kernel⟩, ⟨upd T0 fun d => { d with pwr := { d.pwr with perst := true } }, by decide +kernel⟩, ⟨T0, 0, by decide +kernel⟩, ⟨T0, 0, by decide +kernel⟩, ⟨T0, 0, by decide +kernel⟩, ⟨upd (at_ [(5, 8, 0x20)]) fun d => ({ d with host := { d.host with reqs := [⟨0, 3, false⟩] } } : Dev).setFn 0 { (Fn.reset.setEntry 3 ⟨4096, 7, false⟩) with bme := true, msixEn := true }, 0, 3, by decide +kernel⟩⟩

theorem witness_PtmDialogues :
    (∃ (s : State), (s.dev.fn 0).ptmEn = true ∧ s.dev.rd HOSTIF.pg HOSTIF.PTM_CTL_PERIOD_MS ≠ 0 ∧ s.dev.on HOSTIF.pg HOSTIF.LINK_STAT_DL_UP = true) ∧
    (∃ (s : State), s.dev.host.ptmReq = true ∧ s.dev.on SYNC.pg SYNC.DISC_CTL_DISCIPLINE = false) ∧
    (∃ (s : State), s.dev.host.ptmReq = true ∧ s.dev.on SYNC.pg SYNC.DISC_CTL_DISCIPLINE = false ∧ s.dev.src ≠ 2) ∧
    (∃ (s : State) (h : Nat), s.dev.host.ptmReq = true ∧ s.dev.on SYNC.pg SYNC.DISC_CTL_DISCIPLINE = true ∧ s.dev.devtime + 1000000 < h) ∧
    (∃ (s : State) (h : Nat), s.dev.host.ptmReq = true ∧ s.dev.on SYNC.pg SYNC.DISC_CTL_DISCIPLINE = true ∧ h ≤ s.dev.devtime + 1000000) ∧
    (∃ (s : State), (s.dev.fn 0).ptmEn = true ∧ bit (s.dev.word HOSTIF.pg 0x00C).toNat 4 = false ∧ s.dev.src ≠ 2) :=
  ⟨⟨upd (at_ [(5, 0x40, 0x800), (5, 0x70, 0x3FF)]) fun d => (d.setFn 0 { Fn.reset with ptmEn := true }).wr HOSTIF.pg HOSTIF.PTM_CTL_PERIOD_MS 10, by decide +kernel⟩, ⟨upd T0 fun d => { d with host := { d.host with ptmReq := true } }, by decide +kernel⟩, ⟨upd T0 fun d => { d with host := { d.host with ptmReq := true } }, by decide +kernel⟩, ⟨upd T0 fun d => ({ d with host := { d.host with ptmReq := true } } : Dev).wr SYNC.pg SYNC.DISC_CTL_DISCIPLINE 1, 2000000, by decide +kernel⟩, ⟨upd T0 fun d => ({ d with host := { d.host with ptmReq := true } } : Dev).wr SYNC.pg SYNC.DISC_CTL_DISCIPLINE 1, 20, by decide +kernel⟩, ⟨upd T0 fun d => d.setFn 0 { Fn.reset with ptmEn := true }, by decide +kernel⟩⟩

theorem witness_BankReads :
    (∃ (s : State) (f : Fin 3) (da : Nat) (len : Nat), s.dev.takes (Req.ofFn f) = true ∧ da < 2 ^ 30 ∧ s.dev.handover (bankOf da) = false ∧ s.dev.ownerAccess (f.val + 1) (bankOf da) false = true ∧ s.dev.mustWait (f.val + 1) da = false ∧ (wordsOf da len).any s.dev.isBad = false) ∧
    (∃ (s : State) (f : Fin 3) (da : Nat) (len : Nat), s.dev.takes (Req.ofFn f) = true ∧ da < 2 ^ 30 ∧ s.dev.handover (bankOf da) = false ∧ s.dev.ownerAccess (f.val + 1) (bankOf da) false = true ∧ s.dev.mustWait (f.val + 1) da = false ∧ (wordsOf da len).any s.dev.isBad = true) ∧
    (∃ (s : State) (f : Fin 3) (da : Nat), s.dev.takes (Req.ofFn f) = true ∧ da < 2 ^ 30 ∧ (s.dev.bankRec (bankOf da)).next = none ∧ s.dev.ownerAccess (f.val + 1) (bankOf da) false = false) ∧
    (∃ (s : State) (f : Fin 3) (da : Nat), s.dev.takes (Req.ofFn f) = true ∧ da < 2 ^ 30 ∧ s.dev.handover (bankOf da) = false ∧ s.dev.ownerAccess (f.val + 1) (bankOf da) false = true ∧ s.dev.mustWait (f.val + 1) da = true) ∧
    (∃ (s : State) (f : Fin 3) (hdr : List Word), s.dev.deaf ⟨Req.ofFn f, hdr, false⟩ = true) ∧
    (∃ (s : State) (f : Fin 3) (hdr : List Word), s.dev.queues ⟨Req.ofFn f, hdr, false⟩ = true) :=
  ⟨⟨at_ [(7, 0x100, 1), (7, 0x200, 5)], 0, 64, 8, by decide +kernel⟩, ⟨upd (at_ [(7, 0x100, 1), (7, 0x200, 5)]) fun d => { d with bank := { d.bank with bad := [8] } }, 0, 64, 8, by decide +kernel⟩, ⟨T0, 0, 64, by decide +kernel⟩, ⟨at_ [(7, 0x100, 1), (7, 0x200, 4)], 0, 64, by decide +kernel⟩, ⟨asleep, 0, [], by decide +kernel⟩, ⟨queued, 0, [], by decide +kernel⟩⟩

theorem witness_BankWrites :
    (∃ (s : State) (f : Fin 3) (da : Nat) (data : List (Option Byte)), s.dev.takes (Req.ofFn f) = true ∧ da < 2 ^ 30 ∧ s.dev.handover (bankOf da) = false ∧ s.dev.ownerAccess (f.val + 1) (bankOf da) true = true ∧ s.dev.mustWait (f.val + 1) da = false ∧ (wordsOf da data.length).any s.dev.isBad = false ∧ s.dev.bank.spareDue = []) ∧
    (∃ (s : State) (f : Fin 3) (da : Nat) (w : Nat) (data : List (Option Byte)), s.dev.takes (Req.ofFn f) = true ∧ da < 2 ^ 30 ∧ s.dev.handover (bankOf da) = false ∧ s.dev.ownerAccess (f.val + 1) (bankOf da) true = true ∧ s.dev.mustWait (f.val + 1) da = false ∧ w ∈ fullWords da data) ∧
    (∃ (s : State) (f : Fin 3) (da : Nat) (data : List (Option Byte)), s.dev.takes (Req.ofFn f) = true ∧ da < 2 ^ 30 ∧ s.dev.handover (bankOf da) = false ∧ s.dev.ownerAccess (f.val + 1) (bankOf da) true = true ∧ s.dev.mustWait (f.val + 1) da = false ∧ (wordsOf da data.length).any s.dev.isBad = false ∧ s.dev.bank.spareDue = []) ∧
    (∃ (s : State) (f : Fin 3) (da : Nat) (data : List (Option Byte)), s.dev.takes (Req.ofFn f) = true ∧ da < 2 ^ 30 ∧ s.dev.handover (bankOf da) = false ∧ s.dev.ownerAccess (f.val + 1) (bankOf da) true = true ∧ s.dev.mustWait (f.val + 1) da = false ∧ (wordsOf da data.length).any s.dev.isBad = false ∧ s.dev.bank.spareDue = []) ∧
    (∃ (s : State) (f : Fin 3) (da : Nat), s.dev.takes (Req.ofFn f) = true ∧ da < 2 ^ 30 ∧ (s.dev.bankRec (bankOf da)).next = none ∧ s.dev.ownerAccess (f.val + 1) (bankOf da) true = false) ∧
    (∃ (s : State) (f : Fin 3) (da : Nat), s.dev.takes (Req.ofFn f) = true ∧ da < 2 ^ 30 ∧ s.dev.handover (bankOf da) = true ∧ (s.dev.bankRec (bankOf da)).next = some (f.val + 1)) :=
  ⟨⟨at_ [(7, 0x100, 1), (7, 0x200, 5)], 0, 64, [some 1, some 2, none, some 3], by decide +kernel⟩, ⟨upd (at_ [(7, 0x100, 1), (7, 0x200, 5)]) fun d => { d with bank := { d.bank with bad := [8] } }, 0, 64, 8, List.replicate 8 (some 1), by decide +kernel⟩, ⟨at_ [(7, 0x100, 1), (7, 0x200, 5)], 0, 64, [some 1, some 2, none, some 3], by decide +kernel⟩, ⟨upd (at_ [(7, 0x100, 1), (7, 0x200, 5)]) (·.putByte 65 7), 0, 64, [some 1, some 2, none, some 3], by decide +kernel⟩, ⟨T0, 0, 64, by decide +kernel⟩, ⟨upd T0 fun d => d.startHandover 0 1, 0, 64, by decide +kernel⟩⟩

theorem witness_BankUpkeep :
    (∃ (s : State) (b : Fin 64) (line : Nat), s.dev.on BANKS.pg BANKS.ECC_CTL_SCRUB_EN = true ∧ s.dev.bankState b.val = 5 ∧ (wordsOf (b.val * 2 ^ 24 + line % 2 ^ 18 * 64) 64).any s.dev.isBad = false) ∧
    (∃ (s : State) (b : Fin 64) (line : Nat) (da : Nat), s.dev.on BANKS.pg BANKS.ECC_CTL_SCRUB_EN = true ∧ s.dev.bankState b.val = 5 ∧ da / 64 = b.val * 2 ^ 18 + line % 2 ^ 18 ∧ s.dev.bank.borrowed = [] ∧ (wordsOf (b.val * 2 ^ 24 + line % 2 ^ 18 * 64) 64).any s.dev.isBad = false) ∧
    (∃ (s : State) (a : Acc) (b : Fin 64) (ow : Fin 16), s.dev.awake a = true ∧ a.who = .pf0 ∧ ow.val < 12 ∧ (s.dev.region b.val = 0 ∨ s.dev.region b.val = 6) ∧ s.dev.handover b.val = false ∧ (s.dev.bankRec b.val).deferred = none ∧ s.dev.bankState b.val = 5 ∧ s.dev.couch.pass = none) ∧
    (∃ (s : State) (a : Acc) (b : Fin 64) (ow : Fin 16), s.dev.awake a = true ∧ s.dev.mayWrite a.who BANKS.pg = true ∧ ow.val < 12 ∧ a.who ≠ .pf0 ∧ s.dev.owner b.val ≠ Own.of a.who) ∧
    (∃ (s : State) (b : Fin 64) (o : Nat), s.dev.handover b.val = true ∧ (s.dev.bankRec b.val).next = some o ∧ o < 12 ∧ s.dev.itemOf b.val = none ∧ (s.dev.region b.val = 0 ∨ s.dev.region b.val = 6) ∧ s.dev.bank.waiting = []) ∧
    (∃ (s : State) (b : Fin 64), (s.dev.bankRec b.val).zeroFill = true ∧ (s.dev.bankRec b.val).deferred = none ∧ s.dev.handover b.val = false ∧ s.dev.bank.waiting = [] ∧ s.dev.bank.spareDue = []) ∧
    (∃ (s : State) (b : Fin 64), s.dev.bankState b.val = 4 ∧ (s.dev.bankRec b.val).zeroFill = false ∧ (s.dev.bankRec b.val).deferred = none ∧ s.dev.bank.waiting = [] ∧ s.dev.bank.spareDue = []) ∧
    (∃ (s : State) (b : Fin 64), s.dev.bankState b.val = 1) ∧
    (∃ (s : State) (b : Fin 64), s.dev.bankState b.val = 3 ∧ (s.dev.bankRec b.val).markLost = false ∧ (s.dev.bank.bad.any fun w => w / 2 ^ 21 == b.val) = false ∧ crc64 (s.dev.bytes (b.val * 2 ^ 24) (2 ^ 24)) = (s.dev.bankRec b.val).sig ∧ (s.dev.bankRec b.val).deferred = none ∧ s.dev.bank.waiting = [] ∧ s.dev.bank.spareDue = []) ∧
    (∃ (s : State) (b : Fin 64), s.dev.bankState b.val = 3 ∧ (s.dev.bankRec b.val).markLost = true ∧ s.dev.itemOf b.val = none ∧ (s.dev.bankRec b.val).deferred = none ∧ s.dev.bank.waiting = [] ∧ s.dev.bank.spareDue = []) ∧
    (∃ (s : State) (b : Fin 64) (ecc : Ecc), s.dev.on BANKS.pg BANKS.ECC_CTL_SCRUB_EN = true ∧ s.dev.bankState b.val = 5 ∧ s.dev.bank.fresh = [] ∧ ecc.single = []) ∧
    (∃ (s : State) (b : Fin 64), s.dev.bankState b.val = 1) ∧
    (∃ (s : State) (b : Fin 64), s.dev.bankState b.val = 3 ∧ (s.dev.bankRec b.val).deferred = none) ∧
    (∃ (s : State) (b : Fin 64) (o : Nat), s.dev.handover b.val = true ∧ (s.dev.bankRec b.val).next = some o ∧ o < 12) :=
  ⟨⟨at_ [(7, 0x200, 5), (7, 0x040, 0x100000FF)], 0, 0, by decide +kernel⟩, ⟨at_ [(7, 0x200, 5), (7, 0x040, 0x100000FF)], 0, 1, 72, by decide +kernel⟩, ⟨at_ [(7, 0x200, 5)], pf0, 0, 2, by decide +kernel⟩, ⟨at_ [(5, 0x48, 0x80)], pf1, 0, 2, by decide +kernel⟩, ⟨upd T0 fun d => d.startHandover 0 1, 0, 1, by decide +kernel⟩, ⟨upd (at_ [(7, 0x200, 4)]) fun d => d.setBankRec 0 { Bank.reset with zeroFill := true }, 0, by decide +kernel⟩, ⟨at_ [(7, 0x200, 4)], 0, by decide +kernel⟩, ⟨at_ [(7, 0x200, 1)], 0, by decide +kernel⟩, ⟨signed, 0, ⟨by decide +kernel, by decide +kernel, by decide +kernel, signedN_sig _, by decide +kernel, by decide +kernel, by decide +kernel⟩⟩, ⟨upd (at_ [(7, 0x200, 3)]) fun d => d.setBankRec 0 { Bank.reset with markLost := true }, 0, by decide +kernel⟩, ⟨at_ [(7, 0x200, 5), (7, 0x040, 0x100000FF)], 0, ⟨[], [64]⟩, by decide +kernel⟩, ⟨at_ [(7, 0x200, 1)], 0, by decide +kernel⟩, ⟨upd (at_ [(7, 0x200, 3)]) (fun d => d.setBankRec 0 { Bank.reset with markLost := true }), 0, by decide +kernel⟩, ⟨upd T0 (fun d => d.startHandover 0 1), 0, 1, by decide +kernel⟩⟩

theorem witness_SparingRuns :
    (∃ (s : State) (a : Acc) (x : Word) (b : Nat), s.dev.awake a = true ∧ a.who = .pf0 ∧ BANKS.SPARE_CTL_ABORT.of x = 0 ∧ s.dev.sparing = false ∧ BANKS.SPARE_CTL_BANK.of x = b ∧ s.dev.bankState b = 5 ∧ s.dev.servedBy b = none ∧ s.dev.spareFree (if b < 32 then 0 else 1) = true) ∧
    (∃ (s : State) (a : Acc) (x : Word), s.dev.awake a = true ∧ a.who = .pf0 ∧ BANKS.SPARE_CTL_ABORT.of x = 0 ∧ s.dev.sparing = true) ∧
    (∃ (s : State) (a : Acc) (x : Word), s.dev.awake a = true ∧ a.who = .pf0 ∧ BANKS.SPARE_CTL_ABORT.of x = 0 ∧ s.dev.sparing = false ∧ s.dev.bankState (BANKS.SPARE_CTL_BANK.of x) ≠ 5) ∧
    (∃ (s : State) (a : Acc) (x : Word), s.dev.awake a = true ∧ s.dev.mayWrite a.who BANKS.pg = true ∧ a.who ≠ .pf0 ∧ BANKS.SPARE_CTL_ABORT.of x = 0) ∧
    (∃ (s : State) (a : Acc) (b : Nat), s.dev.awake a = true ∧ s.dev.mayWrite a.who BANKS.pg = true ∧ s.dev.sparing = true ∧ s.dev.bank.spareDue = [] ∧ s.dev.bankState b = 7 ∧ s.dev.rd BANKS.pg BANKS.SPARE_STAT_BANK = b) ∧
    (∃ (s : State) (b : Nat), s.dev.sparing = true ∧ s.dev.bank.spareDue = [] ∧ s.dev.bankState b = 7 ∧ s.dev.rd BANKS.pg BANKS.SPARE_STAT_BANK = b ∧ s.dev.bank.spareTo = 0) ∧
    (∃ (s : State) (b : Nat), s.dev.sparing = true ∧ s.dev.bank.spareDue = [] ∧ s.dev.bankState b = 7 ∧ s.dev.rd BANKS.pg BANKS.SPARE_STAT_BANK = b ∧ s.dev.bank.spareTo = 1 ∧ s.dev.on BANKS.pg BANKS.SPARE_MAP_S0_VALID = false) ∧
    (∃ (s : State) (b : Nat), s.dev.sparing = true ∧ s.dev.bank.spareDue = [] ∧ s.dev.bankState b = 7 ∧ s.dev.rd BANKS.pg BANKS.SPARE_STAT_BANK = b ∧ s.dev.bank.spareTo < 2) :=
  ⟨⟨at_ [(7, 0x200 + 12, 5)], pf0, 0x103, 3, by decide +kernel⟩, ⟨at_ [(7, 0x48, 4)], pf0, 0x103, by decide +kernel⟩, ⟨T0, pf0, 0x103, by decide +kernel⟩, ⟨at_ [(5, 0x48, 0x80)], pf1, 0x103, by decide +kernel⟩, ⟨at_ [(7, 0x48, 0x304), (7, 0x20C, 7)], pf0, 3, by decide +kernel⟩, ⟨at_ [(7, 0x48, 0x304), (7, 0x20C, 7)], 3, by decide +kernel⟩, ⟨upd (at_ [(7, 0x48, 0x304), (7, 0x20C, 7)]) (fun d => { d with bank := { d.bank with spareTo := 1 } }), 3, by decide +kernel⟩, ⟨at_ [(7, 0x48, 0x304), (7, 0x20C, 7)], 3, by decide +kernel⟩⟩

theorem witness_MemoryTestBorrows :
    (∃ (s : State) (b : Fin 64) (c : Fin 4096), s.dev.mtestOn = true ∧ s.dev.on MTEST.pg MTEST.MT_CTL_LENT_EN = true ∧ s.dev.on BANKS.pg BANKS.BANK_CFG_LEND b.val = true ∧ s.dev.bankState b.val = 5 ∧ s.dev.handover b.val = false ∧ (s.dev.bank.borrowed.any fun e => e.1 == b.val) = false ∧ s.dev.borrowable b.val c.val = true) ∧
    (∃ (s : State) (b : Fin 64), (s.dev.bank.borrowed.any fun e => e.1 == b.val) = true ∧ s.dev.bank.waiting = []) ∧
    (∃ (s : State) (b : Fin 64) (n : Nat), (s.dev.bank.borrowed.any fun e => e.1 == b.val) = true ∧ s.dev.bank.waiting = [] ∧ 0 < n ∧ s.dev.frozen MTEST.pg = false ∧ s.dev.on BANKS.pg BANKS.ECC_CTL_AUTO_SPARE = false ∧ s.dev.servedBy b.val = none) ∧
    (∃ (s : State) (b : Fin 64), s.dev.mtestOn = true ∧ s.dev.underTest = some b.val ∧ s.dev.bankState b.val = 5) ∧
    (∃ (s : State) (b : Fin 64) (n : Nat), s.dev.mtestOn = true ∧ s.dev.underTest = some b.val ∧ s.dev.bankState b.val = 5 ∧ 0 < n ∧ s.dev.frozen MTEST.pg = false ∧ s.dev.on BANKS.pg BANKS.ECC_CTL_AUTO_SPARE = false ∧ s.dev.servedBy b.val = none) ∧
    (∃ (s : State) (b : Fin 64) (line : Nat), s.dev.on BANKS.pg BANKS.ECC_CTL_SCRUB_EN = true ∧ s.dev.bankState b.val = 5 ∧ (wordsOf (b.val * 2 ^ 24 + line % 2 ^ 18 * 64) 64).any s.dev.isBad = false) ∧
    (∃ (s : State) (b : Fin 64), s.dev.bankState b.val = 4 ∧ (s.dev.bankRec b.val).zeroFill = false) ∧
    (∃ (s : State) (b : Fin 64), s.dev.bankState b.val = 1) ∧
    (∃ (s : State) (b : Fin 64), s.dev.bankState b.val = 3 ∧ (s.dev.bankRec b.val).markLost = true ∧ (s.dev.bankRec b.val).deferred = none) :=
  ⟨⟨upd (at_ [(8, 4, 1), (7, 0x200, 5)]) fun d => (d.wr MTEST.pg MTEST.MT_CTL_LENT_EN 1).wr BANKS.pg BANKS.BANK_CFG_LEND 1, 0, 0, by decide +kernel⟩, ⟨upd T0 fun d => { d with bank := { d.bank with borrowed := [(0, 5)] } }, 0, by decide +kernel⟩, ⟨upd (at_ [(7, 0x040, 0)]) (fun d => { d with bank := { d.bank with borrowed := [(0, 5)] } }), 0, 2, by decide +kernel⟩, ⟨upd (at_ [(8, 4, 1), (7, 0x200, 5)]) fun d => d.wr BANKS.pg BANKS.BANK_CFG_OWNER Own.MTEST, 0, by decide +kernel⟩, ⟨upd (at_ [(8, 4, 1), (7, 0x200, 5), (7, 0x040, 0)]) (fun d => d.wr BANKS.pg BANKS.BANK_CFG_OWNER Own.MTEST), 0, 2, by decide +kernel⟩, ⟨at_ [(7, 0x200, 5), (7, 0x040, 0x100000FF)], 0, 0, by decide +kernel⟩, ⟨at_ [(7, 0x200, 4)], 0, by decide +kernel⟩, ⟨at_ [(7, 0x200, 1)], 0, by decide +kernel⟩, ⟨upd (at_ [(7, 0x200, 3)]) (fun d => d.setBankRec 0 { Bank.reset with markLost := true }), 0, by decide +kernel⟩⟩

theorem witness_ClaimsAndReleases :
    (∃ (s : State) (a : Acc) (x : Word) (b : Nat) (o : Nat), s.dev.awake a = true ∧ s.dev.mayWrite a.who REEVE.pg = true ∧ REEVE.CLAIM_DO_RELEASE.of x = 0 ∧ REEVE.CLAIM_BANK.of x = b ∧ REEVE.CLAIM_FOR.of x = o ∧ 1 ≤ o ∧ o ≤ 3 ∧ s.dev.claimBusy = false ∧ [0, 1, 2, 3].any (fun g => (s.dev.grp g).check.isSome) = false ∧ s.dev.bankState b ≠ 8 ∧ s.dev.region b = 0 ∧ s.dev.handover b = false ∧ (s.dev.bankRec b).deferred = none ∧ s.dev.needMost + 1 ≤ s.dev.avail.length) ∧
    (∃ (s : State) (a : Acc) (x : Word), s.dev.awake a = true ∧ s.dev.mayWrite a.who REEVE.pg = true ∧ REEVE.CLAIM_DO_RELEASE.of x = 0 ∧ (REEVE.CLAIM_FOR.of x = 0 ∨ 3 < REEVE.CLAIM_FOR.of x)) ∧
    (∃ (s : State) (a : Acc) (x : Word) (b : Nat), s.dev.awake a = true ∧ s.dev.mayWrite a.who REEVE.pg = true ∧ REEVE.CLAIM_DO_CLAIM.of x = 0 ∧ REEVE.CLAIM_BANK.of x = b ∧ s.dev.claimBusy = false ∧ s.dev.region b = 6 ∧ s.dev.handover b = false ∧ (s.dev.bankRec b).deferred = none) ∧
    (∃ (s : State) (a : Acc) (x : Word), s.dev.awake a = true ∧ s.dev.mayWrite a.who REEVE.pg = true ∧ REEVE.CLAIM_DO_CLAIM.of x = 0 ∧ s.dev.claimBusy = true) ∧
    (∃ (s : State) (c : ClaimSt), s.dev.bank.claim = some c ∧ c.waitFle = false ∧ c.waitCheck = none ∧ s.dev.handover c.bank = false) ∧
    (∃ (s : State) (a : Acc) (n : Fin 64) (ow : Fin 16), s.dev.awake a = true ∧ a.who = .pf0 ∧ ow.val < 12 ∧ (s.dev.region n.val = 0 ∨ s.dev.region n.val = 6) ∧ s.dev.handover n.val = false ∧ (s.dev.bankRec n.val).deferred = none ∧ s.dev.bankState n.val = 5 ∧ s.dev.couch.pass = none) ∧
    (∃ (s : State) (o : Nat) (n : Fin 64), s.dev.handover n.val = true ∧ (s.dev.bankRec n.val).next = some o ∧ o < 12) ∧
    (∃ (s : State) (n : Fin 64), (s.dev.bankRec n.val).zeroFill = true ∧ (s.dev.bankRec n.val).deferred = none ∧ s.dev.handover n.val = false) :=
  ⟨⟨T0, pf0, 0x1103, 3, 1, by decide +kernel⟩, ⟨T0, pf0, 0x1003, by decide +kernel⟩, ⟨upd T0 (fun d => d.wr BANKS.pg BANKS.BANK_CFG_REGION 6 (i := 3)), pf0, 0x2003, 3, by decide +kernel⟩, ⟨upd T0 (fun d => d.wr REEVE.pg REEVE.CLAIM_STAT_BUSY 1), pf0, 0x2003, by decide +kernel⟩, ⟨upd T0 (fun d => { d with bank := { d.bank with claim := some ⟨3, 1, false, none⟩ } }), ⟨3, 1, false, none⟩, by decide +kernel⟩, ⟨at_ [(7, 0x200, 5)], pf0, 0, 2, by decide +kernel⟩, ⟨upd T0 (fun d => d.startHandover 0 1), 1, 0, by decide +kernel⟩, ⟨upd (at_ [(7, 0x200, 4)]) fun d => d.setBankRec 0 { Bank.reset with zeroFill := true }, 0, by decide +kernel⟩⟩

theorem witness_MigrationMoves :
    (∃ (s : State) (m : Migration) (it : Item) (off : Nat), memWf s.dev.bank.mem = true ∧ s.dev.reeve.mig = some m ∧ m.rollback = false ∧ m.region ∈ [3, 4, 5] ∧ s.dev.item (kindOfRegion m.region) = some it ∧ it.banks.Nodup ∧ it.banks ≠ [] ∧ m.rows ≤ 4096 ∧ off < m.rows * it.banks.length * 4096) ∧
    (∃ (s : State) (a : Acc) (m : Migration) (it : Item) (off : Nat), memWf s.dev.bank.mem = true ∧ s.dev.awake a = true ∧ s.dev.mayWrite a.who REEVE.pg = true ∧ s.dev.reeve.mig = some m ∧ m.rollback = false ∧ m.region ∈ [3, 4, 5] ∧ s.dev.item (kindOfRegion m.region) = some it ∧ it.banks.Nodup ∧ it.banks ≠ [] ∧ m.rows ≤ 4096 ∧ off < 4096 * it.banks.length * 4096) ∧
    (∃ (s : State) (m : Migration) (it : Item) (off : Nat), memWf s.dev.bank.mem = true ∧ s.dev.reeve.mig = some m ∧ m.rollback = true ∧ m.region ∈ [3, 4, 5] ∧ s.dev.item (kindOfRegion m.region) = some it ∧ it.banks.Nodup ∧ it.banks ≠ [] ∧ s.dev.rd REEVE.pg REEVE.MIG_STAT_ROWS_DONE ≤ 4096 ∧ off < 4096 * it.banks.length * 4096) :=
  ⟨⟨upd (at_ [(6, 0x78, 5)]) (fun d => { d.putBytes (3 * 2 ^ 24) [1, 2, 3] with reeve := { d.reeve with items := [⟨.layer, [3, 4]⟩], mig := some ⟨4, 9, 1, false⟩ } }), ⟨4, 9, 1, false⟩, ⟨.layer, [3, 4]⟩, 4097, by decide +kernel⟩, ⟨upd T0 (fun d => { d with reeve := { d.reeve with items := [⟨.layer, [3, 4]⟩], mig := some ⟨4, 9, 1, false⟩ } }), pf0, ⟨4, 9, 1, false⟩, ⟨.layer, [3, 4]⟩, 0, by decide +kernel⟩, ⟨upd (at_ [(6, 0x88, 0x10000)]) (fun d => { d with reeve := { d.reeve with items := [⟨.layer, [3, 4]⟩], mig := some ⟨4, 9, 1, true⟩ } }), ⟨4, 9, 1, true⟩, ⟨.layer, [3, 4]⟩, 0, by decide +kernel⟩⟩

theorem witness_PowerOnResets :
    (∃ (s : State) (w : PorIn), s.dev.pwr.seqOff = none ∧ (s.dev.pwr.tripped = true → w.cool = true)) ∧
    (∃ (s : State) (w : PorIn) (ns : Nat), s.dev.supplied = true ∧ s.dev.pwr.seqOff = none ∧ (s.dev.pwr.tripped = true → w.cool = true) ∧ 10000 ≤ ns) ∧
    (∃ (s : State) (ns : Nat), s.dev.supplied = false ∧ s.dev.halted = false ∧ 10000 ≤ ns) ∧
    (∃ (ns : Nat), ns ≤ 1000) ∧
    (∃ (s : State) (q : SeqOff), s.dev.pwr.seqOff = some q) ∧
    (∃ (s : State) (w : PorIn), s.dev.pwr.seqOff = none ∧ s.dev.pwr.tripped = true ∧ w.cool = false) :=
  ⟨⟨T0, ⟨true, false, true⟩, by decide +kernel⟩, ⟨T0, ⟨true, false, true⟩, 10000, by decide +kernel⟩, ⟨upd T0 (fun d => { d with pwr := { d.pwr with vio := false } }), 10000, by decide +kernel⟩, ⟨1000, by decide +kernel⟩, ⟨upd T0 (fun d => { d with pwr := { d.pwr with seqOff := some ⟨false, [2, 0], none⟩ } }), ⟨false, [2, 0], none⟩, by decide +kernel⟩, ⟨upd T0 (fun d => { d with pwr := { d.pwr with tripped := true } }), ⟨false, false, true⟩, by decide +kernel⟩⟩

theorem witness_SuppliesFail :
    (∃ (s : State), s.dev.pwr.held = false ∧ s.dev.pwr.tripped = false ∧ s.dev.pwr.seqOff = none) ∧
    (∃ (s : State), s.dev.pwr.held = false ∧ s.dev.pwr.tripped = false ∧ s.dev.pwr.seqOff = none) ∧
    (∃ (s : State) (q : SeqOff) (r : Nat) (l : List Nat), s.dev.pwr.seqOff = some q ∧ q.rails = r :: l) ∧
    (∃ (s : State) (q : SeqOff), s.dev.pwr.seqOff = some q ∧ q.rails = []) ∧
    (∃ (s : State) (q : SeqOff), s.dev.pwr.seqOff = some q) ∧
    (∃ (s : State), (s.dev.pwr.seqOff = none ∨ s.dev.pwr.vin = true)) ∧
    (∃ (s : State) (q : SeqOff), s.dev.pwr.seqOff = some q ∧ s.dev.pwr.vin = false ∧ s.dev.pwr.vbat = true) ∧
    (∃ (s : State), s.dev.pwr.vao = true) ∧
    (∃ (s : State) (i : Nat), s.dev.pwr.vao = false ∧ i < 62) ∧
    (∃ (bl : Ball), bl.supply = .vio) ∧
    (∃ (s : State), s.dev.pwr.held = false ∧ s.dev.pwr.tripped = false ∧ s.dev.pwr.seqOff = none) :=
  ⟨⟨T0, by decide +kernel⟩, ⟨T0, by decide +kernel⟩, ⟨upd T0 (fun d => { d with pwr := { d.pwr with rails := 5, seqOff := some ⟨false, [2, 0], none⟩ } }), ⟨false, [2, 0], none⟩, 2, [0], by decide +kernel⟩, ⟨upd T0 (fun d => { d with pwr := { d.pwr with seqOff := some ⟨true, [], none⟩ } }), ⟨true, [], none⟩, by decide +kernel⟩, ⟨upd T0 (fun d => { d with pwr := { d.pwr with rails := 5, seqOff := some ⟨false, [2, 0], none⟩ } }), ⟨false, [2, 0], none⟩, by decide +kernel⟩, ⟨T0, by decide +kernel⟩, ⟨upd T0 (fun d => { d with pwr := { d.pwr with vin := false, vbat := true, seqOff := some ⟨false, [2, 0], none⟩ } }), ⟨false, [2, 0], none⟩, by decide +kernel⟩, ⟨T0, by decide +kernel⟩, ⟨upd T0 (fun d => { d with pwr := { d.pwr with vao := false } }), 3, by decide +kernel⟩, ⟨.gclk 0, by decide +kernel⟩, ⟨T0, by decide +kernel⟩⟩

theorem witness_VotesAndWakes :
    (∃ (s : State) (a : Acc) (n : Fin 3), s.dev.awake a = true ∧ a.who.code = n.val) ∧
    (∃ (s : State) (a : Acc) (n : Fin 3), s.dev.awake a = true ∧ a.who.code ≠ n.val) ∧
    (∃ (s : State) (src : Fin 6) (rising : Bool), bit (s.dev.word MOOT.pg 0x088).toNat src.val = true ∧ s.dev.wakeEdge src.val rising = true) ∧
    (∃ (s : State) (src : Fin 6) (rising : Bool), (bit (s.dev.word MOOT.pg 0x088).toNat src.val = false ∨ s.dev.wakeEdge src.val rising = false)) ∧
    (∃ (s : State) (a : Acc), s.dev.awake a = true ∧ s.settled = true ∧ s.dev.mayWrite a.who MOOT.pg = true) ∧
    (∃ (s : State), s.dev.on AOBB.pg AOBB.ALARM_CTL_ARM = true ∧ s.dev.rd AOBB.pg AOBB.ALARM_LO_NS_LO + 2 ^ 32 * s.dev.rd AOBB.pg AOBB.ALARM_HI_NS_HI ≤ s.dev.devtime) :=
  ⟨⟨T0, pf0, 0, by decide +kernel⟩, ⟨T0, pf0, 1, by decide +kernel⟩, ⟨at_ [(1, 0x88, 2), (1, 0x8C, 0x38)], 1, true, by decide +kernel⟩, ⟨T0, 1, true, by decide +kernel⟩, ⟨at_ [(1, 0x84, 0x18)], pf0, by decide +kernel⟩, ⟨upd T0 (fun d => d.wr AOBB.pg AOBB.ALARM_CTL_ARM 1), by decide +kernel⟩⟩

theorem witness_DomainsWakeAndDrop :
    (∃ (s : State) (n : Fin 16), s.dev.dom n.val = 1 ∧ (s.dev.domRec n.val).regOn = false ∧ (s.dev.on CLOCK.pg CLOCK.OSC_STAT_FIRC_READY = true ∨ (s.dev.domRec n.val).slow = true) ∧ (List.range n.val).all (fun k => s.dev.dom k != 1 || (s.dev.domRec k).regOn) = true) ∧
    (∃ (s : State) (n : Fin 16), 1 ≤ n.val ∧ s.dev.dom n.val = 1 ∧ (s.dev.domRec n.val).regOn = true ∧ s.dev.hostHolds n.val = true) ∧
    (∃ (s : State) (n : Fin 16), 1 ≤ n.val ∧ s.dev.dom n.val = 1 ∧ (s.dev.domRec n.val).regOn = true ∧ (s.dev.domRec n.val).attempt < 4) ∧
    (∃ (s : State) (n : Fin 16), 1 ≤ n.val ∧ n.val < 8 ∧ s.dev.dom n.val = 1 ∧ (s.dev.domRec n.val).regOn = true ∧ 4 ≤ (s.dev.domRec n.val).attempt ∧ s.dev.hostHolds n.val = true) ∧
    (∃ (s : State) (n : Fin 16), 1 ≤ n.val ∧ s.dev.dom n.val = 2) ∧
    (∃ (s : State) (a : Acc) (n : Fin 16) (x : Word), s.dev.awake a = true ∧ s.dev.mayWrite a.who MOOT.pg = true ∧ 1 ≤ n.val ∧ bit x.toNat n.val = true ∧ s.dev.dom n.val = 8) ∧
    (∃ (s : State) (a : Acc) (n : Fin 16) (x : Word), s.dev.awake a = true ∧ s.dev.mayWrite a.who MOOT.pg = true ∧ 1 ≤ n.val ∧ x = BitVec.ofNat 32 (2 ^ n.val) ∧ s.dev.dom n.val ≠ 8) ∧
    (∃ (s : State) (n : Fin 16), 1 ≤ n.val ∧ s.dev.dom n.val = 6 ∧ s.dev.hold n.val = false) ∧
    (∃ (s : State) (n : Fin 16), 1 ≤ n.val ∧ s.dev.dom n.val = 7 ∧ (n.val < 8 ∨ (groupBanks n.val).all (fun b => s.dev.bankState b != 1) = true)) :=
  ⟨⟨upd T0 (fun d => d.wr CLOCK.pg CLOCK.OSC_STAT_FIRC_READY 1), 1, by decide +kernel⟩, ⟨upd (at_ [(1, 0x40, 0x102), (1, 0x104, 1)]) (fun d => d.setDomRec 8 ⟨true, false, 1, 0⟩), 8, by decide +kernel⟩, ⟨upd T0 (fun d => d.setDomRec 1 ⟨true, false, 1, 0⟩), 1, by decide +kernel⟩, ⟨upd (at_ [(1, 0x40, 2)]) (fun d => d.setDomRec 1 ⟨true, false, 4, 0⟩), 1, by decide +kernel⟩, ⟨at_ [(1, 0x100, 0x125)], 1, by decide +kernel⟩, ⟨at_ [(1, 0x100, 0x185)], pf0, 1, 2, by decide +kernel⟩, ⟨T0, pf0, 1, 2, by decide +kernel⟩, ⟨at_ [(1, 0x104, 6), (7, 0x100, 1), (7, 0x200, 5)], 8, by decide +kernel⟩, ⟨at_ [(1, 0x104, 7)], 8, by decide +kernel⟩⟩

theorem witness_DeviceReadsEnd :
    (∃ (s : State) (f : Fin 3) (tag : Nat) (data : List Byte) (r : DevRead) (c : NvCmd), s.dev.findRead f.val tag = some r ∧ r.job = .granary ∧ s.dev.nv.cmd = some c ∧ s.dev.host.todo = [] ∧ r.len ≤ data.length) ∧
    (∃ (s : State) (f : Fin 3) (tag : Nat) (data : List Byte) (r : DevRead) (o : StressOp), s.dev.findRead f.val tag = some r ∧ r.job = .stressLoad ∧ s.dev.aging.op = some o ∧ s.dev.host.todo = [] ∧ r.len ≤ data.length) ∧
    (∃ (s : State) (f : Fin 3) (tag : Nat) (data : List Byte) (r : DevRead) (m : Nat), s.dev.findRead f.val tag = some r ∧ r.job = .layer m ∧ s.dev.host.todo = [] ∧ (s.dev.layer m).use = .fresh ∧ (s.dev.layer m).failLine = none ∧ r.len ≤ data.length) ∧
    (∃ (s : State) (f : Fin 3) (tag : Nat) (data : List Byte) (r : DevRead), s.dev.findRead f.val tag = some r ∧ (r.job = .granary ∨ r.job = .stressLoad) ∧ s.dev.host.todo = [] ∧ data.length < r.len ∧ r ∈ s.dev.host.reads) ∧
    (∃ (s : State) (f : Fin 3) (tag : Nat) (po : Bool) (n : Nat) (b : Bool), s.dev.findRead f.val tag = none ∧ s.dev.host.dropped = [⟨f.val, tag, n, b⟩] ∧ s.dev.host.todo = [] ∧ (po = false ∨ b = true)) ∧
    (∃ (s : State) (f : Fin 3) (tag : Nat) (st : CplStatus) (e : Dropped), s.dev.findRead f.val tag = none ∧ s.dev.findDropped f.val tag = some e ∧ e.silent = true ∧ st ≠ .sc ∧ s.dev.host.todo = []) ∧
    (∃ (s : State) (f : Fin 3) (tag : Nat) (st : CplStatus) (e : Dropped), s.dev.findRead f.val tag = none ∧ s.dev.findDropped f.val tag = some e ∧ e.silent = false ∧ st ≠ .sc) ∧
    (∃ (s : State) (f : Fin 3) (tag : Nat) (e : Dropped), s.dev.findRead f.val tag = none ∧ s.dev.findDropped f.val tag = some e ∧ e.silent = false) ∧
    (∃ (s : State) (f : Fin 3) (tag : Nat), s.dev.findRead f.val tag = none ∧ s.dev.findDropped f.val tag = none) ∧
    (∃ (s : State) (f : Fin 3) (tag : Nat) (st : CplStatus) (r : DevRead), s.dev.findRead f.val tag = some r ∧ st ≠ .sc) ∧
    (∃ (s : State) (f : Fin 3) (tag : Nat) (r : DevRead), s.dev.findRead f.val tag = some r) ∧
    (∃ (s : State) (f : Fin 3) (tag : Nat) (r : DevRead), s.dev.findRead f.val tag = some r ∧ (s.dev.fn f.val).cplToOff = false) ∧
    (∃ (s : State) (f : Fin 3) (ga : Nat) (len : Nat), s.dev.takes (Req.ofFn f) = true ∧ s.dev.nvPage.all (fun p => decide (p < ga % 2 ^ 25 / 256 ∨ (ga % 2 ^ 25 + len - 1) / 256 < p)) = true) ∧
    (∃ (s : State) (f : Fin 3) (ga : Nat) (len : Nat), s.dev.takes (Req.ofFn f) = true ∧ s.dev.nv.writers = [] ∧ (groupsOf (ga % 2 ^ 25) len).any (fun w => s.dev.nv.bad.contains w) = false) ∧
    (∃ (s : State) (f : Fin 3) (ga : Nat) (len : Nat) (n : Nat), s.dev.takes (Req.ofFn f) = true ∧ s.dev.nvPage = some n ∧ ga % 2 ^ 25 / 256 ≤ n ∧ n ≤ (ga % 2 ^ 25 + len - 1) / 256) ∧
    (∃ (s : State) (f : Fin 3) (tag : Nat) (data : List Byte) (r : DevRead), s.dev.findRead f.val tag = some r ∧ s.dev.host.todo = [] ∧ r.len ≤ data.length) ∧
    (∃ (s : State) (f : Fin 3) (tag : Nat) (data : List Byte) (r : DevRead) (k : MbCmd), s.dev.host.reads = [r] ∧ (r.fn = f.val ∧ r.tag = tag) ∧ r.job = .mailbox ∧ s.dev.mgmt.cmd = some k ∧ (k.step = 1 ∧ k.op = Mb.FW_WRITE ∧ k.len ≠ 0) ∧ s.dev.host.todo = [] ∧ r.len ≤ data.length ∧ s.dev.halted = false) ∧
    (∃ (s : State) (f : Fin 3), (s.dev.fn f.val).cplToOff = true) ∧
    (∃ (s : State) (f : Fin 3) (tag : Nat) (e : Dropped), (s.dev.fn f.val).cplToOff = false ∧ s.dev.findRead f.val tag = none ∧ s.dev.findDropped f.val tag = some e ∧ e.silent = false) ∧
    (∃ (s : State) (f : Fin 3) (tag : Nat), (s.dev.fn f.val).cplToOff = false ∧ s.dev.findRead f.val tag = none ∧ s.dev.host.dropped.all (fun e => e.silent || !(e.fn == f.val && e.tag == tag)) = true ∧ s.dev.host.todo = []) :=
  ⟨⟨upd T0 (fun d => { d with nv := { d.nv with cmd := some ⟨0, 0, 0, 4, 4096, 0, 0, [], 1, false⟩ }, host := { d.host with reads := [rd_ (.granary) 4096 4] } }), 0, 7, [1, 2, 3, 4], rd_ (.granary) 4096 4, ⟨0, 0, 0, 4, 4096, 0, 0, [], 1, false⟩, by decide +kernel⟩, ⟨upd T0 (fun d => { d with aging := { d.aging with op := some ⟨0, 0, 0, 4096, 0, 1, [], 1, 0, 0, 0, false⟩ }, host := { d.host with reads := [rd_ (.stressLoad) 4096 4] } }), 0, 7, [1, 2, 3, 4], rd_ (.stressLoad) 4096 4, ⟨0, 0, 0, 4096, 0, 1, [], 1, 0, 0, 0, false⟩, by decide +kernel⟩, ⟨upd T0 (fun d => ({ d with host := { d.host with reads := [rd_ (.layer 0) 4096 4] } } : Dev).setLayer 0 { Layer.reset with use := .fresh }), 0, 7, [1, 2, 3, 4], rd_ (.layer 0) 4096 4, 0, by decide +kernel⟩, ⟨upd T0 (fun d => { d with host := { d.host with reads := [rd_ (.granary) 4096 4] } }), 0, 7, [1, 2], rd_ (.granary) 4096 4, by decide +kernel⟩, ⟨upd T0 (fun d => { d with host := { d.host with dropped := [⟨0, 7, 64, true⟩] } }), 0, 7, true, 64, true, by decide +kernel⟩, ⟨upd T0 (fun d => { d with host := { d.host with dropped := [⟨0, 7, 64, true⟩] } }), 0, 7, .ur, ⟨0, 7, 64, true⟩, by decide +kernel⟩, ⟨upd T0 (fun d => { d with host := { d.host with dropped := [⟨0, 7, 64, false⟩] } }), 0, 7, .ur, ⟨0, 7, 64, false⟩, by decide +kernel⟩, ⟨upd T0 (fun d => { d with host := { d.host with dropped := [⟨0, 7, 64, false⟩] } }), 0, 7, ⟨0, 7, 64, false⟩, by decide +kernel⟩, ⟨T0, 0, 7, by decide +kernel⟩, ⟨upd T0 (fun d => { d with host := { d.host with reads := [rd_ (.granary) 4096 4] } }), 0, 7, .ur, rd_ (.granary) 4096 4, by decide +kernel⟩, ⟨upd T0 (fun d => { d with host := { d.host with reads := [rd_ (.granary) 4096 4] } }), 0, 7, rd_ (.granary) 4096 4, by decide +kernel⟩, ⟨upd T0 (fun d => { d with host := { d.host with reads := [rd_ (.granary) 4096 4] } }), 0, 7, rd_ (.granary) 4096 4, by decide +kernel⟩, ⟨T0, 0, 64, 4, by decide +kernel⟩, ⟨T0, 0, 64, 4, by decide +kernel⟩, ⟨upd T0 (fun d => { d with nv := { d.nv with writers := [⟨0, 0, [(3, [])]⟩] } }), 0, 768, 4, 3, by decide +kernel⟩, ⟨upd T0 (fun d => { d with host := { d.host with reads := [rd_ (.calLoad 0) 4096 4] } }), 0, 7, [1, 2, 3, 4], rd_ (.calLoad 0) 4096 4, by decide +kernel⟩, ⟨upd (mbRunning { mb_ 1 1 with len := 64 }) (fun d => { d with host := { d.host with reads := [rd_ (.mailbox) 0 64] } }), 0, 7, List.replicate 64 5, rd_ (.mailbox) 0 64, { mb_ 1 1 with len := 64 }, by decide +kernel⟩, ⟨upd T0 (fun d => d.setFn 0 { d.fn 0 with cplToOff := true }), 0, by decide +kernel⟩, ⟨upd T0 (fun d => { d with host := { d.host with dropped := [⟨0, 7, 64, false⟩] } }), 0, 7, ⟨0, 7, 64, false⟩, by decide +kernel⟩, ⟨upd T0 (fun d => { d with host := { d.host with dropped := [⟨0, 7, 64, true⟩] } }), 0, 7, by decide +kernel⟩⟩

theorem witness_OscillatorsAndClocks :
    (∃ (s : State) (k : Fin 16), s.dev.pwr.fircStarting = true ∧ 1 ≤ k.val ∧ s.dev.dom k.val = 1) ∧
    (∃ (s : State), s.settled = true ∧ s.dev.pwr.fircStarting = true ∧ s.dev.on CLOCK.pg CLOCK.OSC_STAT_FIRC_FAILED = false) ∧
    (∃ (s : State) (a : Acc), s.dev.awake a = true ∧ s.dev.mayWrite a.who CLOCK.pg = true ∧ s.dev.on CLOCK.pg CLOCK.OSC_STAT_FIRC_FAILED = true ∧ s.dev.on CLOCK.pg CLOCK.OSC_STAT_FIRC_READY = false ∧ s.settled = true) ∧
    (∃ (s : State), s.settled = true ∧ s.dev.on CLOCK.pg CLOCK.OSC_STAT_XT32_OK = true) ∧
    (∃ (s : State) (p : Pll), p ≠ .phy ∧ bit (s.dev.word CLOCK.pg 0x044).toNat (pllNo p) = true ∧ s.dev.on CLOCK.pg CLOCK.OSC_STAT_XTAL_OK = true ∧ s.dev.pwr.held = false ∧ s.dev.pwr.tripped = false ∧ bit s.dev.pwr.pllWait (pllNo p) = false ∧ s.dev.rd SCAN.pg SCAN.SR_STAT_STATE ≠ 2) ∧
    (∃ (s : State), s.dev.pwr.perst = false ∧ s.dev.domOn 2 = true ∧ bit s.dev.pwr.pllWait 4 = false) ∧
    (∃ (s : State) (p : Pll) (n : Fin 16), s.dev.locked (pllNo p) = true ∧ s.dev.portState 0 ≠ 1 ∧ s.dev.portState 1 ≠ 1 ∧ 1 ≤ n.val) ∧
    (∃ (s : State) (a : Acc) (n : Fin 16) (x : Word), s.dev.awake a = true ∧ s.dev.mayWrite a.who CLOCK.pg = true ∧ 1 ≤ n.val ∧ getBits x (2 * n.val) 2 = 1 ∧ s.dev.domOn n.val = true ∧ s.dev.pllReady n.val = true) ∧
    (∃ (s : State) (a : Acc) (n : Fin 16) (x : Word), s.dev.awake a = true ∧ s.dev.mayWrite a.who CLOCK.pg = true ∧ 1 ≤ n.val ∧ getBits x (2 * n.val) 2 = 1 ∧ s.dev.domOn n.val = true ∧ s.dev.pllReady n.val = false ∧ s.dev.clockState n.val ≠ 4 ∧ s.dev.rd CLOCK.pg CLOCK.DOM_SRC_SRC 0 (n.val - 1) ≠ 1) ∧
    (∃ (s : State) (a : Acc) (n : Fin 16) (x : Word), s.dev.awake a = true ∧ s.dev.mayWrite a.who CLOCK.pg = true ∧ 1 ≤ n.val ∧ getBits x (2 * n.val) 2 = 0 ∧ s.dev.domOn n.val = true ∧ s.dev.clockState n.val = 4) ∧
    (∃ (s : State) (n : Fin 16), 1 ≤ n.val ∧ s.dev.clockState n.val = 3 ∧ s.dev.rd CLOCK.pg CLOCK.DOM_SRC_SRC 0 (n.val - 1) = 1 ∧ s.dev.pllReady n.val = true ∧ s.dev.rd MGMT.pg HDR.PG_STAT_STATE ≠ 3) ∧
    (∃ (s : State) (p : Pll), s.dev.locked (pllNo p) = true) ∧
    (∃ (s : State), s.dev.pwr.fircStarting = true) ∧
    (∃ (s : State), s.dev.pwr.fircStarting = false) :=
  ⟨⟨T0, 1, by decide +kernel⟩, ⟨T0, by decide +kernel⟩, ⟨upd T0 (fun d => (d.wr CLOCK.pg CLOCK.OSC_STAT_FIRC_FAILED 1).putWord CLOCK.pg 0x00C 1), pf0, by decide +kernel⟩, ⟨T0, by decide +kernel⟩, ⟨upd (at_ [(2, 0x44, 1)]) (fun d => d.wr CLOCK.pg CLOCK.OSC_STAT_XTAL_OK 1), .core, by decide +kernel⟩, ⟨at_ [(1, 0x100, 0x315)], by decide +kernel⟩, ⟨at_ [(2, 0x40, 8), (1, 0x40, 8), (1, 0x100, 0x4135)], .core, 3, by decide +kernel⟩, ⟨at_ [(2, 0x40, 8), (1, 0x40, 8), (1, 0x100, 0x3135)], pf0, 3, 0x40, by decide +kernel⟩, ⟨at_ [(1, 0x40, 8), (1, 0x100, 0x3135)], pf0, 3, 0x40, by decide +kernel⟩, ⟨at_ [(2, 0x40, 8), (1, 0x40, 8), (1, 0x100, 0x4135), (2, 0x48, 0x10)], pf0, 3, 0, by decide +kernel⟩, ⟨at_ [(2, 0x40, 8), (1, 0x40, 8), (1, 0x100, 0x3135), (2, 0x48, 0x40)], 3, by decide +kernel⟩, ⟨upd running (fun d => (d.setPortState 0 1).wr CLOCK.pg CLOCK.OSC_STAT_CORE_LOCK 1), .core, by decide +kernel⟩, ⟨T0, by decide +kernel⟩, ⟨upd T0 (fun d => { d with pwr := { d.pwr with fircStarting := false } }), by decide +kernel⟩⟩

theorem witness_SensorsAndSMBus :
    (∃ (s : State), s.dev.domOn 1 = true ∧ s.dev.frozen SENSE.pg = false) ∧
    (∃ (s : State) (p : Port), s.dev.domOn 1 = true ∧ s.dev.rd SENSE.pg SENSE.PT_CFG_SRC p.val = 2 ∧ s.dev.on SENSE.pg SENSE.SMB_CTL_EN = true) ∧
    (∃ (s : State) (p : Port), s.dev.domOn 1 = true ∧ s.dev.rd SENSE.pg SENSE.PT_CFG_SRC p.val = 2 ∧ s.dev.ptFail p.val = 2) ∧
    (∃ (s : State) (p : Port), s.dev.rd SENSE.pg SENSE.PT_CFG_SRC p.val = 1) ∧
    (∃ (s : State) (a : Acc), s.dev.awake a = true ∧ s.dev.mayWrite a.who SENSE.pg = true ∧ s.dev.on SENSE.pg SENSE.SMB_CTL_EN = true ∧ s.dev.domOn 1 = true ∧ s.dev.on SENSE.pg SENSE.SMB_STAT_BUSY = false) ∧
    (∃ (s : State) (a : Acc), s.dev.awake a = true ∧ s.dev.mayWrite a.who SENSE.pg = true ∧ (s.dev.on SENSE.pg SENSE.SMB_CTL_EN = false ∨ s.dev.domOn 1 = false)) ∧
    (∃ (s : State), s.dev.on SENSE.pg SENSE.SMB_STAT_BUSY = true) ∧
    (∃ (s : State), s.dev.on SENSE.pg SENSE.SMB_STAT_BUSY = true ∧ s.dev.pwr.smbOp = 2) ∧
    (∃ (s : State), s.dev.domOn 1 = true ∧ s.dev.frozen SENSE.pg = true) ∧
    (∃ (s : State) (p : Port), s.dev.rd SENSE.pg SENSE.PT_CFG_SRC p.val ≠ 2) :=
  ⟨⟨at_ [(1, 0x100, 0x135)], by decide +kernel⟩, ⟨upd (at_ [(1, 0x100, 0x135)]) (fun d => (d.wr SENSE.pg SENSE.PT_CFG_SRC 2).wr SENSE.pg SENSE.SMB_CTL_EN 1), 0, by decide +kernel⟩, ⟨upd (at_ [(1, 0x100, 0x135)]) (fun d => (d.wr SENSE.pg SENSE.PT_CFG_SRC 2).setPtFail 0 2), 0, by decide +kernel⟩, ⟨upd T0 (fun d => d.wr SENSE.pg SENSE.PT_CFG_SRC 1), 0, by decide +kernel⟩, ⟨upd T0 (fun d => (d.wr SENSE.pg SENSE.SMB_CTL_EN 1).setDom 1 3), pf0, by decide +kernel⟩, ⟨T0, pf0, by decide +kernel⟩, ⟨upd T0 (fun d => d.wr SENSE.pg SENSE.SMB_STAT_BUSY 1), by decide +kernel⟩, ⟨upd T0 (fun d => { d.wr SENSE.pg SENSE.SMB_STAT_BUSY 1 with pwr := { d.pwr with smbOp := 2 } }), by decide +kernel⟩, ⟨upd T0 (fun d => (d.setDom 1 3).wr SENSE.pg HDR.PG_CTL_FREEZE 1), by decide +kernel⟩, ⟨upd T0 (fun d => d.wr SENSE.pg SENSE.PT_CFG_SRC 0), 0, by decide +kernel⟩⟩

theorem witness_FrameStarts :
    (∃ (s : State), (s.dev.scan.run = true ∨ s.dev.scan.exiting = true) ∧ s.dev.scan.entering = false) ∧
    (∃ (s : State), s.dev.scan.run = true) ∧
    (∃ (s : State), s.dev.scan.run = false ∧ s.dev.scan.exiting = false) ∧
    (∃ (s : State) (k : Nat), s.dev.scan.run = true ∧ s.dev.scan.starting = false ∧ s.dev.scan.entering = false ∧ s.dev.scan.exiting = false ∧ s.dev.runOn = true ∧ [0, 1, 2, 3].all (fun g => (s.dev.grp g).pend.isNone) = true ∧ s.dev.mode.part = false ∧ s.dev.on COUCH.pg COUCH.CTL_FLIP_MODE = false ∧ s.dev.couch.pass = none ∧ s.dev.newest 0 = some k) ∧
    (∃ (s : State) (sl : Fin 4), s.dev.scan.run = true ∧ s.dev.scan.starting = false ∧ 1 ≤ sl.val ∧ sl.val < s.dev.mode.s ∧ s.dev.mode.part = false ∧ s.dev.on COUCH.pg COUCH.CTL_FLIP_MODE = false ∧ s.dev.couch.pass = none) ∧
    (∃ (s : State), s.dev.scan.run = false) :=
  ⟨⟨upd running fun d => d.setGrp 2 { GroupSt.idle with pend := some ⟨[], 1, true, 0⟩ }, by decide +kernel⟩, ⟨running, by decide +kernel⟩, ⟨T0, by decide +kernel⟩, ⟨upd running fun d => (d.setImgState 1 2).wr COUCH.pg COUCH.IMG_STAT_ELIGIBLE 1 (i := 1), 1, by decide +kernel⟩, ⟨upd running fun d => ((d.setImgState 3 2).wr COUCH.pg COUCH.IMG_STAT_ELIGIBLE 1 (i := 3)).wr SCAN.pg SCAN.MODE_SEL_SLOTS 1, 1, by decide +kernel⟩, ⟨T0, by decide +kernel⟩⟩

theorem witness_LinesRun :
    (∃ (s : State) (y : Nat), s.dev.scan.run = true ∧ s.dev.scan.starting = false ∧ nextLine s.dev.mode (s.dev.rd SCAN.pg SCAN.POS_LINE) = some y ∧ y < 8192) ∧
    (∃ (s : State), s.dev.scan.run = false) ∧
    (∃ (s : State) (y : Nat) (p : Port), s.dev.scan.run = true ∧ s.dev.scan.starting = false ∧ s.dev.scan.entering = false ∧ nextLine s.dev.mode (s.dev.rd SCAN.pg SCAN.POS_LINE) = some y ∧ y < s.dev.mode.h ∧ s.dev.portState p.val = 1 ∧ s.dev.portState (1 - p.val) = 0 ∧ s.dev.panelState p.val = 7 ∧ s.dev.heldOff p.val = false ∧ s.dev.rd SYNC.pg SYNC.WIN_LEN s.dev.slotNo ≠ 0 ∧ (s.dev.portR p.val).ready ≤ y ∧ (s.dev.portR p.val).dark = false) ∧
    (∃ (s : State) (p : Port), s.dev.scan.run = true ∧ s.dev.scan.starting = false ∧ s.dev.portState p.val = 2 ∧ (s.dev.portR p.val).started = false) ∧
    (∃ (s : State) (p : Port), s.dev.portState p.val = 2 ∧ (s.dev.portR p.val).started = true ∧ (s.dev.portR p.val).line + 1 = s.dev.mode.h) ∧
    (∃ (s : State) (y : Nat) (p : Port), s.dev.scan.run = true ∧ s.dev.scan.starting = false ∧ s.dev.portState p.val = 1 ∧ s.dev.portState (1 - p.val) = 0 ∧ s.dev.heldOff p.val = true ∧ (s.dev.portR p.val).ready = y ∧ y < s.dev.mode.h ∧ s.dev.scanImage < 8 ∧ s.dev.fetchDue y 0 = true) ∧
    (∃ (s : State) (y : Nat) (p : Port), s.dev.scan.run = true ∧ s.dev.scan.starting = false ∧ s.dev.portState p.val = 1 ∧ s.dev.portState (1 - p.val) = 0 ∧ s.dev.heldOff p.val = false ∧ (s.dev.portR p.val).ready = y ∧ y < s.dev.mode.h ∧ s.dev.scanImage < 8 ∧ s.dev.fetchDue y 0 = true) ∧
    (∃ (s : State) (y : Nat) (p : Port), s.dev.scan.run = true ∧ s.dev.scan.starting = false ∧ s.dev.portState p.val = 2 ∧ (s.dev.portR p.val).ready = y ∧ y < s.dev.mode.h ∧ (s.dev.calSt p.val).img < 8 ∧ y ≤ (if (s.dev.portR p.val).started then (s.dev.portR p.val).line else 0) + 4) ∧
    (∃ (s : State) (y : Nat) (p : Port), s.dev.scan.run = true ∧ s.dev.scan.starting = false ∧ s.dev.portState p.val = 2 ∧ (s.dev.portR p.val).started = true ∧ (s.dev.portR p.val).line + 1 = y ∧ y < s.dev.mode.h ∧ y < 8192) ∧
    (∃ (s : State) (y : Nat) (p : Port), s.dev.scan.run = true ∧ s.dev.scan.starting = false ∧ s.dev.portState p.val = 1 ∧ (s.dev.portR p.val).ready = y ∧ (s.dev.portState (1 - p.val) = 1 → (s.dev.portR (1 - p.val)).ready = y) ∧ y < s.dev.mode.h ∧ s.dev.scanImage < 8 ∧ s.dev.fetchDue y 0 = true) :=
  ⟨⟨following, 6, by decide +kernel⟩, ⟨T0, by decide +kernel⟩, ⟨upd following fun d => d.wr SYNC.pg SYNC.WIN_LEN 5, 6, 0, by decide +kernel⟩, ⟨upd running fun d => d.setPortState 0 2, 0, by decide +kernel⟩, ⟨upd running fun d => (d.setPortState 0 2).setPortR 0 { PortR.reset with started := true, line := d.mode.h - 1 }, 0, by decide +kernel⟩, ⟨upd following fun d => (d.wr COUCH.pg COUCH.SHOWN_IMG 0 (j := 0)).wr (CAL.pg 0) CAL.TBL_STAT_LOST 2, 0, 0, by decide +kernel⟩, ⟨upd following fun d => d.wr COUCH.pg COUCH.SHOWN_IMG 0 (j := 0), 0, 0, by decide +kernel⟩, ⟨upd running fun d => (d.setPortState 0 2).setCal 0 { CalSt.reset with img := 0 }, 0, 0, by decide +kernel⟩, ⟨upd running (fun d => (d.setPortState 0 2).setPortR 0 { PortR.reset with started := true, line := 3 }), 4, 0, by decide +kernel⟩, ⟨upd following (fun d => (d.setPortState 1 1).wr COUCH.pg COUCH.SHOWN_IMG 0 (j := 0)), 0, 0, by decide +kernel⟩⟩

theorem witness_SelfRefreshMoves :
    (∃ (s : State) (a : Acc) (x : Word), s.dev.awake a = true ∧ s.dev.mayWrite a.who SCAN.pg = true ∧ SCAN.SR_CTL_REQ.of x ≠ 3 ∧ SCAN.SR_CTL_IDLE_FRAMES.of x ≠ 0 ∧ (SCAN.SR_CTL_REQ.of x = 2 → sr2Bad s.dev.regs = false)) ∧
    (∃ (s : State) (a : Acc) (x : Word), s.dev.awake a = true ∧ s.dev.mayWrite a.who SCAN.pg = true ∧ (SCAN.SR_CTL_REQ.of x = 3 ∨ SCAN.SR_CTL_IDLE_FRAMES.of x = 0)) ∧
    (∃ (s : State) (a : Acc) (x : Word), s.dev.awake a = true ∧ s.dev.mayWrite a.who SCAN.pg = true ∧ SCAN.SR_CTL_REQ.of x = 2 ∧ SCAN.SR_CTL_IDLE_FRAMES.of x ≠ 0 ∧ sr2Bad s.dev.regs = true) ∧
    (∃ (s : State), s.dev.srCause1 = true ∧ s.dev.srState = 1 ∧ s.dev.scan.run = true) ∧
    (∃ (s : State), (s.dev.srCause1 = false ∨ s.dev.srState ≠ 1)) ∧
    (∃ (s : State), s.dev.srCause2 = true ∧ s.dev.srState = 2 ∧ s.dev.scan.entering = false ∧ s.dev.scan.exiting = false) ∧
    (∃ (s : State) (p : Port) (g : Fin 12), s.dev.portState p.val = 5 ∧ s.dev.tdlState p.val = 3 ∧ g.val ∈ groupsOn s.dev.regs p.val ∧ bit (s.dev.tdlSt p.val).hold g.val = false) :=
  ⟨⟨T0, pf0, 0x201, by decide +kernel⟩, ⟨T0, pf0, 3, by decide +kernel⟩, ⟨upd running fun d => (d.wr SCAN.pg SCAN.CTL_PORT_A 1), pf0, 0x202, by decide +kernel⟩, ⟨upd running fun d => d.wr SCAN.pg SCAN.SR_STAT_STATE 1, by decide +kernel⟩, ⟨T0, by decide +kernel⟩, ⟨upd T0 fun d => d.wr SCAN.pg SCAN.SR_STAT_STATE 2, by decide +kernel⟩, ⟨upd T0 fun d => (((d.setPortState 0 5).setTdlState 0 3).wr (TDL.pg 0) TDL.GROUPS_EN 1), 0, 0, by decide +kernel⟩⟩

theorem witness_LayersWait :
    (∃ (s : State) (p : Pass) (m : Fin 12), s.dev.couch.pass = some p ∧ p.img.isSome = true ∧ (s.dev.layer m.val).use = .waiting ∧ lf p.vals m.val MOULD.LAYER_CTL_POLICY < 2 ∧ lf p.vals m.val MOULD.LAYER_CTL_FENCE_MODE ≠ 2 ∧ s.dev.layerReady p.vals m.val = false ∧ (List.range 12).all (fun n => n == m.val || (s.dev.layer n).use != .waiting) = true) ∧
    (∃ (s : State) (p : Pass) (m : Fin 12), s.dev.couch.pass = some p ∧ p.img.isSome = true ∧ (s.dev.layer m.val).use = .waiting ∧ lf p.vals m.val MOULD.LAYER_CTL_POLICY < 2 ∧ lf p.vals m.val MOULD.WAIT_LINES_LINES ≤ (s.dev.layer m.val).waited ∧ s.dev.layerReady p.vals m.val = false ∧ (List.range 12).all (fun n => n == m.val || (s.dev.layer n).use != .waiting) = true ∧ (lf p.vals m.val MOULD.LAYER_CTL_POLICY = 1 ∨ (s.dev.layer m.val).held = none)) ∧
    (∃ (s : State) (p : Pass) (m : Fin 12) (h : Held), s.dev.couch.pass = some p ∧ p.img.isSome = true ∧ (s.dev.layer m.val).use = .waiting ∧ lf p.vals m.val MOULD.LAYER_CTL_POLICY = 0 ∧ lf p.vals m.val MOULD.WAIT_LINES_LINES ≤ (s.dev.layer m.val).waited ∧ s.dev.layerReady p.vals m.val = false ∧ (s.dev.layer m.val).held = some h ∧ s.dev.heldGone m.val (heldVals p.vals m.val h) = false ∧ (List.range 12).all (fun n => n == m.val || (s.dev.layer n).use != .waiting) = true) ∧
    (∃ (s : State), s.dev.couch.pass = none) ∧
    (∃ (s : State), s.dev.couch.pass = none) ∧
    (∃ (s : State) (p : Pass) (m : Fin 12), s.dev.couch.pass = some p ∧ p.img.isSome = true ∧ (s.dev.layer m.val).use = .waiting ∧ lf p.vals m.val MOULD.LAYER_CTL_POLICY < 2 ∧ lf p.vals m.val MOULD.LAYER_CTL_FENCE_MODE ≠ 2 ∧ s.dev.layerReady p.vals m.val = true ∧ (List.range 12).all (fun n => n == m.val || (s.dev.layer n).use != .waiting) = true) :=
  ⟨⟨waiting, waitPass, 0, by decide +kernel⟩, ⟨upd waiting (fun d => d.setLayer 0 { d.layer 0 with waited := 65535 }), waitPass, 0, by decide +kernel⟩, ⟨upd (upd waiting (fun d => { (d.setLayer 0 { d.layer 0 with waited := 65535, held := some ⟨[0, 0, 0, 0, 0, 0, 0, 0], 5⟩ }) with couch := { (d.setLayer 0 { d.layer 0 with waited := 65535, held := some ⟨[0, 0, 0, 0, 0, 0, 0, 0], 5⟩ }).couch with pass := some holdPass } })) (fun d => d.setFn 0 { d.fn 0 with bme := true }), holdPass, 0, ⟨[0, 0, 0, 0, 0, 0, 0, 0], 5⟩, by decide +kernel⟩, ⟨T0, by decide +kernel⟩, ⟨T0, by decide +kernel⟩, ⟨upd waiting (fun d => { d with couch := { d.couch with pass := some awayPass } }), awayPass, 0, by decide +kernel⟩⟩

theorem witness_CurvesPlansLadder :
    (∃ (s : State) (p : Pass) (k : Nat), s.dev.couch.pass = some p ∧ p.img = some k ∧ p.rect = false ∧ k < 8 ∧ s.dev.anyWaiting = false ∧ s.dev.imgState k = 1 ∧ s.dev.host.reads = [] ∧ s.dev.host.todo = [] ∧ (s.dev.cachesUp = true ∧ s.dev.itemUp .aux = true ∧ s.dev.itemUp (s.dev.mode.imgKind k) = true ∧ s.dev.operates TONE.pg = true)) ∧
    (∃ (s : State), s.dev.couch.pass = none) ∧
    (∃ (s : State) (j : ToneJob) (js : List ToneJob), s.dev.domOn 3 = true ∧ s.dev.tone.jobs = j :: js ∧ s.dev.toneLive j.img j.seq j.partl = true ∧ j.img < 8 ∧ s.dev.operates TITHE.pg = true) ∧
    (∃ (s : State) (j : ToneJob) (js : List ToneJob), s.dev.domOn 3 = true ∧ s.dev.tone.jobs = j :: js ∧ s.dev.toneLive j.img j.seq j.partl = true ∧ j.img < 8 ∧ s.dev.operates TITHE.pg = false) ∧
    (∃ (s : State) (j : ToneJob) (js : List ToneJob), s.dev.domOn 3 = true ∧ s.dev.tone.jobs = j :: js ∧ s.dev.toneLive j.img j.seq j.partl = false) ∧
    (∃ (s : State), s.dev.mode.part = true ∧ s.dev.domOn 3 = true ∧ s.dev.tone.jobs.any (fun j => j.partl && j.slot == s.dev.slotNo) = true) ∧
    (∃ (s : State) (j : ToneJob) (js : List ToneJob), s.dev.domOn 3 = false ∧ s.dev.tone.jobs = j :: js) ∧
    (∃ (s : State), s.dev.mode.part = false) ∧
    (∃ (s : State) (q : PlanJob) (qs : List PlanJob), s.dev.domOn 3 = true ∧ s.dev.tithe.jobs = q :: qs ∧ s.dev.toneLive q.img q.seq q.partl = true ∧ q.img < 8) ∧
    (∃ (s : State) (q : PlanJob) (qs : List PlanJob), s.dev.domOn 3 = true ∧ s.dev.tithe.jobs = q :: qs ∧ s.dev.toneLive q.img q.seq q.partl = false) ∧
    (∃ (s : State), s.dev.scan.run = false ∧ s.dev.ladder < s.dev.rd TITHE.pg TITHE.CTL_ECON_MIN ∧ s.dev.operates TITHE.pg = true) ∧
    (∃ (s : State), s.dev.scan.run = false ∧ s.dev.rd TITHE.pg TITHE.CTL_ECON_MIN ≤ s.dev.ladder ∧ s.dev.rd TITHE.pg TITHE.CTL_ECON_MAX < s.dev.ladder ∧ s.dev.operates TITHE.pg = true) ∧
    (∃ (s : State), s.dev.scan.run = false ∧ s.dev.rd TITHE.pg TITHE.CTL_ECON_MIN ≤ s.dev.ladder ∧ s.dev.ladder < s.dev.rd TITHE.pg TITHE.CTL_ECON_MAX ∧ s.dev.rd TITHE.pg TITHE.DEV_BUDGET_MW ≠ 0 ∧ s.dev.rd TITHE.pg TITHE.DEV_BUDGET_MW * sumNat (((s.dev.tithe.cur :: s.dev.tithe.spans).take 16).map (·.2)) < sumNat (((s.dev.tithe.cur :: s.dev.tithe.spans).take 16).map (·.1)) ∧ 0 < sumNat (((s.dev.tithe.cur :: s.dev.tithe.spans).take 16).map (·.2)) ∧ s.dev.rd TITHE.pg TITHE.ECON_TIME_UP_EVALS ≤ s.dev.tithe.up + 1 ∧ s.dev.operates TITHE.pg = true) ∧
    (∃ (s : State), s.dev.scan.run = true) :=
  ⟨⟨upd T0 fun d => ({ d with couch := { d.couch with pass := some { waitPass with vals := [] } } } : Dev).setImgState 0 1, { waitPass with vals := [] }, 0, by decide +kernel⟩, ⟨T0, by decide +kernel⟩, ⟨upd (at_ [(1, 0x40, 8), (1, 0x100, 0x3135), (29, 4, 1)]) fun d => ({ d with tone := { d.tone with jobs := [toneJob] } } : Dev).setImgState 0 2, toneJob, [], by decide +kernel⟩, ⟨upd (at_ [(1, 0x40, 8), (1, 0x100, 0x3135), (29, 4, 0)]) fun d => ({ d with tone := { d.tone with jobs := [toneJob] } } : Dev).setImgState 0 2, toneJob, [], by decide +kernel⟩, ⟨upd (at_ [(1, 0x40, 8), (1, 0x100, 0x3135)]) fun d => { d with tone := { d.tone with jobs := [toneJob] } }, toneJob, [], by decide +kernel⟩, ⟨upd (at_ [(1, 0x40, 8), (1, 0x100, 0x3135)]) fun d => { d.wr SCAN.pg SCAN.MODE_SEL_PARTIAL 1 with tone := { d.tone with jobs := [{ toneJob with partl := true }] } }, by decide +kernel⟩, ⟨upd T0 fun d => { d with tone := { d.tone with jobs := [toneJob] } }, toneJob, [], by decide +kernel⟩, ⟨T0, by decide +kernel⟩, ⟨upd (at_ [(1, 0x40, 8), (1, 0x100, 0x3135)]) fun d => (({ d with tithe := { d.tithe with jobs := [planJob] } } : Dev).setImgState 0 2).setImg 0 { Img.reset with curve := true }, planJob, [], by decide +kernel⟩, ⟨upd (at_ [(1, 0x40, 8), (1, 0x100, 0x3135)]) fun d => { d with tithe := { d.tithe with jobs := [planJob] } }, planJob, [], by decide +kernel⟩, ⟨upd T0 fun d => d.wr TITHE.pg TITHE.CTL_ECON_MIN 2, by decide +kernel⟩, ⟨upd T0 fun d => (d.wr TITHE.pg TITHE.ECON_STAT_LEVEL 2).wr TITHE.pg TITHE.CTL_ECON_MAX 1, by decide +kernel⟩, ⟨upd T0 fun d => { ((d.wr TITHE.pg TITHE.DEV_BUDGET_MW 10).wr TITHE.pg TITHE.CTL_ECON_MAX 3) with tithe := { d.tithe with cur := (900, 9), up := 255 } }, by decide +kernel⟩, ⟨running, by decide +kernel⟩⟩

theorem witness_SyncMoves :
    (∃ (s : State) (r : Bool), s.dev.src = 1 ∧ r = (s.dev.rd SYNC.pg SYNC.SRC_CTL_EDGE == 0) ∧ s.dev.frozen SYNC.pg = false ∧ s.dev.trim.run = none) ∧
    (∃ (s : State) (r : Bool), (s.dev.src ≠ 1 ∨ r ≠ (s.dev.rd SYNC.pg SYNC.SRC_CTL_EDGE == 0)) ∧ (r = false ∨ bit (s.dev.word MOOT.pg 0x088).toNat 1 = false)) ∧
    (∃ (s : State), s.dev.src ≠ 1 ∧ s.settled = true ∧ bit (s.dev.word MOOT.pg 0x088).toNat 1 = true) ∧
    (∃ (s : State), s.dev.src = 2 ∧ s.dev.frozen SYNC.pg = false) ∧
    (∃ (s : State), s.dev.src ≠ 2) ∧
    (∃ (s : State), s.dev.src ≠ 0 ∧ (s.dev.src = 2 → s.dev.on HOSTIF.pg HOSTIF.PTM_STAT_VALID = false) ∧ s.dev.trim.run = none) ∧
    (∃ (s : State), s.dev.src = 2 ∧ s.dev.on HOSTIF.pg HOSTIF.PTM_STAT_VALID = true) ∧
    (∃ (s : State), s.dev.src = 0) ∧
    (∃ (s : State) (sl : Fin 4) (w : Win), s.dev.scan.run = true ∧ s.dev.sync.lastWin = none ∧ s.dev.winNow sl.val = some w ∧ s.dev.winDue w = true ∧ (s.dev.sync.winNew = false ∨ s.dev.sync.openWin.any (fun v => v.old) = false)) ∧
    (∃ (s : State) (sl : Fin 4) (w : Win), s.dev.scan.run = true ∧ s.dev.sync.lastWin = none ∧ s.dev.winNow sl.val = some w ∧ s.dev.winDue w = true ∧ s.dev.sync.winNew = true ∧ s.dev.sync.openWin.any (fun v => v.old) = true) ∧
    (∃ (s : State) (sl : Fin 4) (w : Win), s.dev.scan.run = true ∧ s.dev.sync.lastWin = some w ∧ w.slot = sl.val ∧ s.dev.slotNo = 0 ∧ w.rolling = false) ∧
    (∃ (s : State) (sl : Fin 4), (s.dev.scan.run = false ∨ (s.dev.sync.lastWin = none ∧ (s.dev.winNow sl.val).all (fun v => !s.dev.winDue v) = true))) ∧
    (∃ (s : State) (sl : Fin 4) (w : Win), s.dev.sync.openWin = [w] ∧ w.slot = sl.val ∧ s.dev.sync.waitOpen = []) ∧
    (∃ (s : State) (sl : Fin 4) (w : Win) (v : Win), s.dev.sync.openWin = [w, v] ∧ w.slot = sl.val ∧ (v.old = true ∨ s.dev.sync.waitOpen = [])) ∧
    (∃ (s : State) (sl : Fin 4) (w : Win) (v : Win), s.dev.sync.openWin = [w] ∧ w.slot = sl.val ∧ s.dev.sync.waitOpen = [v]) ∧
    (∃ (s : State) (n : Fin 2), s.dev.rd SYNC.pg SYNC.SO_CTL_FUNC n.val = 4 ∧ s.dev.scan.run = true) ∧
    (∃ (s : State) (n : Fin 2), (s.dev.rd SYNC.pg SYNC.SO_CTL_FUNC n.val ≠ 4 ∨ s.dev.scan.run = false)) :=
  ⟨⟨upd T0 (fun d => d.wr SYNC.pg SYNC.SRC_CTL_SRC 1), true, by decide +kernel⟩, ⟨T0, false, by decide +kernel⟩, ⟨at_ [(1, 0x088, 2)], by decide +kernel⟩, ⟨upd T0 fun d => d.wr SYNC.pg SYNC.SRC_CTL_SRC 2, by decide +kernel⟩, ⟨T0, by decide +kernel⟩, ⟨upd T0 (fun d => d.wr SYNC.pg SYNC.SRC_CTL_SRC 1), by decide +kernel⟩, ⟨upd T0 (fun d => (d.wr SYNC.pg SYNC.SRC_CTL_SRC 2).wr HOSTIF.pg HOSTIF.PTM_STAT_VALID 1), by decide +kernel⟩, ⟨T0, by decide +kernel⟩, ⟨upd following fun d => ((d.wr SYNC.pg SYNC.WIN_LEN 5).wr SCAN.pg SCAN.POS_SLOT_NO 1), 0, win 0, by decide +kernel⟩, ⟨upd running (fun d => { ((d.wr SYNC.pg SYNC.WIN_LEN 5).wr SCAN.pg SCAN.POS_SLOT_NO 1) with sync := { d.sync with openWin := [{ win 1 with old := true }], winNew := true } }), 0, win 0, by decide +kernel⟩, ⟨upd following fun d => { d with sync := { d.sync with lastWin := some { win 0 with old := true } } }, 0, { win 0 with old := true }, by decide +kernel⟩, ⟨T0, 0, by decide +kernel⟩, ⟨upd running (fun d => ({ d with sync := { d.sync with openWin := [win 0] } } : Dev).emit 0 true), 0, win 0, by decide +kernel⟩, ⟨upd running (fun d => ({ d with sync := { d.sync with openWin := [win 0, win 1] } } : Dev).emit 0 true), 0, win 0, win 1, by decide +kernel⟩, ⟨upd running (fun d => { d with sync := { d.sync with openWin := [win 0], waitOpen := [win 1] } }), 0, win 0, win 1, by decide +kernel⟩, ⟨upd running fun d => d.wr SYNC.pg SYNC.SO_CTL_FUNC 4, 0, by decide +kernel⟩, ⟨T0, 0, by decide +kernel⟩⟩

theorem witness_RectsPosted :
    (∃ (s : State) (a : Acc) (r : Rect), s.dev.awake a = true ∧ s.dev.mayWrite a.who RECTQ.pg = true ∧ s.dev.mode.part = true ∧ s.dev.operates RECTQ.pg = true ∧ r = Rect.make (s.dev.rd RECTQ.pg RECTQ.RECT_CTL_TAG) (s.dev.rd RECTQ.pg RECTQ.RECT_CTL_SLOT) (s.dev.rd RECTQ.pg RECTQ.RECT_XY_X) (s.dev.rd RECTQ.pg RECTQ.RECT_XY_Y) (s.dev.rd RECTQ.pg RECTQ.RECT_WH_W) (s.dev.rd RECTQ.pg RECTQ.RECT_WH_H) false false ∧ (0 < r.w ∧ 0 < r.h ∧ r.x + r.w ≤ s.dev.mode.w ∧ r.y + r.h ≤ s.dev.mode.h ∧ r.slot < s.dev.mode.s ∧ r.tag ≠ 0xFFFF) ∧ s.dev.rects.length < 256 ∧ (s.dev.rects.any fun o => o.tag == r.tag) = false ∧ s.dev.rd RECTQ.pg RECTQ.RECT_CTL_REPLACE = 0) ∧
    (∃ (s : State) (a : Acc), s.dev.awake a = true ∧ s.dev.mayWrite a.who RECTQ.pg = true ∧ (s.dev.mode.part = false ∨ s.dev.operates RECTQ.pg = false)) ∧
    (∃ (s : State) (a : Acc), s.dev.awake a = true ∧ s.dev.mayWrite a.who RECTQ.pg = true ∧ s.dev.mode.part = true ∧ s.dev.operates RECTQ.pg = true ∧ s.dev.rd RECTQ.pg RECTQ.RECT_WH_W = 0) ∧
    (∃ (s : State) (a : Acc) (r : Rect) (tag : Fin 65536), s.dev.awake a = true ∧ s.dev.mayWrite a.who RECTQ.pg = true ∧ s.dev.rects.find? (fun r => r.tag == tag.val && !r.own) = some r ∧ tag.val ≠ 0xFFFF ∧ (r.st = 0 ∨ r.st = 2 ∨ r.st = 3)) ∧
    (∃ (s : State) (a : Acc) (r : Rect) (tag : Fin 65536), s.dev.awake a = true ∧ s.dev.mayWrite a.who RECTQ.pg = true ∧ s.dev.rects.find? (fun r => r.tag == tag.val && !r.own) = some r ∧ tag.val ≠ 0xFFFF ∧ r.st = 4) ∧
    (∃ (s : State) (a : Acc) (tag : Fin 65536), s.dev.awake a = true ∧ s.dev.mayWrite a.who RECTQ.pg = true ∧ s.dev.rects.find? (fun r => r.tag == tag.val && !r.own) = none ∧ tag.val ≠ 0xFFFF) ∧
    (∃ (s : State) (a : Acc), s.dev.awake a = true ∧ s.dev.mayWrite a.who RECTQ.pg = true ∧ s.dev.rects.all (fun r => r.own || r.st == 0 || r.st == 2 || r.st == 3) = true) :=
  ⟨⟨upd (partial_ (rect 0)) (fun d => (d.wr RECTQ.pg RECTQ.RECT_WH_W 4).wr RECTQ.pg RECTQ.RECT_WH_H 4), pf0, Rect.make 0 0 0 0 4 4 false false, by decide +kernel⟩, ⟨T0, pf0, by decide +kernel⟩, ⟨upd (partial_ (rect 0)) fun d => d.wr RECTQ.pg RECTQ.RECT_WH_W 0, pf0, by decide +kernel⟩, ⟨partial_ (rect 2), pf0, rect 2, 5, by decide +kernel⟩, ⟨partial_ (rect 4), pf0, rect 4, 5, by decide +kernel⟩, ⟨T0, pf0, 0, by decide +kernel⟩, ⟨partial_ (rect 2), pf0, by decide +kernel⟩⟩

theorem witness_RectsShown :
    (∃ (s : State) (r : Rect), s.dev.onPll 3 = true ∧ s.dev.operates COUCH.pg = true ∧ s.dev.couch.pass = none ∧ s.dev.mode.part = true ∧ s.dev.reeve.items = [] ∧ nextRect [] s.dev.rects = some r) ∧
    (∃ (s : State) (p : Pass), (s.dev.couch.pass = some p ∨ s.dev.mode.part = false)) ∧
    (∃ (s : State) (p : Pass) (r : Rect), s.dev.couch.pass = some p ∧ s.dev.rects.find? (fun r => r.st == 1) = some r ∧ (List.range 12).any (fun m => (s.dev.layer m).use == .waiting) = false ∧ s.dev.layerReads = false ∧ s.dev.cachesUp = true) ∧
    (∃ (s : State) (r : Rect), s.dev.copying = none ∧ s.dev.rects.find? (fun r => r.st == 2) = some r ∧ s.dev.scan.run = false) ∧
    (∃ (s : State), s.dev.copying.isSome = true) ∧
    (∃ (s : State) (r : Rect), s.dev.rects.find? (fun r => r.st == 4) = some r ∧ r.behind = false ∧ r.own = false ∧ r.fill = false) ∧
    (∃ (s : State), (s.dev.rects.any fun r => r.st == 4) = false) ∧
    (∃ (s : State) (r : Rect), s.dev.rects.find? (fun r => r.st == 4) = some r ∧ r.behind = false) ∧
    (∃ (s : State) (r : Rect), s.dev.copying = none ∧ s.dev.rects.find? (fun r => r.st == 2) = some r) :=
  ⟨⟨upd (partial_ (rect 0)) (fun d => d.setDom 3 4), rect 0, by decide +kernel⟩, ⟨T0, waitPass, by decide +kernel⟩, ⟨upd (partial_ (rect 1)) (fun d => { d with couch := { d.couch with pass := some waitPass } }), waitPass, rect 1, by decide +kernel⟩, ⟨partial_ (rect 2), rect 2, by decide +kernel⟩, ⟨partial_ (rect 4), by decide +kernel⟩, ⟨partial_ (rect 4), rect 4, by decide +kernel⟩, ⟨T0, by decide +kernel⟩, ⟨partial_ { rect 4 with own := true }, { rect 4 with own := true }, by decide +kernel⟩, ⟨partial_ (rect 2), rect 2, by decide +kernel⟩⟩

theorem witness_TablesLoad :
    (∃ (s : State) (a : Acc) (p : Port) (x : Word), s.dev.awake a = true ∧ s.dev.mayWrite a.who (CAL.pg p.val) = true ∧ CAL.LOAD_CTL_ABORT.of x = 0 ∧ (s.dev.calSt p.val).load = none ∧ s.dev.aging.op = none ∧ s.dev.scanOn p.val = true ∧ s.dev.operates (CAL.pg p.val) = true ∧ (1 ≤ CAL.LOAD_CTL_TARGET.of x ∧ CAL.LOAD_CTL_TARGET.of x ≤ 5 ∧ CAL.LOAD_CTL_FUNC.of x ≠ 3) ∧ s.dev.rd (CAL.pg p.val) CAL.LOAD_SRC_LO_HA % 64 = 0) ∧
    (∃ (s : State) (a : Acc) (p : Port) (x : Word) (l : CalLoad), s.dev.awake a = true ∧ s.dev.mayWrite a.who (CAL.pg p.val) = true ∧ CAL.LOAD_CTL_ABORT.of x = 0 ∧ (s.dev.calSt p.val).load = some l) ∧
    (∃ (s : State) (a : Acc) (p : Port) (x : Word), s.dev.awake a = true ∧ s.dev.mayWrite a.who (CAL.pg p.val) = true ∧ CAL.LOAD_CTL_ABORT.of x = 0 ∧ (s.dev.calSt p.val).load = none ∧ s.dev.aging.op = none ∧ (s.dev.scanOn p.val = false ∨ s.dev.operates (CAL.pg p.val) = false)) ∧
    (∃ (s : State) (a : Acc) (p : Port) (l : CalLoad), s.dev.awake a = true ∧ s.dev.mayWrite a.who (CAL.pg p.val) = true ∧ (s.dev.calSt p.val).load = some l ∧ l.step < 4) ∧
    (∃ (s : State) (a : Acc) (p : Port) (l : CalLoad), s.dev.awake a = true ∧ s.dev.mayWrite a.who (CAL.pg p.val) = true ∧ (s.dev.calSt p.val).load = some l ∧ 4 ≤ l.step) ∧
    (∃ (s : State) (p : Port) (l : CalLoad), (s.dev.calSt p.val).load = some l ∧ l.step = 1 ∧ (1 ≤ l.target ∧ l.target ≤ 5) ∧ (l.target = 4 → defectsOk (l.data s.dev.mode) = true) ∧ s.dev.domOn 3 = true ∧ s.dev.fetched (.calLoad p.val) = true ∧ s.dev.isDark p.val = true) ∧
    (∃ (s : State) (p : Port) (l : CalLoad), (s.dev.calSt p.val).load = some l ∧ l.step = 1 ∧ (1 ≤ l.target ∧ l.target ≤ 5) ∧ (l.target = 4 → defectsOk (l.data s.dev.mode) = true) ∧ s.dev.domOn 3 = true ∧ s.dev.fetched (.calLoad p.val) = true ∧ s.dev.isDark p.val = false) ∧
    (∃ (s : State) (p : Port) (l : CalLoad), (s.dev.calSt p.val).load = some l ∧ 4 ≤ l.step) ∧
    (∃ (s : State) (p : Port) (k : Nat), s.dev.scanOn p.val = true ∧ s.dev.itemUp .aux = true ∧ (1 ≤ k ∧ k ≤ 5) ∧ s.dev.kindLost p.val k = false ∧ s.dev.bank.bad = []) ∧
    (∃ (s : State) (p : Port), (s.dev.scanOn p.val = false ∨ s.dev.itemUp .aux = false)) ∧
    (∃ (s : State) (p : Port) (l : CalLoad), (s.dev.calSt p.val).load = some l ∧ l.step = 1 ∧ l.target = 4 ∧ defectsOk (l.data s.dev.mode) = false ∧ s.dev.domOn 3 = true ∧ s.dev.fetched (.calLoad p.val) = true) ∧
    (∃ (s : State) (p : Port) (l : CalLoad), (s.dev.calSt p.val).load = some l ∧ l.step = 1 ∧ l.target = 0 ∧ s.dev.fetched (.calLoad p.val) = true) :=
  ⟨⟨scanOn_, pf0, 0, 0x101, by decide +kernel⟩, ⟨upd scanOn_ (fun d => d.setLoad 0 (some ⟨1, 0, 0, 0, 0, [], 1, false⟩)), pf0, 0, 0x101, ⟨1, 0, 0, 0, 0, [], 1, false⟩, by decide +kernel⟩, ⟨T0, pf0, 0, 0x101, by decide +kernel⟩, ⟨upd scanOn_ (fun d => d.setLoad 0 (some ⟨1, 0, 0, 0, 0, [], 1, false⟩)), pf0, 0, ⟨1, 0, 0, 0, 0, [], 1, false⟩, by decide +kernel⟩, ⟨upd scanOn_ (fun d => d.setLoad 0 (some ⟨1, 0, 0, 0, 0, [], 4, false⟩)), pf0, 0, ⟨1, 0, 0, 0, 0, [], 4, false⟩, by decide +kernel⟩, ⟨upd (at_ [(1, 0x100, 0x13135)]) (fun d => (d.setLoad 0 (some ⟨3, 0, 0, 0, 0, [], 1, false⟩)).setDom 3 3), 0, ⟨3, 0, 0, 0, 0, [], 1, false⟩, by decide +kernel⟩, ⟨upd following (fun d => ((d.setLoad 0 (some ⟨3, 0, 0, 0, 0, [], 1, false⟩)).setDom 3 3).wr (CAL.pg 0) CAL.TBL_STAT_LOST 0), 0, ⟨3, 0, 0, 0, 0, [], 1, false⟩, by decide +kernel⟩, ⟨upd scanOn_ (fun d => d.setLoad 0 (some ⟨1, 0, 0, 0, 0, [], 4, false⟩)), 0, ⟨1, 0, 0, 0, 0, [], 4, false⟩, by decide +kernel⟩, ⟨upd scanOn_ (fun d => d.wr (CAL.pg 0) CAL.TBL_STAT_LOST 0x36), 0, 3, by decide +kernel⟩, ⟨T0, 0, by decide +kernel⟩, ⟨upd T0 (fun d => (d.setLoad 0 (some ⟨4, 0, 0, 0, 0, [(3, 48)], 1, false⟩)).setDom 3 3), 0, ⟨4, 0, 0, 0, 0, [(3, 48)], 1, false⟩, by decide +kernel⟩, ⟨upd T0 (fun d => d.setLoad 0 (some ⟨0, 0, 0, 0, 0, [], 1, false⟩)), 0, ⟨0, 0, 0, 0, 0, [], 1, false⟩, by decide +kernel⟩⟩

theorem witness_StressMaps :
    (∃ (s : State) (a : Acc) (x : Word) (p : Port), s.dev.awake a = true ∧ s.dev.mayWrite a.who AGING.pg = true ∧ (AGING.OP_CTL_ABORT.of x = 0 ∧ AGING.OP_CTL_MARK_VALID.of x = 0) ∧ s.dev.aging.op = none ∧ AGING.OP_CTL_PORT.of x = p.val ∧ s.dev.tracked p.val = true ∧ s.dev.scanOn p.val = true ∧ s.dev.isDark p.val = true ∧ AGING.OP_CTL_FUNC.of x ≠ 3 ∧ s.dev.rd AGING.pg AGING.OP_SRC_LO % 64 = 0 ∧ s.dev.rd AGING.pg AGING.OP_LINES_LINES = 1 ∧ s.dev.rd AGING.pg AGING.OP_LINES_LINE0 < s.dev.mode.h ∧ ((s.dev.calSt 0).load = none ∧ (s.dev.calSt 1).load = none)) ∧
    (∃ (s : State) (a : Acc) (x : Word) (p : Port), s.dev.awake a = true ∧ s.dev.mayWrite a.who AGING.pg = true ∧ (AGING.OP_CTL_ABORT.of x = 0 ∧ AGING.OP_CTL_MARK_VALID.of x = 0) ∧ s.dev.aging.op = none ∧ AGING.OP_CTL_PORT.of x = p.val ∧ s.dev.tracked p.val = true ∧ s.dev.scanOn p.val = true ∧ s.dev.isDark p.val = true) ∧
    (∃ (s : State) (a : Acc) (x : Word) (p : Port), s.dev.awake a = true ∧ s.dev.mayWrite a.who AGING.pg = true ∧ (AGING.OP_CTL_ABORT.of x = 0 ∧ AGING.OP_CTL_MARK_VALID.of x = 0) ∧ s.dev.aging.op = none ∧ AGING.OP_CTL_PORT.of x = p.val ∧ s.dev.tracked p.val = true ∧ s.dev.scanOn p.val = true ∧ s.dev.stressValid p.val = true ∧ s.dev.halted = false) ∧
    (∃ (s : State) (a : Acc) (x : Word) (o : StressOp), s.dev.awake a = true ∧ s.dev.mayWrite a.who AGING.pg = true ∧ (AGING.OP_CTL_ABORT.of x = 0 ∧ AGING.OP_CTL_MARK_VALID.of x = 0) ∧ s.dev.aging.op = some o) ∧
    (∃ (s : State) (a : Acc) (x : Word) (p : Port), s.dev.awake a = true ∧ s.dev.mayWrite a.who AGING.pg = true ∧ AGING.OP_CTL_PORT.of x = p.val) ∧
    (∃ (s : State) (a : Acc) (o : StressOp), s.dev.awake a = true ∧ s.dev.mayWrite a.who AGING.pg = true ∧ s.dev.aging.op = some o ∧ (o.op < 2 ∧ o.step = 1) ∧ (s.dev.rd AGING.pg AGING.STAT_SNAP_DUE 0 = 0 ∧ s.dev.rd AGING.pg AGING.STAT_SNAP_DUE 1 = 0)) ∧
    (∃ (s : State) (a : Acc) (o : StressOp), s.dev.awake a = true ∧ s.dev.mayWrite a.who AGING.pg = true ∧ s.dev.aging.op = some o ∧ (o.op < 2 ∧ o.step = 2)) ∧
    (∃ (s : State) (p : Port), s.dev.on AGING.pg AGING.CTL_SNAP_EN = true ∧ s.dev.tracked p.val = true ∧ s.dev.stressValid p.val = true ∧ (s.dev.aging.op.isSome = true ∨ s.dev.scanOn p.val = false)) ∧
    (∃ (s : State) (p : Port), (s.dev.on AGING.pg AGING.CTL_SNAP_EN = false ∨ s.dev.tracked p.val = false ∨ s.dev.stressValid p.val = false)) ∧
    (∃ (s : State) (o : StressOp), s.dev.aging.op = some o ∧ (o.op = 0 ∧ o.step = 1) ∧ s.dev.fetched .stressLoad = true) ∧
    (∃ (s : State) (o : StressOp), s.dev.aging.op = some o ∧ (o.op = 0 ∧ o.step = 2) ∧ o.port < 2 ∧ (s.dev.rd AGING.pg AGING.STAT_SNAP_DUE 0 = 0 ∧ s.dev.rd AGING.pg AGING.STAT_SNAP_DUE 1 = 0)) ∧
    (∃ (s : State) (o : StressOp), s.dev.aging.op = some o ∧ o.op = 2 ∧ o.port < 2 ∧ s.dev.writing 1 = false ∧ (s.dev.rd AGING.pg AGING.STAT_SNAP_DUE 0 = 0 ∧ s.dev.rd AGING.pg AGING.STAT_SNAP_DUE 1 = 0)) ∧
    (∃ (s : State) (o : StressOp), s.dev.aging.op = some o ∧ o.op = 1 ∧ o.port < 2 ∧ (s.dev.rd AGING.pg AGING.STAT_SNAP_DUE 0 = 0 ∧ s.dev.rd AGING.pg AGING.STAT_SNAP_DUE 1 = 0)) :=
  ⟨⟨upd scanOn_ (fun d => d.wr AGING.pg AGING.CTL_TRACK_A 1), pf0, 0x100, 0, by decide +kernel⟩, ⟨upd scanOn_ (fun d => d.wr AGING.pg AGING.CTL_TRACK_A 1), pf0, 0x101, 0, by decide +kernel⟩, ⟨upd scanOn_ (fun d => (d.wr AGING.pg AGING.CTL_TRACK_A 1).wr AGING.pg AGING.STAT_VALID 1), pf0, 0x102, 0, by decide +kernel⟩, ⟨upd T0 (fun d => { d with aging := { d.aging with op := some ⟨1, 0, 0, 0, 0, 0, [], 1, 0, 0, 0, false⟩ } }), pf0, 0, ⟨1, 0, 0, 0, 0, 0, [], 1, 0, 0, 0, false⟩, by decide +kernel⟩, ⟨T0, pf0, 0x400, 0, by decide +kernel⟩, ⟨upd T0 (fun d => { d with aging := { d.aging with op := some ⟨1, 0, 0, 0, 0, 0, [], 1, 0, 0, 0, false⟩ } }), pf0, ⟨1, 0, 0, 0, 0, 0, [], 1, 0, 0, 0, false⟩, by decide +kernel⟩, ⟨upd T0 (fun d => { d with aging := { d.aging with op := some ⟨0, 0, 0, 0, 0, 1, [], 2, 0, 0, 0, false⟩ } }), pf0, ⟨0, 0, 0, 0, 0, 1, [], 2, 0, 0, 0, false⟩, by decide +kernel⟩, ⟨upd T0 fun d => ((d.wr AGING.pg AGING.CTL_TRACK_A 1).wr AGING.pg AGING.STAT_VALID 1).wr AGING.pg AGING.CTL_SNAP_EN 1, 0, by decide +kernel⟩, ⟨T0, 0, by decide +kernel⟩, ⟨upd T0 (fun d => { d with aging := { d.aging with op := some ⟨0, 0, 0, 0, 0, 1, [], 1, 0, 0, 0, false⟩ } }), ⟨0, 0, 0, 0, 0, 1, [], 1, 0, 0, 0, false⟩, by decide +kernel⟩, ⟨upd T0 (fun d => { d with aging := { d.aging with op := some ⟨0, 0, 0, 0, 0, 1, [], 2, 0, 0, 0, false⟩ } }), ⟨0, 0, 0, 0, 0, 1, [], 2, 0, 0, 0, false⟩, by decide +kernel⟩, ⟨upd T0 (fun d => { d with aging := { d.aging with op := some ⟨2, 0, 0, 0, 0, 1, [], 2, 0, 0, 0, false⟩ } }), ⟨2, 0, 0, 0, 0, 1, [], 2, 0, 0, 0, false⟩, by decide +kernel⟩, ⟨upd T0 (fun d => { d with aging := { d.aging with op := some ⟨1, 0, 0, 0, 0, 1, [], 1, 0, 0, 0, false⟩ } }), ⟨1, 0, 0, 0, 0, 1, [], 1, 0, 0, 0, false⟩, by decide +kernel⟩⟩

theorem witness_LinkTrains :
    (∃ (s : State) (a : Acc) (p : Port), s.dev.awake a = true ∧ s.dev.mayWrite a.who (TDL.pg p.val) = true ∧ s.dev.operates (TDL.pg p.val) = true ∧ s.dev.isDark p.val = true ∧ s.dev.trim.run = none) ∧
    (∃ (s : State) (a : Acc) (p : Port), s.dev.awake a = true ∧ s.dev.mayWrite a.who (TDL.pg p.val) = true ∧ (s.dev.isDark p.val = false ∨ s.dev.operates (TDL.pg p.val) = false)) ∧
    (∃ (s : State) (a : Acc) (p : Port), s.dev.awake a = true ∧ s.dev.mayWrite a.who (TDL.pg p.val) = true ∧ s.dev.operates (TDL.pg p.val) = true ∧ s.dev.tdlState p.val = 2 ∧ s.dev.trim.run = none) ∧
    (∃ (s : State) (a : Acc) (p : Port), s.dev.awake a = true ∧ s.dev.mayWrite a.who (TDL.pg p.val) = true ∧ (s.dev.tdlState p.val ≠ 2 ∨ s.dev.operates (TDL.pg p.val) = false)) ∧
    (∃ (s : State) (p : Port) (us : Nat), (s.dev.tdlSt p.val).train = 1 ∧ (s.dev.tdlSt p.val).bcLost = false ∧ us < 2 ^ 16) ∧
    (∃ (s : State) (p : Port), (s.dev.tdlSt p.val).train = 1 ∧ (s.dev.tdlSt p.val).bcLost = false ∧ groupsOn s.dev.regs p.val = [0] ∧ s.dev.on (TDL.pg p.val) TDL.CTL_GROUP_LOSS = true ∧ s.dev.panelState p.val ≠ 4) ∧
    (∃ (s : State) (p : Port), ((s.dev.tdlSt p.val).train = 0 ∨ (s.dev.tdlSt p.val).bcLost = true)) ∧
    (∃ (s : State) (p : Port), (s.dev.tdlSt p.val).bcLost = false ∧ 64 ≤ (s.dev.tdlSt p.val).silent) ∧
    (∃ (s : State) (p : Port), ((s.dev.tdlSt p.val).bcLost = true ∨ (s.dev.tdlSt p.val).silent < 64)) ∧
    (∃ (s : State) (p : Port), ((s.dev.tdlSt p.val).train = 1 ∨ (s.dev.tdlSt p.val).train = 3) ∧ (s.dev.tdlSt p.val).bcLost = false) ∧
    (∃ (s : State) (p : Port) (l : Fin 24), (s.dev.tdlSt p.val).train = 3 ∧ (s.dev.tdlSt p.val).bcLost = false ∧ s.dev.tdlState p.val = 2 ∧ bit (laneMask s.dev.regs p.val) l.val = true ∧ bit (s.dev.lanesFailed p.val) l.val = true ∧ s.dev.scan.run = false) ∧
    (∃ (s : State) (p : Port) (l : Fin 24), (s.dev.tdlSt p.val).train = 3 ∧ (s.dev.tdlSt p.val).bcLost = false ∧ s.dev.tdlState p.val = 2 ∧ bit (laneMask s.dev.regs p.val) l.val = true ∧ bit (s.dev.lanesFailed p.val) l.val = true ∧ s.dev.scan.run = true) ∧
    (∃ (s : State) (p : Port) (x : Nat) (e : Nat × Nat), (s.dev.tdlSt p.val).train = 1 ∧ (s.dev.tdlSt p.val).bcLost = false ∧ groupsOn s.dev.regs p.val = [0] ∧ spansOf s.dev.regs p.val s.dev.mode.w = [(0, e)] ∧ s.dev.identBad p.val (0, e) x = true ∧ s.dev.on (TDL.pg p.val) TDL.CTL_GROUP_LOSS = true ∧ s.dev.panelState p.val ≠ 4 ∧ s.dev.panelState p.val ≠ 6) ∧
    (∃ (s : State) (p : Port) (l : Fin 24), (s.dev.tdlSt p.val).train = 1 ∧ (s.dev.tdlSt p.val).bcLost = false ∧ bit (laneMask s.dev.regs p.val) l.val = true ∧ s.dev.on (TDL.pg p.val) TDL.CTL_FFE_FIXED = false) :=
  ⟨⟨T0, pf0, 0, by decide +kernel⟩, ⟨upd following (fun d => d.wr (CAL.pg 0) CAL.TBL_STAT_LOST 0), pf0, 0, by decide +kernel⟩, ⟨linked, pf0, 0, by decide +kernel⟩, ⟨T0, pf0, 0, by decide +kernel⟩, ⟨upd linked fun d => d.startTrain 0 1, 0, 0, by decide +kernel⟩, ⟨upd linked fun d => (d.startTrain 0 1).wr (TDL.pg 0) TDL.CTL_GROUP_LOSS 1, 0, by decide +kernel⟩, ⟨T0, 0, by decide +kernel⟩, ⟨upd linked (fun d => d.setTdl 0 { d.tdlSt 0 with silent := 64 }), 0, by decide +kernel⟩, ⟨upd linked fun d => d.setTdl 0 { d.tdlSt 0 with bcLost := true }, 0, by decide +kernel⟩, ⟨upd linked fun d => d.startTrain 0 1, 0, by decide +kernel⟩, ⟨upd linked (fun d => (d.startTrain 0 3).wr (TDL.pg 0) TDL.LANE_STAT_FAILED 1), 0, 0, by decide +kernel⟩, ⟨upd linked (fun d => { (d.startTrain 0 3).wr (TDL.pg 0) TDL.LANE_STAT_FAILED 1 with scan := { d.scan with run := true } }), 0, 0, by decide +kernel⟩, ⟨upd linked (fun d => (d.startTrain 0 1).wr (TDL.pg 0) TDL.CTL_GROUP_LOSS 1), 0, 0, (0, 3840), by decide +kernel⟩, ⟨upd linked (fun d => (d.startTrain 0 1).wr (TDL.pg 0) TDL.CTL_FFE_FIXED 0), 0, 0, by decide +kernel⟩⟩

theorem witness_DriverCommands :
    (∃ (s : State) (a : Acc) (p : Port), s.dev.awake a = true ∧ s.dev.mayWrite a.who (TDL.pg p.val) = true ∧ s.dev.rd (TDL.pg p.val) TDL.CMD_OP_OPCODE = 1 ∧ s.dev.operates (TDL.pg p.val) = true ∧ s.dev.tdlState p.val = 2 ∧ s.dev.on (TDL.pg p.val) TDL.RSP_STAT_BUSY = false) ∧
    (∃ (s : State) (a : Acc) (p : Port), s.dev.awake a = true ∧ s.dev.mayWrite a.who (TDL.pg p.val) = true ∧ s.dev.rd (TDL.pg p.val) TDL.CMD_OP_OPCODE = 2 ∧ s.dev.operates (TDL.pg p.val) = true ∧ s.dev.tdlState p.val = 2 ∧ s.dev.on (TDL.pg p.val) TDL.RSP_STAT_BUSY = false) ∧
    (∃ (s : State) (a : Acc) (p : Port), s.dev.awake a = true ∧ s.dev.mayWrite a.who (TDL.pg p.val) = true ∧ s.dev.rd (TDL.pg p.val) TDL.CMD_OP_OPCODE = 4 ∧ s.dev.operates (TDL.pg p.val) = true ∧ s.dev.tdlState p.val = 2 ∧ s.dev.on (TDL.pg p.val) TDL.RSP_STAT_BUSY = false) ∧
    (∃ (s : State) (a : Acc) (p : Port), s.dev.awake a = true ∧ s.dev.mayWrite a.who (TDL.pg p.val) = true ∧ s.dev.rd (TDL.pg p.val) TDL.CMD_OP_OPCODE = 5 ∧ s.dev.operates (TDL.pg p.val) = true ∧ s.dev.tdlState p.val = 2 ∧ s.dev.on (TDL.pg p.val) TDL.RSP_STAT_BUSY = false) ∧
    (∃ (s : State) (a : Acc) (p : Port), s.dev.awake a = true ∧ s.dev.mayWrite a.who (TDL.pg p.val) = true ∧ s.dev.rd (TDL.pg p.val) TDL.CMD_OP_OPCODE = 2 ∧ (s.dev.tdlState p.val ≠ 2 ∨ s.dev.operates (TDL.pg p.val) = false)) ∧
    (∃ (s : State) (a : Acc) (p : Port), s.dev.awake a = true ∧ s.dev.mayWrite a.who (TDL.pg p.val) = true ∧ s.dev.rd (TDL.pg p.val) TDL.CMD_OP_OPCODE = 2 ∧ s.dev.operates (TDL.pg p.val) = true ∧ s.dev.tdlState p.val = 2 ∧ s.dev.on (TDL.pg p.val) TDL.RSP_STAT_BUSY = true) ∧
    (∃ (s : State) (p : Port) (c : TdlCmd) (line : Nat), (s.dev.tdlSt p.val).cmd = some c ∧ c.rspAt = some line ∧ c.src = 0 ∧ c.op < 256 ∧ s.dev.tdlState p.val = 2) ∧
    (∃ (s : State) (p : Port) (c : TdlCmd) (line : Nat), (s.dev.tdlSt p.val).cmd = some c ∧ c.rspAt = some line ∧ s.dev.tdlState p.val = 2) ∧
    (∃ (s : State) (p : Port) (c : TdlCmd), (s.dev.tdlSt p.val).cmd = some c ∧ c.rsp = true ∧ c.asked = 3 ∧ c.ask = false ∧ c.src = 0 ∧ c.op < 256) ∧
    (∃ (s : State) (p : Port) (g : Nat) (line : Nat), s.dev.tdlState p.val = 2 ∧ s.dev.slotCmd p.val line = none ∧ s.dev.pollGroup p.val = some g ∧ g < 12 ∧ getC (s.dev.tdlSt p.val).miss g = 0) :=
  ⟨⟨upd linked fun d => d.wr (TDL.pg 0) TDL.CMD_OP_OPCODE 1, pf0, 0, by decide +kernel⟩, ⟨upd linked fun d => d.wr (TDL.pg 0) TDL.CMD_OP_OPCODE 2, pf0, 0, by decide +kernel⟩, ⟨upd linked fun d => d.wr (TDL.pg 0) TDL.CMD_OP_OPCODE 4, pf0, 0, by decide +kernel⟩, ⟨upd linked fun d => d.wr (TDL.pg 0) TDL.CMD_OP_OPCODE 5, pf0, 0, by decide +kernel⟩, ⟨upd T0 fun d => d.wr (TDL.pg 0) TDL.CMD_OP_OPCODE 2, pf0, 0, by decide +kernel⟩, ⟨upd linked fun d => (d.wr (TDL.pg 0) TDL.CMD_OP_OPCODE 2).wr (TDL.pg 0) TDL.RSP_STAT_BUSY 1, pf0, 0, by decide +kernel⟩, ⟨upd linked (fun d => d.setTdl 0 { d.tdlSt 0 with cmd := some cmd_ }), 0, cmd_, 8, by decide +kernel⟩, ⟨upd linked (fun d => d.setTdl 0 { d.tdlSt 0 with cmd := some cmd_ }), 0, cmd_, 8, by decide +kernel⟩, ⟨upd linked (fun d => d.setTdl 0 { d.tdlSt 0 with cmd := some { cmd_ with asked := 3, ask := false } }), 0, { cmd_ with asked := 3, ask := false }, by decide +kernel⟩, ⟨linked, 0, 0, 0, by decide +kernel⟩⟩

theorem witness_LanesChecked :
    (∃ (s : State) (p : Port) (line : Nat) (sl : Fin 4), (s.dev.wmOn p.val = false ∨ (s.dev.tdlSt p.val).carried.find? (fun e => e.line == line && e.slot == sl.val) = none)) ∧
    (∃ (s : State) (p : Port) (g : Fin 12) (line : Nat) (sl : Fin 4) (u : Sampled) (w : WmSent), s.dev.wmOn p.val = true ∧ s.dev.sampValid p.val (2 * g.val) = true ∧ crcsAgree u = true ∧ (s.dev.tdlSt p.val).carried.find? (fun e => e.line == line && e.slot == sl.val) = some w ∧ w.old = false) ∧
    (∃ (s : State) (p : Port) (g : Fin 12) (line : Nat) (sl : Fin 4) (u : Sampled) (v : Sampled) (w : WmSent), s.dev.wmOn p.val = true ∧ (s.dev.sampValid p.val (2 * g.val) = true ∧ s.dev.sampValid p.val (2 * g.val + 1) = true) ∧ crcsAgree u = false ∧ crcsAgree v = true ∧ (s.dev.tdlSt p.val).carried.find? (fun e => e.line == line && e.slot == sl.val) = some w ∧ w.old = false ∧ s.dev.rd WMARK.pg WMARK.CTL_POLICY = 1 ∧ (s.dev.tdlSt p.val).resend = [] ∧ line < 8192 ∧ s.dev.frozen WMARK.pg = false) ∧
    (∃ (s : State) (p : Port) (g : Fin 12) (line : Nat) (sl : Fin 4) (w : WmSent), s.dev.wmOn p.val = true ∧ s.dev.sampValid p.val (2 * g.val) = false ∧ (s.dev.tdlSt p.val).carried.find? (fun e => e.line == line && e.slot == sl.val) = some w ∧ w.old = false) ∧
    (∃ (s : State) (p : Port) (g : Fin 12) (line : Nat) (f : Failover), (s.dev.tdlSt p.val).failing g.val = some f ∧ s.dev.tdlState p.val = 2 ∧ f.line = line ∧ f.line < s.dev.mode.h ∧ f.lane < 24 ∧ s.dev.frozen (TDL.pg p.val) = false) ∧
    (∃ (s : State) (p : Port) (g : Fin 12), (s.dev.tdlSt p.val).failing g.val = none) ∧
    (∃ (s : State) (p : Port) (g : Fin 12) (f : Failover), (s.dev.tdlSt p.val).failing g.val = some f ∧ s.dev.tdlState p.val = 2 ∧ f.lane < 24) ∧
    (∃ (s : State) (p : Port), s.dev.wmOn p.val = true) :=
  ⟨⟨upd T0 fun d => d.wr WMARK.pg WMARK.CTL_EN_A 0, 0, 0, 0, by decide +kernel⟩, ⟨upd sent_ fun d => (d.wr WMARK.pg WMARK.CTL_EN_A 1).wr TRIM.pg TRIM.SAMP_VALID 1, 0, 0, 0, 0, ⟨[1], [1]⟩, ⟨0, 0, 0, false⟩, by decide +kernel⟩, ⟨upd sent_ fun d => (((d.wr WMARK.pg WMARK.CTL_EN_A 1).wr TRIM.pg TRIM.SAMP_VALID 1).wr TRIM.pg TRIM.SAMP_VALID 1 (i := 1)).wr WMARK.pg WMARK.CTL_POLICY 1, 0, 0, 0, 0, ⟨[1], [2]⟩, ⟨[1], [1]⟩, ⟨0, 0, 0, false⟩, by decide +kernel⟩, ⟨upd sent_ (fun d => d.wr WMARK.pg WMARK.CTL_EN_A 1), 0, 0, 0, 0, ⟨0, 0, 0, false⟩, by decide +kernel⟩, ⟨upd linked (fun d => d.setTdl 0 { d.tdlSt 0 with fails := [⟨0, 1, 9, 0⟩] }), 0, 0, 9, ⟨0, 1, 9, 0⟩, by decide +kernel⟩, ⟨T0, 0, 0, by decide +kernel⟩, ⟨upd linked (fun d => d.setTdl 0 { d.tdlSt 0 with fails := [⟨0, 1, 9, 0⟩] }), 0, 0, ⟨0, 1, 9, 0⟩, by decide +kernel⟩, ⟨upd linked (fun d => d.wr WMARK.pg WMARK.CTL_EN_A 1), 0, by decide +kernel⟩⟩

theorem witness_PanelPowersUp :
    (∃ (s : State) (a : Acc) (x : Word) (p : Port), s.dev.awake a = true ∧ s.dev.mayWrite a.who (PANEL.pg p.val) = true ∧ PANEL.PWR_CTL_OFF.of x = 0 ∧ s.dev.panelState p.val = 0 ∧ s.dev.onPll (4 + p.val) = true ∧ s.dev.portOn p.val = true ∧ s.dev.operates (PANEL.pg p.val) = true ∧ s.dev.seqUse p.val 0 = true ∧ s.dev.on (PANEL.pg p.val) PANEL.SEQ_PG_WAIT 0 = false) ∧
    (∃ (s : State) (a : Acc) (x : Word) (p : Port), s.dev.awake a = true ∧ s.dev.mayWrite a.who (PANEL.pg p.val) = true ∧ PANEL.PWR_CTL_OFF.of x = 0 ∧ s.dev.panelState p.val ≠ 0) ∧
    (∃ (s : State) (a : Acc) (x : Word) (p : Port), s.dev.awake a = true ∧ s.dev.mayWrite a.who (PANEL.pg p.val) = true ∧ PANEL.PWR_CTL_OFF.of x = 0 ∧ s.dev.panelState p.val = 0 ∧ s.dev.onPll (4 + p.val) = false) ∧
    (∃ (s : State) (p : Port), (s.dev.panelSt p.val).wait = .onDelay ∧ (s.dev.panelSt p.val).idx < 5 ∧ s.dev.seqUse p.val ((s.dev.panelSt p.val).idx + 1) = true) ∧
    (∃ (s : State) (p : Port), (s.dev.panelSt p.val).wait = .onDelay ∧ s.dev.seqUse p.val ((s.dev.panelSt p.val).idx + 1) = false) ∧
    (∃ (s : State) (p : Port), ((s.dev.panelSt p.val).wait = .pg ∨ (s.dev.panelSt p.val).wait = .analog ∨ (s.dev.panelSt p.val).wait = .pready ∨ (s.dev.panelSt p.val).wait = .clear) ∧ (s.dev.panelSt p.val).gclk = true) ∧
    (∃ (s : State) (p : Port), (s.dev.panelSt p.val).wait = .analog ∧ s.dev.on (PANEL.pg p.val) PANEL.VNEG_STAT_REG = true) ∧
    (∃ (s : State) (p : Port), (s.dev.panelSt p.val).wait ≠ .analog) ∧
    (∃ (s : State) (p : Port), (s.dev.panelSt p.val).wait = .prst ∧ s.dev.on (PANEL.pg p.val) PANEL.PANEL_CFG_PREADY_USE = true ∧ (s.dev.panelSt p.val).pready = false) ∧
    (∃ (s : State) (p : Port), (s.dev.panelSt p.val).wait = .pready ∧ s.dev.on (PANEL.pg p.val) PANEL.PANEL_CFG_PREADY_USE = true) ∧
    (∃ (s : State) (p : Port), ((s.dev.panelSt p.val).wait = .pg ∨ (s.dev.panelSt p.val).wait = .analog ∨ (s.dev.panelSt p.val).wait = .pready ∨ (s.dev.panelSt p.val).wait = .clear)) ∧
    (∃ (s : State) (p : Port), (s.dev.panelSt p.val).wait = .offClear) :=
  ⟨⟨upd T0 fun d => (((d.setDom 4 4).wr SCAN.pg SCAN.CTL_PORT_A 1).wr (PANEL.pg 0) PANEL.SEQ_USE 1).wr (PANEL.pg 0) PANEL.SEQ_PG_WAIT 0, pf0, 0, 0, by decide +kernel⟩, ⟨seq 1 .pg, pf0, 0, 0, by decide +kernel⟩, ⟨T0, pf0, 0, 0, by decide +kernel⟩, ⟨upd (seq 1 .onDelay) fun d => d.wr (PANEL.pg 0) PANEL.SEQ_USE 1 (i := 1), 0, by decide +kernel⟩, ⟨upd (seq 1 .onDelay) fun d => d.wr (PANEL.pg 0) PANEL.SEQ_USE 0 (i := 1), 0, by decide +kernel⟩, ⟨upd (seq 3 .pready) fun d => d.setPanel 0 { d.panelSt 0 with gclk := true }, 0, by decide +kernel⟩, ⟨upd (seq 2 .analog) fun d => d.wr (PANEL.pg 0) PANEL.VNEG_STAT_REG 1, 0, by decide +kernel⟩, ⟨T0, 0, by decide +kernel⟩, ⟨upd (seq 2 .prst) fun d => d.wr (PANEL.pg 0) PANEL.PANEL_CFG_PREADY_USE 1, 0, by decide +kernel⟩, ⟨upd (seq 3 .pready) fun d => d.wr (PANEL.pg 0) PANEL.PANEL_CFG_PREADY_USE 1, 0, by decide +kernel⟩, ⟨seq 1 .pg, 0, by decide +kernel⟩, ⟨seq 8 .offClear, 0, by decide +kernel⟩⟩

theorem witness_PanelPowersDown :
    (∃ (s : State) (a : Acc) (p : Port), s.dev.awake a = true ∧ s.dev.mayWrite a.who (PANEL.pg p.val) = true ∧ (s.dev.panelState p.val = 0 ∨ s.dev.panelState p.val = 8)) ∧
    (∃ (s : State) (a : Acc) (p : Port), s.dev.awake a = true ∧ s.dev.mayWrite a.who (PANEL.pg p.val) = true ∧ s.dev.panelState p.val = 9 ∧ s.dev.pwr.seqOff = none) ∧
    (∃ (s : State) (a : Acc) (p : Port), s.dev.awake a = true ∧ s.dev.mayWrite a.who (PANEL.pg p.val) = true ∧ s.dev.panelState p.val = 7 ∧ s.dev.on AGING.pg AGING.CTL_SNAP_ON_OFF = false ∧ s.dev.on (PANEL.pg p.val) PANEL.PANEL_CFG_OFF_CLEAR = false ∧ (s.dev.panelSt p.val).gclk = true ∧ s.dev.pwr.seqOff = none) ∧
    (∃ (s : State) (p : Port), (s.dev.panelSt p.val).wait = .gclk) ∧
    (∃ (s : State) (p : Port), (s.dev.panelSt p.val).wait ≠ .gclk) ∧
    (∃ (s : State), (s.dev.panelState 0 = 0 ∧ s.dev.panelState 1 = 0)) ∧
    (∃ (s : State) (p : Port), s.dev.panelState p.val = 7 ∧ s.dev.on (PANEL.pg p.val) PANEL.PANEL_CFG_PREADY_USE = true ∧ (s.dev.panelSt p.val).gclk = true ∧ s.dev.pwr.seqOff = none) ∧
    (∃ (s : State) (p : Port), s.dev.panelState p.val ≠ 7) ∧
    (∃ (s : State) (p : Port) (mv : Nat), mv < 2 ^ 16 ∧ (s.dev.biasOn 0 || s.dev.biasOn 1) = true ∧ s.dev.domOn 6 = true ∧ s.dev.on (PANEL.pg p.val) PANEL.VNEG_STAT_PUMP_ON = true ∧ s.dev.pwr.testMode = false) ∧
    (∃ (s : State) (p : Port), (s.dev.biasOn 0 || s.dev.biasOn 1) = true ∧ s.dev.domOn 6 = true ∧ s.dev.on (PANEL.pg p.val) PANEL.VNEG_STAT_PUMP_ON = true ∧ s.dev.pwr.testMode = false) ∧
    (∃ (s : State) (p : Port) (code : List Rat) (k : Nat), s.dev.on (PANEL.pg p.val) PANEL.CRK_CTL_EN = true ∧ s.dev.domOn (6 + p.val) = true ∧ s.dev.portState p.val ≠ 5 ∧ k = (rna (mkRat (sumNat (code.map crkCode)) code.length)).toNat ∧ s.dev.rd (PANEL.pg p.val) PANEL.CRK_LIM_LO ≤ k ∧ k ≤ s.dev.rd (PANEL.pg p.val) PANEL.CRK_LIM_HI ∧ 1 ≤ s.dev.rd (PANEL.pg p.val) PANEL.CRK_CTL_COUNT ∧ s.dev.rd SCAN.pg SCAN.SR_STAT_STATE ≠ 2) ∧
    (∃ (s : State) (p : Port) (code : List Rat) (k : Nat), s.dev.on (PANEL.pg p.val) PANEL.CRK_CTL_EN = true ∧ s.dev.domOn (6 + p.val) = true ∧ s.dev.portState p.val ≠ 5 ∧ k = (rna (mkRat (sumNat (code.map crkCode)) code.length)).toNat ∧ s.dev.rd (PANEL.pg p.val) PANEL.CRK_LIM_HI < k ∧ s.dev.rd (PANEL.pg p.val) PANEL.CRK_CTL_COUNT ≤ (s.dev.panelSt p.val).outs + 1 ∧ s.dev.rd SCAN.pg SCAN.SR_STAT_STATE ≠ 2) ∧
    (∃ (s : State) (a : Acc) (p : Port), s.dev.awake a = true ∧ s.dev.mayWrite a.who (PANEL.pg p.val) = true ∧ s.dev.rd (PANEL.pg p.val) PANEL.CRK_CTL_COUNT ≤ (s.dev.panelSt p.val).ins) ∧
    (∃ (s : State) (a : Acc) (p : Port), s.dev.awake a = true ∧ s.dev.mayWrite a.who (PANEL.pg p.val) = true ∧ (s.dev.panelSt p.val).ins < s.dev.rd (PANEL.pg p.val) PANEL.CRK_CTL_COUNT) ∧
    (∃ (s : State) (p : Port) (n : Fin 4), s.dev.panelState p.val = 7 ∧ (s.dev.panelSt p.val).gclk = true ∧ s.dev.seqUse p.val 0 = true ∧ s.dev.on (PANEL.pg p.val) PANEL.SEQ_PG_WAIT 0 = true ∧ s.dev.rd (PANEL.pg p.val) PANEL.SEQ_PG 0 = n.val ∧ bit s.dev.pwr.rails (s.dev.rd (PANEL.pg p.val) PANEL.SEQ_RAIL 0) = true ∧ s.dev.panelState (1 - p.val) = 0 ∧ s.dev.pwr.seqOff = none) ∧
    (∃ (s : State) (p : Port), s.dev.on (PANEL.pg p.val) PANEL.VNEG_STAT_PUMP_ON = true) ∧
    (∃ (s : State) (a : Acc) (p : Port), s.dev.awake a = true ∧ s.dev.mayWrite a.who (PANEL.pg p.val) = true ∧ (1 ≤ s.dev.panelState p.val ∧ s.dev.panelState p.val ≤ 7) ∧ s.dev.pwr.seqOff = none) ∧
    (∃ (s : State) (p : Port), (s.dev.panelSt p.val).wait ≠ .pready) :=
  ⟨⟨T0, pf0, 0, by decide +kernel⟩, ⟨seq 9 .none, pf0, 0, by decide +kernel⟩, ⟨upd (seq 7 .none) fun d => ((d.setPanel 0 { d.panelSt 0 with gclk := true }).wr (PANEL.pg 0) PANEL.PANEL_CFG_OFF_CLEAR 0).wr AGING.pg AGING.CTL_SNAP_ON_OFF 0, pf0, 0, by decide +kernel⟩, ⟨seq 8 .gclk, 0, by decide +kernel⟩, ⟨T0, 0, by decide +kernel⟩, ⟨T0, by decide +kernel⟩, ⟨upd (seq 7 .none) fun d => (d.setPanel 0 { d.panelSt 0 with gclk := true }).wr (PANEL.pg 0) PANEL.PANEL_CFG_PREADY_USE 1, 0, by decide +kernel⟩, ⟨T0, 0, by decide +kernel⟩, ⟨upd T0 fun d => (({ d with pwr := { d.pwr with bias := [(0, true)] } } : Dev).setDom 6 3).wr (PANEL.pg 0) PANEL.VNEG_STAT_PUMP_ON 1, 0, 0, by decide +kernel⟩, ⟨upd T0 fun d => (({ d with pwr := { d.pwr with bias := [(0, true)] } } : Dev).setDom 6 3).wr (PANEL.pg 0) PANEL.VNEG_STAT_PUMP_ON 1, 0, by decide +kernel⟩, ⟨upd T0 (fun d => (d.setDom 6 3).wr (PANEL.pg 0) PANEL.CRK_CTL_EN 1), 0, [1000], 205, by decide +kernel⟩, ⟨upd T0 (fun d => ((d.setDom 6 3).wr (PANEL.pg 0) PANEL.CRK_CTL_EN 1).wr (PANEL.pg 0) PANEL.CRK_CTL_COUNT 1), 0, [30000], 4095, by decide +kernel⟩, ⟨upd T0 fun d => d.setPanel 0 { d.panelSt 0 with ins := 255 }, pf0, 0, by decide +kernel⟩, ⟨upd T0 fun d => d.wr (PANEL.pg 0) PANEL.CRK_CTL_COUNT 3, pf0, 0, by decide +kernel⟩, ⟨upd (seq 7 .none) fun d => (((({ d with pwr := { d.pwr with rails := 1 } } : Dev).setPanel 0 { d.panelSt 0 with gclk := true }).wr (PANEL.pg 0) PANEL.SEQ_USE 1 (i := 0)).wr (PANEL.pg 0) PANEL.SEQ_PG_WAIT 1 (i := 0)).wr (PANEL.pg 0) PANEL.SEQ_PG 0 (i := 0), 0, 0, by decide +kernel⟩, ⟨upd T0 fun d => (({ d with pwr := { d.pwr with bias := [(0, true)] } } : Dev).setDom 6 3).wr (PANEL.pg 0) PANEL.VNEG_STAT_PUMP_ON 1, 0, by decide +kernel⟩, ⟨seq 3 .pready, pf0, 0, by decide +kernel⟩, ⟨T0, 0, by decide +kernel⟩⟩

theorem witness_TrimsRun :
    (∃ (s : State) (a : Acc) (x : Word), s.dev.awake a = true ∧ s.dev.mayWrite a.who TRIM.pg = true ∧ TRIM.RUN_CTL_ABORT.of x = 0 ∧ TRIM.RUN_CTL_VREF_SEL.of x < 5 ∧ s.dev.operates TRIM.pg = true ∧ s.dev.domOn 1 = true ∧ s.dev.trim.run = none ∧ s.dev.tdlState (TRIM.RUN_CTL_PORT.of x) = 2) ∧
    (∃ (s : State) (a : Acc) (x : Word), s.dev.awake a = true ∧ s.dev.mayWrite a.who TRIM.pg = true ∧ TRIM.RUN_CTL_ABORT.of x = 0 ∧ TRIM.RUN_CTL_VREF_SEL.of x < 5 ∧ s.dev.operates TRIM.pg = true ∧ s.dev.domOn 1 = true ∧ s.dev.trim.run = none ∧ s.dev.vrefState (TRIM.RUN_CTL_PORT.of x) = true ∧ s.dev.on (PANEL.pg (TRIM.RUN_CTL_PORT.of x)) PANEL.VREF_EN (TRIM.RUN_CTL_VREF_SEL.of x) = true ∧ s.dev.isDark (TRIM.RUN_CTL_PORT.of x) = true) ∧
    (∃ (s : State) (a : Acc) (x : Word), s.dev.awake a = true ∧ s.dev.mayWrite a.who TRIM.pg = true ∧ TRIM.RUN_CTL_ABORT.of x = 0 ∧ TRIM.RUN_CTL_VREF_SEL.of x < 5 ∧ s.dev.operates TRIM.pg = true ∧ s.dev.domOn 1 = true ∧ s.dev.trim.run = none ∧ s.dev.rd TITHE.pg TITHE.ISNS_FS_MA (TRIM.RUN_CTL_PORT.of x) ≠ 0 ∧ s.dev.panelState (TRIM.RUN_CTL_PORT.of x) = 7) ∧
    (∃ (s : State) (a : Acc) (x : Word), s.dev.awake a = true ∧ s.dev.mayWrite a.who TRIM.pg = true ∧ TRIM.RUN_CTL_ABORT.of x = 0 ∧ TRIM.RUN_CTL_VREF_SEL.of x < 5 ∧ s.dev.operates TRIM.pg = true ∧ s.dev.domOn 1 = true ∧ s.dev.trim.run = none ∧ s.dev.src = 1 ∧ s.dev.refValid = true) ∧
    (∃ (s : State) (a : Acc) (x : Word) (r : TrimRun), s.dev.awake a = true ∧ s.dev.mayWrite a.who TRIM.pg = true ∧ TRIM.RUN_CTL_ABORT.of x = 0 ∧ TRIM.RUN_CTL_VREF_SEL.of x < 5 ∧ s.dev.trim.run = some r) ∧
    (∃ (s : State) (a : Acc) (x : Word), s.dev.awake a = true ∧ s.dev.mayWrite a.who TRIM.pg = true ∧ TRIM.RUN_CTL_ABORT.of x = 0 ∧ TRIM.RUN_CTL_VREF_SEL.of x < 5 ∧ s.dev.trim.run = none ∧ (s.dev.tdlState (TRIM.RUN_CTL_PORT.of x) ≠ 2 ∨ s.dev.operates TRIM.pg = false ∨ s.dev.domOn 1 = false)) ∧
    (∃ (s : State) (a : Acc) (r : TrimRun), s.dev.awake a = true ∧ s.dev.mayWrite a.who TRIM.pg = true ∧ s.dev.trim.run = some r ∧ r.port < 2) ∧
    (∃ (s : State) (a : Acc), s.dev.awake a = true ∧ s.dev.mayWrite a.who TRIM.pg = true ∧ s.dev.trim.run = none) ∧
    (∃ (s : State), s.dev.halted = false ∧ s.dev.operates TRIM.pg = true ∧ s.dev.domOn 1 = true ∧ s.dev.trim.run = none ∧ bit (s.dev.rd TRIM.pg TRIM.DUE_DUE) 0 = true ∧ mget (fun _ => 0) s.dev.trim.retry 0 ≤ s.dev.devtime ∧ s.dev.tdlState 0 = 2) ∧
    (∃ (s : State) (r : TrimRun) (i : Fin 7), (s.dev.trim.run = some r ∨ bit (s.dev.rd TRIM.pg TRIM.DUE_DUE) i.val = false)) ∧
    (∃ (s : State) (r : TrimRun), s.dev.trim.run = some r ∧ r.cal = 3 ∧ r.ready = false ∧ r.port < 2 ∧ s.dev.sync.edges.length < s.dev.rd TRIM.pg TRIM.SYNC_CFG_EDGES) ∧
    (∃ (s : State) (r : TrimRun), s.dev.trim.run = some r ∧ r.cal = 0 ∧ r.ready = false ∧ r.port < 2 ∧ s.dev.halted = false) ∧
    (∃ (s : State) (r : TrimRun), s.dev.trim.run = some r ∧ r.cal = 2 ∧ r.ready = false ∧ r.port < 2 ∧ s.dev.regression r.port = none ∧ s.dev.halted = false) ∧
    (∃ (s : State) (r : TrimRun), s.dev.trim.run = some r ∧ r.cal = 3 ∧ r.ready = false ∧ r.port < 2 ∧ s.dev.sync.edges.length < s.dev.rd TRIM.pg TRIM.SYNC_CFG_EDGES) ∧
    (∃ (s : State) (r : TrimRun) (z : Int), s.dev.trim.run = some r ∧ r.cal = 3 ∧ r.ready = false ∧ r.port < 2 ∧ s.dev.scan.run = false ∧ 1 ≤ s.dev.rd TRIM.pg TRIM.SYNC_CFG_EDGES ∧ s.dev.sync.edges = List.replicate (s.dev.rd TRIM.pg TRIM.SYNC_CFG_EDGES) z ∧ s.dev.halted = false) ∧
    (∃ (s : State) (r : TrimRun) (ra : Rat) (rc : Rat) (rv : Rat) (rm : Rat), s.dev.trim.run = some r ∧ r.cal = 2 ∧ r.ready = false ∧ r.port < 2 ∧ s.dev.isDark r.port = true ∧ s.dev.regression r.port = some (ra, rc, rv, rm) ∧ rm ≠ 0 ∧ (1 / 2 ≤ ra ∧ ra < 2 ∧ 0 ≤ rc ∧ rc ≤ 65535) ∧ rv * 1000000 ≤ (s.dev.rd TRIM.pg TRIM.REGRESS_RES_MAX : Rat) * s.dev.rd TRIM.pg TRIM.REGRESS_RES_MAX * rm * rm ∧ s.dev.halted = false) ∧
    (∃ (s : State) (r : TrimRun) (idle : Bool), s.dev.trim.run = some r ∧ r.ready = false ∧ r.port < 2 ∧ (r.cal = 0 ∧ idle = false ∨ r.cal = 1 ∧ s.dev.isDark r.port = true ∧ (s.dev.regression r.port).isSome = true ∨ r.cal = 2 ∧ (s.dev.regression r.port).isSome = true) ∧ s.dev.halted = false) ∧
    (∃ (s : State) (r : TrimRun), s.dev.trim.run = some r ∧ (r.cal = 1 ∨ r.cal = 2) ∧ r.ready = false ∧ r.port < 2 ∧ s.dev.regression r.port = none ∧ s.dev.halted = false) :=
  ⟨⟨upd linked (fun d => d.setDom 1 3), pf0, 0x100, by decide +kernel⟩, ⟨upd T0 (fun d => ((d.setPanelState 0 4).wr (PANEL.pg 0) PANEL.VREF_EN 1).setDom 1 3), pf0, 0x101, by decide +kernel⟩, ⟨upd T0 (fun d => ((d.setPanelState 0 7).wr TITHE.pg TITHE.ISNS_FS_MA 100).setDom 1 3), pf0, 0x102, by decide +kernel⟩, ⟨upd T0 (fun d => ((d.wr SYNC.pg SYNC.SRC_CTL_SRC 1).wr SYNC.pg SYNC.LOCK_STAT_REF_VALID 1).setDom 1 3), pf0, 0x103, by decide +kernel⟩, ⟨trimming 2 false, pf0, 0x103, trimRun 2 false, by decide +kernel⟩, ⟨T0, pf0, 0x100, by decide +kernel⟩, ⟨trimming 2 false, pf0, trimRun 2 false, by decide +kernel⟩, ⟨T0, pf0, by decide +kernel⟩, ⟨upd linked fun d => (d.wr TRIM.pg TRIM.DUE_DUE 1).setDom 1 3, by decide +kernel⟩, ⟨T0, trimRun 2 false, 0, by decide +kernel⟩, ⟨upd (trimming 3 false) (fun d => d.wr TRIM.pg TRIM.SYNC_CFG_EDGES 8), trimRun 3 false, by decide +kernel⟩, ⟨trimming 0 false, trimRun 0 false, by decide +kernel⟩, ⟨trimming 2 false, trimRun 2 false, by decide +kernel⟩, ⟨upd (trimming 3 false) (fun d => d.wr TRIM.pg TRIM.SYNC_CFG_EDGES 8), trimRun 3 false, by decide +kernel⟩, ⟨upd (trimming 3 false) (fun d => { d.wr TRIM.pg TRIM.SYNC_CFG_EDGES 8 with sync := { d.sync with edges := List.replicate 8 5 } }), trimRun 3 false, 5, by decide +kernel⟩, ⟨upd (trimming 2 false) (fun d => { (d.wr TRIM.pg TRIM.REGRESS_MIN_PASSES 2).wr TRIM.pg TRIM.REGRESS_MIN_SPREAD 1 with trim := { d.trim with acc := [(0, ⟨2, 30, 40, 500, 650, 850⟩)] } }), trimRun 2 false, 1, 5, 0, 20, by decide +kernel⟩, ⟨trimming 0 false, trimRun 0 false, false, by decide +kernel⟩, ⟨trimming 1 false, trimRun 1 false, by decide +kernel⟩⟩

theorem witness_GranaryCommandsTaken :
    (∃ (s : State) (a : Acc) (x : Word), s.dev.awake a = true ∧ s.dev.nvTakes a 0 x = true) ∧
    (∃ (s : State) (a : Acc) (x : Word), s.dev.awake a = true ∧ s.dev.nvTakes a 1 x = true ∧ s.dev.rd GRANARY.pg GRANARY.LEN_BYTES ≠ 0) ∧
    (∃ (s : State) (a : Acc) (x : Word), s.dev.awake a = true ∧ s.dev.nvTakes a 2 x = true) ∧
    (∃ (s : State) (a : Acc) (x : Word), s.dev.awake a = true ∧ s.dev.nvTakes a 3 x = true ∧ s.dev.halted = false) ∧
    (∃ (s : State) (a : Acc) (x : Word), s.dev.awake a = true ∧ s.dev.nvTakes a 4 x = true ∧ s.dev.halted = false) ∧
    (∃ (s : State) (a : Acc) (x : Word), s.dev.awake a = true ∧ s.dev.nvTakes a 5 x = true) ∧
    (∃ (s : State) (a : Acc) (x : Word), s.dev.awake a = true ∧ s.dev.nvTakes a 6 x = true ∧ s.dev.rd GRANARY.pg GRANARY.LEN_BYTES ≠ 0) ∧
    (∃ (s : State) (a : Acc) (x : Word), s.dev.awake a = true ∧ s.dev.nvTakes a 6 x = true ∧ s.dev.rd GRANARY.pg GRANARY.LEN_BYTES = 0 ∧ s.dev.halted = false) ∧
    (∃ (s : State) (a : Acc) (x : Word) (c : NvCmd), s.dev.awake a = true ∧ s.dev.mayWrite a.who GRANARY.pg = true ∧ GRANARY.CMD_ABORT.of x = 0 ∧ s.dev.nv.cmd = some c) ∧
    (∃ (s : State) (a : Acc) (x : Word), s.dev.awake a = true ∧ s.dev.mayWrite a.who GRANARY.pg = true ∧ GRANARY.CMD_ABORT.of x = 0 ∧ s.dev.nv.cmd = none ∧ GRANARY.CMD_FUNC.of x ≠ 3 ∧ (s.dev.rd GRANARY.pg GRANARY.DST_GA % 1024 = 0 ∧ s.dev.rd GRANARY.pg GRANARY.DST_GA < hostArea)) ∧
    (∃ (s : State) (a : Acc) (x : Word), s.dev.awake a = true ∧ s.dev.nvTakes a 1 x = true ∧ s.dev.rd GRANARY.pg GRANARY.LEN_BYTES = 0 ∧ s.dev.halted = false) ∧
    (∃ (s : State) (a : Acc) (x : Word), s.dev.awake a = true ∧ s.dev.nvTakes a 3 x = true ∧ s.dev.halted = false) ∧
    (∃ (s : State) (a : Acc) (x : Word), s.dev.awake a = true ∧ s.dev.nvTakes a 4 x = true ∧ s.dev.halted = false) :=
  ⟨⟨nvRegs 4, pf0, 0x100, by decide +kernel⟩, ⟨nvRegs 4, pf0, 0x101, by decide +kernel⟩, ⟨nvRegs 4, pf0, 0x102, by decide +kernel⟩, ⟨nvRegs 4, pf0, 0x103, by decide +kernel⟩, ⟨nvRegs 4, pf0, 0x104, by decide +kernel⟩, ⟨nvRegs 4, pf0, 0x105, by decide +kernel⟩, ⟨nvRegs 4, pf0, 0x106, by decide +kernel⟩, ⟨nvRegs 0, pf0, 0x106, by decide +kernel⟩, ⟨nvRunning (nvCmd_ 0 1 4), pf0, 0, nvCmd_ 0 1 4, by decide +kernel⟩, ⟨upd T0 (fun d => d.wr GRANARY.pg GRANARY.DST_GA 0), pf0, 0x104, by decide +kernel⟩, ⟨nvRegs 0, pf0, 0x101, by decide +kernel⟩, ⟨nvRegs 4, pf0, 0x103, by decide +kernel⟩, ⟨nvRegs 4, pf0, 0x104, by decide +kernel⟩⟩

theorem witness_GranaryCommandsEnd :
    (∃ (s : State) (c : NvCmd), s.dev.nv.cmd = some c ∧ (c.step = 1 ∧ c.op = 0 ∧ c.len ≠ 0) ∧ s.dev.fetched .granary = true ∧ s.dev.halted = false) ∧
    (∃ (s : State), s.dev.nv.cmd = none) ∧
    (∃ (s : State) (c : NvCmd) (pg : Nat) (o : Nat) (b : Byte), s.dev.nv.writers = [⟨0, c.op, [(pg, [(o, b)])]⟩] ∧ s.dev.nv.cmd = some c ∧ o < 256 ∧ s.dev.nv.bad = [] ∧ s.dev.nv.held = []) ∧
    (∃ (s : State) (c : NvCmd), s.dev.nv.cmd = some c ∧ c.op = 5 ∧ s.dev.ctrFresh c.dst = true ∧ s.dev.nv.bad = []) ∧
    (∃ (s : State) (c : NvCmd), s.dev.nv.cmd = some c ∧ c.op = 2 ∧ s.dev.twinValid c.pages (twinCopy c.dst c.pages 0) = true ∧ s.dev.twinValid c.pages (twinCopy c.dst c.pages 1) = false ∧ s.dev.nv.bad = []) ∧
    (∃ (s : State) (c : NvCmd), s.dev.nv.cmd = some c ∧ c.op = 2 ∧ s.dev.twinValid c.pages (twinCopy c.dst c.pages 0) = false ∧ s.dev.twinValid c.pages (twinCopy c.dst c.pages 1) = false ∧ s.dev.nv.bad = []) ∧
    (∃ (s : State) (a : Acc) (c : NvCmd), s.dev.awake a = true ∧ s.dev.mayWrite a.who GRANARY.pg = true ∧ s.dev.nv.cmd = some c ∧ c.step = 1) ∧
    (∃ (s : State) (a : Acc) (c : NvCmd), s.dev.awake a = true ∧ s.dev.mayWrite a.who GRANARY.pg = true ∧ s.dev.nv.cmd = some c ∧ c.step ≠ 1) ∧
    (∃ (s : State) (c : NvCmd), s.dev.nv.cmd = some c ∧ (c.step = 1 ∧ c.len ≠ 0 ∧ (c.op = 0 ∨ c.op = 1 ∨ c.op = 6)) ∧ s.dev.fetched .granary = true ∧ s.dev.halted = false) ∧
    (∃ (s : State) (pg : Nat) (ga : Nat) (w : NvWriter) (ws : List NvWriter) (bs : List (Nat × Byte)), s.dev.nv.writers = w :: ws ∧ w.pages.head? = some (pg, bs) ∧ bs.all (fun e => decide (e.1 < 256)) = true ∧ ga / 256 ≠ pg ∧ s.dev.nv.held = [] ∧ (w.who ≠ 2 ∧ w.who ≠ 9)) ∧
    (∃ (s : State), s.dev.nv.writers = []) ∧
    (∃ (s : State) (pg : Nat) (bs : List (Nat × Byte)) (m : MbCmd), s.dev.nv.writers = [⟨2, 7, [(pg, bs)]⟩] ∧ s.dev.mgmt.cmd = some m ∧ m.op = Mb.FW_CONFIRM) ∧
    (∃ (s : State) (pg : Nat) (bs : List (Nat × Byte)) (m : MbCmd), s.dev.nv.writers = [⟨2, 7, [(pg, bs)]⟩] ∧ s.dev.mgmt.cmd = some m ∧ m.op = Mb.FW_SWITCH) ∧
    (∃ (s : State) (pg : Nat) (bs : List (Nat × Byte)) (m : MbCmd), s.dev.nv.writers = [⟨2, 7, [(pg, bs)]⟩] ∧ s.dev.mgmt.cmd = some m ∧ (m.op = Mb.OWNER_ENROLL ∨ m.op = Mb.OWNER_REPLACE)) ∧
    (∃ (s : State) (c : NvCmd), s.dev.nv.cmd = some c ∧ (c.op = 2 ∨ c.op = 5)) ∧
    (∃ (s : State) (c : NvCmd) (n : Nat), s.dev.nv.cmd = some c ∧ c.op = 5 ∧ s.dev.ctrNewest c.dst = [n] ∧ s.dev.nv.bad = []) :=
  ⟨⟨nvRunning (nvCmd_ 0 1 4), nvCmd_ 0 1 4, by decide +kernel⟩, ⟨T0, by decide +kernel⟩, ⟨upd (nvRunning (nvCmd_ 0 2 4)) (fun d => { d with nv := { d.nv with writers := [⟨0, 0, [(0x14000, [(3, 7)])]⟩] } }), nvCmd_ 0 2 4, 0x14000, 3, 7, by decide +kernel⟩, ⟨nvRunning (nvCmd_ 5 1 0), nvCmd_ 5 1 0, by decide +kernel⟩, ⟨twin_, nvCmd_ 2 1 0, by decide +kernel⟩, ⟨nvRunning (nvCmd_ 2 1 0), nvCmd_ 2 1 0, by decide +kernel⟩, ⟨nvRunning (nvCmd_ 0 1 4), pf0, nvCmd_ 0 1 4, by decide +kernel⟩, ⟨nvRunning (nvCmd_ 0 2 4), pf0, nvCmd_ 0 2 4, by decide +kernel⟩, ⟨nvRunning (nvCmd_ 1 1 4), nvCmd_ 1 1 4, by decide +kernel⟩, ⟨upd T0 (fun d => { d with nv := { d.nv with writers := [⟨3, 7, [(0x200, [(3, 7)]), (0x201, [(4, 8)])]⟩] } }), 0x200, 0, ⟨3, 7, [(0x200, [(3, 7)]), (0x201, [(4, 8)])]⟩, [], [(3, 7)], by decide +kernel⟩, ⟨T0, by decide +kernel⟩, ⟨upd (mbRunning (mb_ 4 2)) (fun d => { d with nv := { d.nv with writers := [⟨2, 7, [(0x14000, [(3, 7)])]⟩] } }), 0x14000, [(3, 7)], mb_ 4 2, by decide +kernel⟩, ⟨upd (mbRunning (mb_ 3 2)) (fun d => { d with nv := { d.nv with writers := [⟨2, 7, [(0x14000, [(3, 7)])]⟩] } }), 0x14000, [(3, 7)], mb_ 3 2, by decide +kernel⟩, ⟨upd (mbRunning (mb_ 5 2)) (fun d => { d with nv := { d.nv with writers := [⟨2, 7, [(0x14000, [(3, 7)])]⟩] } }), 0x14000, [(3, 7)], mb_ 5 2, by decide +kernel⟩, ⟨nvRunning (nvCmd_ 5 1 0), nvCmd_ 5 1 0, by decide +kernel⟩, ⟨upd (nvRunning (nvCmd_ 5 1 0)) (fun d => (ctrSlot hostArea 0 3 9).foldl (fun d q => q.2.foldl (fun d e => d.nvPut (256 * q.1 + e.1) e.2) d) d), nvCmd_ 5 1 0, 0, by decide +kernel⟩⟩

theorem witness_MailboxCommandsTaken :
    (∃ (s : State) (a : Acc) (x : Word), s.dev.awake a = true ∧ s.dev.mbTakes a Mb.FW_WRITE x = true) ∧
    (∃ (s : State) (a : Acc) (x : Word), s.dev.awake a = true ∧ s.dev.mbTakes a Mb.FW_VERIFY x = true) ∧
    (∃ (s : State) (a : Acc) (x : Word), s.dev.awake a = true ∧ s.dev.mbTakes a Mb.FW_SWITCH x = true) ∧
    (∃ (s : State) (a : Acc) (x : Word), s.dev.awake a = true ∧ s.dev.mbTakes a Mb.FW_CONFIRM x = true ∧ s.dev.ctrFresh rollbackGa = true ∧ s.dev.twinValid 1 (twinCopy bootRecGa 1 0) = false ∧ s.dev.twinValid 1 (twinCopy bootRecGa 1 1) = false ∧ s.dev.halted = false) ∧
    (∃ (s : State) (a : Acc) (x : Word), s.dev.awake a = true ∧ s.dev.mbTakes a Mb.OWNER_ENROLL x = true) ∧
    (∃ (s : State) (a : Acc) (x : Word), s.dev.awake a = true ∧ s.dev.mbTakes a Mb.OWNER_REPLACE x = true) ∧
    (∃ (s : State) (a : Acc) (x : Word), s.dev.awake a = true ∧ s.dev.mbTakes a Mb.IDENTITY x = true) ∧
    (∃ (s : State) (a : Acc) (x : Word), s.dev.awake a = true ∧ s.dev.mbTakes a Mb.ATTEST x = true) ∧
    (∃ (s : State) (a : Acc) (x : Word) (c : MbCmd), s.dev.awake a = true ∧ s.dev.mayWrite a.who MGMT.pg = true ∧ MGMT.MB_CMD_ABORT.of x = 0 ∧ s.dev.mgmt.cmd = some c) ∧
    (∃ (s : State) (a : Acc) (x : Word), s.dev.awake a = true ∧ s.dev.mayWrite a.who MGMT.pg = true ∧ MGMT.MB_CMD_ABORT.of x = 0 ∧ s.dev.mgmt.cmd = none ∧ MGMT.MB_CMD_FUNC.of x ≠ 3 ∧ a.who ≠ .pf0 ∧ s.dev.rd MGMT.pg MGMT.MB_ARG 0 < 2) ∧
    (∃ (s : State) (a : Acc) (c : MbCmd), s.dev.awake a = true ∧ s.dev.mayWrite a.who MGMT.pg = true ∧ s.dev.mgmt.cmd = some c ∧ c.step = 1 ∧ s.dev.writing 2 = false) ∧
    (∃ (s : State) (a : Acc) (c : MbCmd), s.dev.awake a = true ∧ s.dev.mayWrite a.who MGMT.pg = true ∧ s.dev.mgmt.cmd = some c ∧ (c.step = 2 ∧ c.op = Mb.FW_WRITE)) ∧
    (∃ (s : State) (a : Acc) (x : Word), s.dev.awake a = true ∧ s.dev.mbTakes a Mb.FW_CONFIRM x = true ∧ s.dev.halted = false) :=
  ⟨⟨mbRegs 1 64, pf0, 0x101, by decide +kernel⟩, ⟨mbRegs 1 64, pf0, 0x102, by decide +kernel⟩, ⟨mbRegs 1 64, pf0, 0x103, by decide +kernel⟩, ⟨upd (mbRegs 1 64) (fun d => d.wr MGMT.pg MGMT.FW_STAT_TRIAL 1), pf0, 0x104, by decide +kernel⟩, ⟨mbRegs 1 64, pf0, 0x105, by decide +kernel⟩, ⟨mbRegs 1 7219, pf0, 0x106, by decide +kernel⟩, ⟨mbRegs 1 8000, pf0, 0x107, by decide +kernel⟩, ⟨mbRegs 1 8000, pf0, 0x108, by decide +kernel⟩, ⟨mbRunning (mb_ 2 1), pf0, 0, mb_ 2 1, by decide +kernel⟩, ⟨T0, ⟨.filpor, [], false⟩, 0, by decide +kernel⟩, ⟨mbRunning (mb_ 2 1), pf0, mb_ 2 1, by decide +kernel⟩, ⟨mbRunning (mb_ 1 2), pf0, mb_ 1 2, by decide +kernel⟩, ⟨upd (mbRegs 1 64) (fun d => d.wr MGMT.pg MGMT.FW_STAT_TRIAL 1), pf0, 0x104, by decide +kernel⟩⟩

theorem witness_FilporRestarts :
    (∃ (s : State) (c : MbCmd), s.dev.mgmt.cmd = some c ∧ (c.op = Mb.FW_VERIFY ∧ c.step = 1 ∧ c.arg0 < 2)) ∧
    (∃ (s : State) (c : MbCmd), s.dev.mgmt.cmd = some c ∧ (c.op = Mb.IDENTITY ∧ c.step = 1) ∧ s.dev.master c.fn = true) ∧
    (∃ (s : State), s.dev.rd MGMT.pg HDR.PG_STAT_STATE ≠ 3) ∧
    (∃ (s : State), s.dev.rd MGMT.pg HDR.PG_STAT_STATE = 3 ∧ s.dev.mgmt.switching = false) ∧
    (∃ (s : State) (c : MbCmd), s.dev.rd MGMT.pg HDR.PG_STAT_STATE = 3 ∧ s.dev.mgmt.switching = true ∧ s.dev.mgmt.cmd = some c ∧ c.arg0 < 2) ∧
    (∃ (s : State), s.dev.mgmt.cmd = none ∧ s.dev.mgmt.switching = false ∧ s.dev.frozen FAULT.pg = false) ∧
    (∃ (s : State) (c : MbCmd), s.dev.mgmt.cmd = some c ∧ (c.op = Mb.FW_SWITCH ∧ c.step = 1) ∧ s.dev.writing 2 = false ∧ s.dev.halted = false) ∧
    (∃ (s : State) (c : MbCmd), s.dev.mgmt.cmd = some c ∧ (c.op = Mb.ATTEST ∧ c.step = 1) ∧ s.dev.fetched .mailbox = true ∧ s.dev.master c.fn = true) ∧
    (∃ (s : State), s.dev.frozen FAULT.pg = false) ∧
    (∃ (s : State) (c : MbCmd), s.dev.mgmt.cmd = some c ∧ c.step = 1 ∧ s.dev.writing 2 = false) :=
  ⟨⟨mbRunning (mb_ 2 1), mb_ 2 1, by decide +kernel⟩, ⟨upd (mbRunning (mb_ 7 1)) (fun d => d.setFn 0 { d.fn 0 with bme := true }), mb_ 7 1, by decide +kernel⟩, ⟨T0, by decide +kernel⟩, ⟨upd T0 fun d => d.wr MGMT.pg HDR.PG_STAT_STATE 3, by decide +kernel⟩, ⟨upd (mbRunning (mb_ 3 3)) (fun d => { d.wr MGMT.pg HDR.PG_STAT_STATE 3 with mgmt := { d.mgmt with switching := true } }), mb_ 3 3, by decide +kernel⟩, ⟨T0, by decide +kernel⟩, ⟨mbRunning (mb_ 3 1), mb_ 3 1, by decide +kernel⟩, ⟨upd (mbRunning (mb_ 8 1)) (fun d => d.setFn 0 { d.fn 0 with bme := true }), mb_ 8 1, by decide +kernel⟩, ⟨mbRunning (mb_ 2 1), by decide +kernel⟩, ⟨mbRunning (mb_ 2 1), mb_ 2 1, by decide +kernel⟩⟩

theorem witness_RecoveryAndLogs :
    (∃ (s : State) (u : Repair), (s.dev.repair.tiles.find? fun t => t.phase == 0) = some u ∧ s.dev.mode.part = true) ∧
    (∃ (s : State) (u : Repair), (s.dev.repair.tiles.find? fun t => t.phase == 0) = some u ∧ s.dev.mode.part = false ∧ mget (fun _ => false) s.dev.couch.composedSince (s.dev.mode.slotOfImg u.img) = true) ∧
    (∃ (s : State), (s.dev.repair.tiles.any fun t => t.phase == 0) = false) ∧
    (∃ (s : State) (u : Repair), (s.dev.repair.tiles.find? fun t => t.phase == 1 && t.rows != []) = some u ∧ s.dev.auxNat (statsBase u.img + 0x1000 + 4 * (u.row * ceilDiv s.dev.mode.w 256 + u.col)) 4 = tileCrc (u.rows.flatMap id) ∧ s.dev.copying = none ∧ s.dev.scan.run = false) ∧
    (∃ (s : State) (u : Repair), (s.dev.repair.tiles.find? fun t => t.phase == 2) = some u ∧ s.dev.frozen FAULT.pg = false) ∧
    (∃ (s : State) (k : Fin 12), bit s.dev.oos k.val = false ∧ s.dev.couch.pass = none ∧ s.dev.scan.run = true) ∧
    (∃ (s : State) (k : Fin 12), bit s.dev.oos k.val = true) ∧
    (∃ (s : State) (k : Fin 12) (p : Pass), bit s.dev.oos k.val = false ∧ s.dev.couch.pass = some p ∧ s.dev.scan.run = true ∧ s.dev.layerOfMould p.vals k.val = none) ∧
    (∃ (s : State), s.dev.couch.pass = none) ∧
    (∃ (s : State) (a : Acc), s.dev.awake a = true ∧ s.dev.mayWrite a.who FAULT.pg = true) ∧
    (∃ (s : State) (k : Fin 12), bit s.dev.repair.testing k.val = true ∧ s.dev.scan.run = true) ∧
    (∃ (s : State) (k : Fin 12), bit s.dev.repair.testing k.val = true ∧ s.dev.scan.run = false) ∧
    (∃ (s : State) (k : Fin 12), bit s.dev.repair.testing k.val = true) ∧
    (∃ (s : State) (a : Acc) (x : Word), s.dev.awake a = true ∧ s.dev.mayWrite a.who FAULT.pg = true ∧ (s.dev.flt.wr + 2 ^ 32 - x.toNat) % 2 ^ 32 ≤ 16) ∧
    (∃ (s : State) (a : Acc) (x : Word), s.dev.awake a = true ∧ s.dev.mayWrite a.who FAULT.pg = true ∧ 16 < (s.dev.flt.wr + 2 ^ 32 - x.toNat) % 2 ^ 32) ∧
    (∃ (s : State) (a : Acc) (x : Word), s.dev.awake a = true ∧ s.dev.mayWrite a.who FAULT.pg = true ∧ (s.dev.flt.viol + 2 ^ 32 - x.toNat) % 2 ^ 32 ≤ 32) ∧
    (∃ (s : State) (n : Nat) (l : List Nat), s.dev.flt.toAppend = n :: l ∧ s.dev.inRing n = true ∧ s.dev.filporRuns = true ∧ s.dev.writing 3 = false) ∧
    (∃ (s : State) (n : Nat) (l : List Nat), s.dev.flt.toAppend = n :: l ∧ s.dev.inRing n = false) ∧
    (∃ (s : State), s.dev.flt.toAppend.all s.dev.inRing = true ∧ (s.dev.flt.toAppend = [] ∨ s.dev.filporRuns = false ∨ s.dev.writing 3 = true)) ∧
    (∃ (s : State), s.dev.filporRuns = true ∧ s.dev.writing 4 = false) ∧
    (∃ (s : State), (s.dev.filporRuns = false ∨ s.dev.writing 4 = true)) ∧
    (∃ (s : State) (k : Fin 12), bit s.dev.oos k.val = false) ∧
    (∃ (s : State) (k : Fin 12), bit s.dev.oos k.val = false ∧ s.dev.couch.pass.isSome = true) ∧
    (∃ (s : State) (u : Repair), (s.dev.repair.tiles.find? fun t => t.phase == 0) = some u ∧ s.dev.mode.part = false ∧ mget (fun _ => false) s.dev.couch.composedSince (s.dev.mode.slotOfImg u.img) = false ∧ s.dev.onPll 3 = true) ∧
    (∃ (s : State) (c : NvCmd), s.dev.nv.cmd = some c ∧ (c.step = 1 ∧ c.op = 0 ∧ c.len ≠ 0) ∧ s.dev.fetched .granary = true) ∧
    (∃ (s : State) (pg : Nat) (o : Nat) (b : Byte), s.dev.nv.writers = [⟨3, 7, [(pg, [(o, b)])]⟩] ∧ o < 256 ∧ s.dev.nv.bad = [] ∧ s.dev.nv.held = []) ∧
    (∃ (s : State) (c : NvCmd), s.dev.nv.cmd = some c ∧ (c.op = 2 ∨ c.op = 5)) ∧
    (∃ (s : State) (a : Acc) (c : NvCmd), s.dev.awake a = true ∧ s.dev.mayWrite a.who GRANARY.pg = true ∧ s.dev.nv.cmd = some c ∧ c.step = 1) :=
  ⟨⟨upd (repairing (repair_ 0 [])) (fun d => d.wr SCAN.pg SCAN.MODE_SEL_PARTIAL 1), repair_ 0 [], by decide +kernel⟩, ⟨upd (repairing (repair_ 0 [])) (fun d => { d with couch := { d.couch with composedSince := [(0, true)] } }), repair_ 0 [], by decide +kernel⟩, ⟨T0, by decide +kernel⟩, ⟨repairing (repair_ 1 [[878011562]]), repair_ 1 [[878011562]], by decide +kernel⟩, ⟨repairing (repair_ 2 []), repair_ 2 [], by decide +kernel⟩, ⟨running, 0, by decide +kernel⟩, ⟨upd T0 fun d => d.wr REEVE.pg REEVE.OUT_OF_SERVICE_MOULDS 1, 0, by decide +kernel⟩, ⟨upd running (fun d => { d with couch := { d.couch with pass := some { waitPass with vals := [] } } }), 0, { waitPass with vals := [] }, by decide +kernel⟩, ⟨T0, by decide +kernel⟩, ⟨T0, pf0, by decide +kernel⟩, ⟨upd running fun d => { d with repair := { d.repair with testing := 1 } }, 0, by decide +kernel⟩, ⟨upd T0 fun d => { d.wr REEVE.pg REEVE.OUT_OF_SERVICE_MOULDS 1 with repair := { d.repair with testing := 1 } }, 0, by decide +kernel⟩, ⟨upd T0 fun d => { d with repair := { d.repair with testing := 1 } }, 0, by decide +kernel⟩, ⟨T0, pf0, 0, by decide +kernel⟩, ⟨T0, pf0, 5, by decide +kernel⟩, ⟨T0, pf0, 0, by decide +kernel⟩, ⟨upd T0 (fun d => { d with flt := { d.flt with wr := 1, toAppend := [0] } }), 0, [], by decide +kernel⟩, ⟨upd T0 (fun d => { d with flt := { d.flt with wr := 17, toAppend := [0] } }), 0, [], by decide +kernel⟩, ⟨T0, by decide +kernel⟩, ⟨upd T0 fun d => { d with flt := { d.flt with lifeIntNs := 5000001 } }, by decide +kernel⟩, ⟨upd T0 fun d => d.wr MGMT.pg HDR.PG_STAT_STATE 2, by decide +kernel⟩, ⟨upd T0 (fun d => { d with couch := { d.couch with pass := some waitPass } }), 0, by decide +kernel⟩, ⟨upd T0 (fun d => { d with couch := { d.couch with pass := some waitPass } }), 0, by decide +kernel⟩, ⟨upd (repairing (repair_ 0 [])) (fun d => d.setDom 3 4), repair_ 0 [], by decide +kernel⟩, ⟨nvRunning (nvCmd_ 0 1 4), nvCmd_ 0 1 4, by decide +kernel⟩, ⟨upd T0 (fun d => { d with nv := { d.nv with writers := [⟨3, 7, [(0x14000, [(3, 7)])]⟩] } }), 0x14000, 3, 7, by decide +kernel⟩, ⟨nvRunning (nvCmd_ 5 1 0), nvCmd_ 5 1 0, by decide +kernel⟩, ⟨nvRunning (nvCmd_ 0 1 4), pf0, nvCmd_ 0 1 4, by decide +kernel⟩⟩

theorem witness_AliasLeavesOtherTypes :
    (∃ (s : State) (a : Acc), s.dev.queues a = false) ∧
    (∃ (s : State) (a : Acc), s.dev.queues a = false) ∧
    (∃ (s : State) (a : Acc) (pg : Fin 64) (off : Nat), s.settled = true ∧ s.dev.awake a = true ∧ s.dev.mayWrite a.who pg.val = true ∧ off < 0x1000 ∧ off % 4 = 0) ∧
    (∃ (s : State) (a : Acc) (pg : Fin 64) (off : Nat), s.settled = true ∧ s.dev.awake a = true ∧ s.dev.mayWrite a.who pg.val = true ∧ off < 0x1000 ∧ off % 4 = 0) ∧
    (∃ (s : State) (a : Acc), s.dev.queues a = true) ∧
    (∃ (s : State) (a : Acc), s.dev.queues a = true) :=
  ⟨⟨T0, pf0, by decide +kernel⟩, ⟨T0, pf0, by decide +kernel⟩, ⟨T0, pf0, 0x18, 0x44, by decide +kernel⟩, ⟨T0, pf0, 0x18, 0x44, by decide +kernel⟩, ⟨queued, pf0, by decide +kernel⟩, ⟨queued, pf0, by decide +kernel⟩⟩

theorem witness_LineMatchRaises :
    (∃ (s : State) (y : Nat), s.dev.scan.run = true ∧ s.dev.scan.starting = false ∧ nextLine s.dev.mode (s.dev.rd SCAN.pg SCAN.POS_LINE) = some y) ∧
    (∃ (s : State), s.dev.scan.run = true ∧ s.dev.scan.starting = false ∧ s.dev.scan.entering = false ∧ s.dev.scan.exiting = false ∧ s.dev.on SCAN.pg SCAN.CTL_RUN = true) ∧
    (∃ (s : State) (sl : Fin 4), s.dev.scan.run = true ∧ s.dev.scan.starting = false ∧ 1 ≤ sl.val ∧ sl.val < s.dev.mode.s) ∧
    (∃ (s : State), s.dev.rd SCAN.pg SCAN.POS_LINE < s.dev.mode.h + s.dev.mode.vb ∧ s.dev.slotNo < s.dev.mode.s ∧ (s.dev.mode.h + s.dev.mode.vb ≤ s.dev.rd SCAN.pg SCAN.LINE_MATCH_LINE ∨ s.dev.mode.s ≤ s.dev.rd SCAN.pg SCAN.LINE_MATCH_SLOT)) :=
  ⟨⟨following, 6, by decide +kernel⟩, ⟨running, by decide +kernel⟩, ⟨upd running (fun d => d.wr SCAN.pg SCAN.MODE_SEL_SLOTS 1), 1, by decide +kernel⟩, ⟨upd running fun d => d.wr SCAN.pg SCAN.LINE_MATCH_SLOT 3, by decide +kernel⟩⟩

theorem witness_Xt32FailsOver :
    (∃ (s : State), s.settled = true ∧ s.dev.on CLOCK.pg CLOCK.OSC_STAT_XT32_OK = true) :=
  ⟨T0, by decide +kernel⟩

theorem witness_CommitOutsideGroups :
    (∃ (s : State) (a : Acc) (pg : Fin 64), s.dev.awake a = true ∧ s.dev.mayWrite a.who pg.val = true ∧ pageGroup pg.val = none ∧ pg.val < 0x28) :=
  ⟨T0, pf0, 1, by decide +kernel⟩

theorem witness_BanksIsolated :
    (∃ (s : State) (f : Fin 3) (da : Nat) (y : Nat) (data : List (Option Byte)), s.dev.takes (Req.ofFn f) = true ∧ s.dev.owner (bankOf y) ≠ f.val + 1 ∧ da % 4096 + data.length ≤ 4096 ∧ s.dev.itemOf (bankOf (da % 2 ^ 30)) = none ∧ s.dev.bank.spareDue.all (fun b => s.dev.sparing || s.dev.bankState b != 5) = true) ∧
    (∃ (s : State) (f : Fin 3) (da : Nat) (y : Nat) (data : List (Option Byte)), s.dev.takes (Req.ofFn f) = true ∧ s.dev.owner (bankOf y) ≠ f.val + 1 ∧ da % 4096 + data.length ≤ 4096 ∧ s.dev.itemOf (bankOf (da % 2 ^ 30)) = none ∧ s.dev.bank.spareDue.all (fun b => s.dev.sparing || s.dev.bankState b != 5) = true) ∧
    (∃ (s : State) (f : Fin 3) (da : Nat) (y : Nat) (data : List (Option Byte)), s.dev.takes (Req.ofFn f) = true ∧ s.dev.owner (bankOf y) ≠ f.val + 1 ∧ da % 4096 + data.length ≤ 4096 ∧ s.dev.itemOf (bankOf (da % 2 ^ 30)) = none ∧ s.dev.bank.spareDue.all (fun b => s.dev.sparing || s.dev.bankState b != 5) = true) :=
  ⟨⟨T0, 0, 64, 70, [], by decide +kernel⟩, ⟨T0, 0, 64, 70, [], by decide +kernel⟩, ⟨T0, 0, 64, 70, [], by decide +kernel⟩⟩


theorem witness_IdleStepTicks :
    (∃ d : Dev, d.host.later = [] ∧ d.mtestOn = false ∧ d.tm.run = false) ∧
    (∃ d : Dev, d.host.later = [] ∧ d.mtestOn = false ∧ d.tm.run = true ∧ d.tm.slew = 0 ∧ d.tm.frac < 50) ∧
    (∃ (d : Dev) (c : Instr) (cs : List Instr) (t : State),
      d.host.later = c :: cs ∧ d.servable = true ∧ exec c ⟨[], d.serveOn⟩ = .next t) :=
  ⟨⟨Dev.reset, by decide +kernel⟩, ⟨{ Dev.reset with tm := ⟨0, 49, true, 0, 0⟩ }, by decide +kernel⟩,
    ⟨queued.dev, .devtimeRead pf0, [], _, rfl, by decide +kernel, rfl⟩⟩

theorem witness_SettledKept : ∃ s t : State, s.settled = true ∧ step s = .next t := ⟨State.reset, _, by decide +kernel, rfl⟩

theorem witness_MemoriesStayCanonical :
    ∃ s t : State, (memWf s.dev.bank.mem = true ∧ nvWf s.dev.nv.mem = true) ∧ step s = .next t :=
  ⟨State.reset, _, by decide +kernel, rfl⟩

theorem witness_DeviceTimeNeverFalls :
    ∃ s t : State, (∀ b, s.front ≠ some (.powerOnReset b)) ∧ (∀ n b, s.front ≠ some (.porNReset n b)) ∧
      s.front ≠ some (.supplyRemoved .vao) ∧ step s = .next t :=
  ⟨⟨[.xtalStable], Dev.reset⟩, _, by simp [State.front], by simp [State.front], by simp [State.front], rfl⟩

end Sys2Proof.Tests
end

section
/-! SUPPORT and PROOFS of the statements about the register map as a whole (00_scope). Each refutation names a state of the model
and a command of Filpor's, and evaluates what the model makes of them. -/

namespace Sys2Proof.Machine

/-! ### From a command to its body -/

/-- What is said of a command whose body is f is said of the settled outcome of f. -/
theorem Ran.settled_body {c : Instr} {s : State} {f : Dev → Dev} {P : Dev → Prop} (hr : Ran c s P) (he : exec c s = finish f s) :
    P (Dev.settle s.dev (f s.dev)) := by
  obtain ⟨t, ht, -, hp⟩ := hr
  rw [he, finish_next] at ht
  cases ht
  exact hp

theorem exec_registerWrite {s : State} {a : Acc} (h : s.dev.awake a = true) (addr len : Nat) (xs : List (Option Byte)) :
    exec (.registerWrite a addr len xs) s = finish (fun d => d.bar0Write a addr len xs) s := hostWrite_takes h _ _

theorem exec_setAliasWrite {s : State} {a : Acc} (h : s.dev.awake a = true) (pg : Fin 64) (off : Nat) (x : Word) :
    exec (.setAliasWrite a pg off x) s =
      finish (fun d => d.viewWords a 1 pg.val (off / 4 * 4 % 0x1000) [wordBytes x]) s := hostWrite_takes h _ _

theorem exec_rcRead {s : State} {a : Acc} (h : s.dev.awake a = true) (addr len : Nat) :
    exec (.rcRead a addr len) s = finish (fun d => d.bar0Read a addr len) s := by
  show hostRead _ _ _ _ = _
  simp only [hostRead, finish, Dev.hostDo_takes h]

/-- An access of Filpor's. -/
def filporAcc : Acc := ⟨.filpor, [], false⟩

/-- It is performed at once in every state, being no host request (R71). -/
theorem awake_filporAcc (d : Dev) : d.awake filporAcc = true := rfl

/-! ### Parts of the device that every frame fixes -/

theorem Dev.Rest.froze_eq {b d : Dev} (h : Dev.Rest b d) : d.froze = b.froze := by rw [h.1]

theorem Dev.Rest.free_eq {b d : Dev} (h : Dev.Rest b d) : d.free = b.free := by rw [h.1]

/-- A frame over what settling follows holds of the counts that FREEZE keeps for the reader in the body itself. -/
theorem Dev.Only.body_froze {ks : List Nat} {evs : List (Nat × Nat)} {b d0 d : Dev} (h : Dev.Only ks evs b (Dev.settle d0 d)) :
    d.froze = b.froze := (settle_rest d0 d).froze_eq.symm.trans h.1.1.froze_eq

/-- The same of the counter of free choices. -/
theorem Dev.Only.body_free {ks : List Nat} {evs : List (Nat × Nat)} {b d0 d : Dev} (h : Dev.Only ks evs b (Dev.settle d0 d)) :
    d.free = b.free := (settle_rest d0 d).free_eq.symm.trans h.1.1.free_eq

/-! ### PG_CTL.FREEZE holds the counters (R49) -/

/-- After reset, and one rectangle has ended: RECTQ.DONE_CNT reads 1. -/
def oneRectDone : State := ⟨[], Dev.reset.putWord RECTQ.pg 0x05C 1⟩

/-- A plain write of FREEZE to RECTQ's PG_CTL keeps the count for the reader. -/
theorem bar0Write_freeze_holds_count :
    (oneRectDone.dev.bar0Write filporAcc (RECTQ.pg * 0x4000 + 0x004) 4 (wordBytes 4)).froze = [(rkey RECTQ.pg 0x05C, 1)] := by
  decide +kernel

/-- So does SET_ALIAS_WRITE. -/
theorem setAlias_freeze_holds_count :
    (oneRectDone.dev.viewWords filporAcc 1 RECTQ.pg (0x004 / 4 * 4 % 0x1000) [wordBytes 4]).froze = [(rkey RECTQ.pg 0x05C, 1)] := by
  decide +kernel

/-- Refutes O1: the first clause has a plain write of PG_CTL change the register alone, and on a page with counters of its own a
write of FREEZE also keeps their values for the reader (R49). RECTQ shows it once a rectangle has been counted. -/
theorem not_registerWriteStores : ¬ Obligations.RegisterWriteStores := by
  unfold Obligations.RegisterWriteStores
  intro h
  have awake := awake_filporAcc oneRectDone.dev
  obtain ⟨-, -, -, frame⟩ :=
    ((h oneRectDone filporAcc RECTQ.pg 0x004 4 0 0 0 []).1 awake rfl (by decide +kernel)).settled_body (exec_registerWrite awake _ _ _)
  exact absurd (frame.body_froze.symm.trans bar0Write_freeze_holds_count) (List.cons_ne_nil _ _).symm

/-- Refutes O3: SET_ALIAS_WRITE of PG_CTL.FREEZE changes more than the bit, as the plain write does. -/
theorem not_aliasWritesChangeBits : ¬ Obligations.AliasWritesChangeBits := by
  unfold Obligations.AliasWritesChangeBits
  intro h
  have awake := awake_filporAcc oneRectDone.dev
  obtain ⟨-, -, -, frame⟩ :=
    ((h oneRectDone filporAcc 0x17 0x004 4).1 awake rfl (by decide +kernel)).settled_body (exec_setAliasWrite awake _ _ _)
  exact absurd (frame.body_froze.symm.trans setAlias_freeze_holds_count) (List.cons_ne_nil _ _).symm

/-! ### A read looks at an operation in progress -/

/-- After reset, and port A's link is in training. -/
def training : State := ⟨[], Dev.reset.setTdl 0 { Dev.reset.tdlSt 0 with train := 1 }⟩

/-- A read of TRAIN_STAT draws the phase that the training has reached (log entry 3). -/
theorem bar0Read_trainStat_draws : (training.dev.bar0Read filporAcc ((TDL.pg 0) * 0x4000 + 0x050) 4).free = 1 := by
  decide +kernel

/-- Refutes O4: by its first clause a read leaves all but the RC fields as it was, and a read of TRAIN_STAT while a training
runs looks at the training: the phase it has reached is drawn anew, which uses up a free choice, and the frame holds the counter of
free choices fixed. -/
theorem not_readsReplyAndClear : ¬ Obligations.ReadsReplyAndClear := by
  unfold Obligations.ReadsReplyAndClear
  intro h
  have awake := awake_filporAcc training.dev
  obtain ⟨-, -, frame⟩ :=
    ((h training filporAcc (TDL.pg 0) 0x050 0 0).1 (by decide +kernel) awake (by decide) (by decide) (by decide) (by decide) (by decide)
      (by decide)).settled_body (exec_rcRead awake _ _)
  exact absurd (frame.body_free.symm.trans bar0Read_trainStat_draws) Nat.zero_ne_one

/-! ### SET_ALIAS_WRITE at an offset within a register -/

/-- SET_ALIAS_WRITE at byte offset 0x049 reaches the register that holds the byte, ALARM_LO at 0x048. -/
theorem setAlias_within_alarm_stores :
    (Dev.reset.viewWords filporAcc 1 AOBB.pg (0x049 / 4 * 4 % 0x1000) [wordBytes 1]).word AOBB.pg 0x048 = 1 := by
  decide +kernel

/-- At the byte offset itself the table has no field, so that no bit of the data is left there. -/
theorem setAlias_within_alarm_masked :
    (Dev.reset.viewWords filporAcc 1 AOBB.pg (0x049 / 4 * 4 % 0x1000)
      [wordBytes (1 &&& typeMask [.rw, .rws] AOBB.pg (0x049 % 0x1000))]).word AOBB.pg 0x048 = 0 := by
  decide +kernel

theorem untouched_alarm : Untouched (rkey AOBB.pg 0x048) :=
  ⟨by decide, fun _ => rkey_ne_off (by decide) (by decide) (by decide)⟩

/-- Commands that answer alike settle alike. -/
theorem settle_eq_of_finish {f g : Dev → Dev} {s : State} (h : finish f s = finish g s) :
    Dev.settle s.dev (f s.dev) = Dev.settle s.dev (g s.dev) := by
  rw [finish_next, finish_next, Host.Outcome.next.injEq] at h
  exact congrArg State.dev h

/-- Refutes O49: its first clause takes the RW and RWS fields at the operand's own byte offset, and the write addresses the
register that holds that byte (R48). At 0x049 no field stands, so that the data with the other bits 0 is 0, and the write sets bit 0 of
ALARM_LO all the same. -/
theorem not_aliasLeavesOtherTypes : ¬ Obligations.AliasLeavesOtherTypes := by
  unfold Obligations.AliasLeavesOtherTypes
  intro h
  have awake := awake_filporAcc State.reset.dev
  have same := (h State.reset filporAcc 3 0x049 1).1 rfl
  rw [exec_setAliasWrite awake, exec_setAliasWrite awake] at same
  have alarm := congrArg (fun d : Dev => d.word AOBB.pg 0x048) (settle_eq_of_finish same)
  simp only [Dev.word_eq, settle_word _ _ untouched_alarm (.inr (by decide))] at alarm
  exact absurd (setAlias_within_alarm_stores.symm.trans (alarm.trans setAlias_within_alarm_masked)) (by decide)

/-! ### The state after reset -/

/-- Settles O60: the memories are in canonical form by the law of the reset state, the rest is read off it. -/
theorem resetHolds : Obligations.ResetHolds := by
  unfold Obligations.ResetHolds
  obtain ⟨bankWf, granaryWf⟩ := Memory.wf_reset
  have settled : State.reset.settled = true := by decide +kernel
  have noImage : ∀ k : Fin 8, State.reset.dev.imgState k.val = 0 := by decide +kernel
  have deviceId : State.reset.dev.word IDENT.pg 0x040 = 0x1F5C8640 := by decide +kernel
  have revision : State.reset.dev.word IDENT.pg 0x044 = 0x00020000 := by decide +kernel
  exact ⟨rfl, settled, bankWf, granaryWf, deviceId, revision, rfl, rfl, rfl, noImage⟩

end Sys2Proof.Machine
end

section
/-! SUPPORT and PROOFS of the statements on the queue, the frame and slot starts, the line fetch, and curves and plans (01_architecture). -/

namespace Sys2Proof.Machine

/-- Settles O54: the front of the queue is what a step takes. -/
theorem queueInOrder : Obligations.QueueInOrder := by
  unfold Obligations.QueueInOrder
  intro c s
  rfl

/-! ### A frame FLE commits a trim result -/

/-- The raster runs with port A following, and the result of a forced VREF run on VREF 0 waits for a frame FLE (R354). -/
def vrefResultWaits : State := ⟨[], {
  ((((Dev.reset.wr SCAN.pg SCAN.CTL_RUN 1).wr SCAN.pg SCAN.CTL_PORT_A 1).wr SCAN.pg HDR.PG_CTL_ENABLE 1).setDom 4 4).setPortState 0 1 with
  scan := { Dev.reset.scan with run := true }
  trim := { Dev.reset.trim with
    run := some ⟨1, 0, 0, true, false, true, [PANEL.VREF_TRIM.result (PANEL.pg 0) 130], []⟩ } }⟩

/-- The commit point writes VREF_TRIM, an RWS field, in the shadow as well. -/
theorem frameFle_writes_shadow : (vrefResultWaits.dev.frameFle 0 [] []).sh ≠ vrefResultWaits.dev.sh := by decide +kernel

/-- The shadow values after a command are those its body left. -/
theorem settle_sh (d0 d : Dev) : (Dev.settle d0 d).sh = d.sh := by rw [(settle_rest d0 d).1]

/-- Refutes O28: its first clause has every frame FLE leave the shadow values alone, and a frame FLE is the commit point of a trim
result too, which an RWS target takes in its shadow value besides, so that no later commit undoes it (R354). -/
theorem not_frameStarts : ¬ Obligations.FrameStarts := by
  unfold Obligations.FrameStarts
  intro h
  obtain ⟨-, -, -, -, -, shadow, -⟩ :=
    ((h vrefResultWaits 0 [] [] 0 0 0).1 (.inl rfl) rfl).settled_body (f := fun d => d.frameFle 0 [] []) rfl
  exact frameFle_writes_shadow ((settle_sh _ _).symm.trans shadow)

/-! ### What a log entry leaves as it was -/

/-- A register outside the Fault unit that no event and no request writes. -/
def Unlogged (k : Nat) : Prop := k ∉ raiseKeys ∧ k ≠ linkKey ∧ (∀ p, k ≠ rkey p 0x014) ∧ onPage FAULT.pg k = false

/-- From b to d only logs are written: registers, but no unlogged one, the Fault unit's indexes, requests and the free values taken. -/
structure Dev.Noted (b d : Dev) : Prop where
  rest : d = { b with regs := d.regs, host := d.host, flt := d.flt, free := d.free }
  word : ∀ k, Unlogged k → d.regs.word k = b.regs.word k

theorem Dev.Noted.refl (d : Dev) : Dev.Noted d d := ⟨rfl, fun _ _ => rfl⟩

theorem Dev.Noted.trans {b d e : Dev} (h1 : Dev.Noted b d) (h2 : Dev.Noted d e) : Dev.Noted b e := by
  refine ⟨?_, fun k hk => (h2.word k hk).trans (h1.word k hk)⟩
  have e2 := h2.rest
  rw [h1.rest] at e2
  exact e2

theorem Dev.Noted.foldl {α : Type} (f : Dev → α → Dev) (l : List α) (h : ∀ d, ∀ x ∈ l, Dev.Noted d (f d x)) (d : Dev) :
    Dev.Noted d (l.foldl f d) := by
  induction l generalizing d with
  | nil => exact .refl d
  | cons x l ih => exact (h d x List.mem_cons_self).trans (ih (fun d y hy => h d y (List.mem_cons_of_mem x hy)) _)

/-- A register of the FAULT page is written. -/
theorem Dev.Noted.put (d : Dev) (q : Nat) (x : Word) (hq : onPage FAULT.pg q = true) : Dev.Noted d { d with regs := d.regs.put q x } :=
  ⟨rfl, fun _ ⟨_, _, _, hk⟩ => Regs.word_put_ne _ _ fun e => by simp [e, hq] at hk⟩

theorem Dev.Noted.wr (d : Dev) (f : Fld) (v : Nat) (hq : onPage FAULT.pg (f.key FAULT.pg 0 0) = true) :
    Dev.Noted d (d.wr FAULT.pg f v) := .put d _ _ hq

theorem Dev.Noted.stat (d : Dev) (f : Fld) (v : Nat) (hq : onPage FAULT.pg (f.key FAULT.pg 0 0) = true) :
    Dev.Noted d (d.stat FAULT.pg f v) := by
  unfold Dev.stat
  split
  · exact .refl d
  · exact .wr d f v hq

theorem Dev.Noted.raise (d : Dev) (pg b : Nat) : Dev.Noted d (d.raise pg b) :=
  ⟨by rw [Dev.raise_rest d pg b], fun _ ⟨hr, hl, hp, _⟩ => (Dev.raise_word d pg b hr (.inr hl)).trans (if_neg (hp pg))⟩

theorem Dev.Noted.flt (d : Dev) (x : FaultSt) : Dev.Noted d { d with flt := x } := ⟨rfl, fun _ _ => rfl⟩

theorem Dev.Noted.ringPush (d : Dev) (n depth : Nat) (f : Fld) (hq : onPage FAULT.pg (f.key FAULT.pg 0 0) = true) :
    Dev.Noted d (d.ringPush n depth f) := by
  unfold Dev.ringPush
  split
  · exact (Dev.Noted.wr d f _ hq).trans (.raise _ _ _)
  · exact .refl d

/-- The words of the fault ring lie on the FAULT page. -/
theorem onPage_faultRec (n : Nat) {w : Nat} (hw : w < 16) :
    onPage FAULT.pg (FAULT.FAULT_REC.key FAULT.pg (16 * (n % 16) + w) 0) = true := by
  have e : FAULT.FAULT_REC.key FAULT.pg (16 * (n % 16) + w) 0 = 0x26 * 0x1000 + (0x400 + (16 * (n % 16) + w) * 4 + 0 * 4) := rfl
  simp only [onPage, e, beq_iff_eq]
  show _ = 0x26
  omega

/-- A fault record is noted. -/
theorem Dev.Noted.fault (d : Dev) (r : FaultRec) : Dev.Noted d (d.fault r) := by
  unfold Dev.fault
  refine .trans ?_ (.trans (.wr _ HDR.PG_STAT_STATE _ (by decide)) (.raise _ _ _))
  dsimp only
  generalize hf : List.foldl _ _ _ = e
  have words : Dev.Noted d e := hf ▸ (Dev.Noted.ringPush d _ _ FAULT.FAULT_RD_INDEX (by decide)).trans
    (.foldl _ _ (fun _ _ hw => .put _ _ _ (onPage_faultRec _ (List.mem_range.mp hw))) _)
  exact (words.trans (.flt e _)).trans (.stat _ FAULT.FAULT_WR_COUNT _ (by decide))

/-! ### A word met uncorrectable -/

/-- UE_LOG's second word after a write by requester r has met an uncorrectable word (R113). -/
theorem ueLog_requester (d : Dev) (r da : Nat) :
    (d.ueLog r da true).regs.word (rkey BANKS.pg 0x054) = BitVec.ofNat 32 (r + 32) := by
  have off : Unlogged (rkey BANKS.pg 0x054) :=
    ⟨by decide, by decide, fun _ => rkey_ne_off (by decide) (by decide) (by decide), by decide⟩
  unfold Dev.ueLog
  dsimp only
  rw [(Dev.Noted.fault _ _).word _ off]
  show (d.ueMark r da true).regs.word _ = _
  exact ((Dev.Noted.raise _ _ _).word _ off).trans (Regs.word_put_same _ _ _)

/-- From b to d only the banks' own state changes. -/
def Dev.BankOnly (b d : Dev) : Prop := d = { b with bank := d.bank }

theorem Dev.BankOnly.regs_eq {b d : Dev} (h : Dev.BankOnly b d) : d.regs = b.regs := by
  unfold Dev.BankOnly at h
  rw [h]

theorem Dev.BankOnly.reeve_eq {b d : Dev} (h : Dev.BankOnly b d) : d.reeve = b.reeve := by
  unfold Dev.BankOnly at h
  rw [h]

theorem Dev.BankOnly.trans {b d e : Dev} (h1 : Dev.BankOnly b d) (h2 : Dev.BankOnly d e) : Dev.BankOnly b e := by
  unfold Dev.BankOnly at *
  rw [h1] at h2
  exact h2

theorem Dev.BankOnly.foldl {α : Type} (f : Dev → α → Dev) (l : List α) (h : ∀ d x, Dev.BankOnly d (f d x)) (d : Dev) :
    Dev.BankOnly d (l.foldl f d) := by
  induction l generalizing d with
  | nil => rfl
  | cons x l ih => exact (h d x).trans (ih _)

theorem Dev.BankOnly.putItemBytes (k : ItemKind) (l : List Byte) : ∀ (d : Dev) (off : Nat), Dev.BankOnly d (d.putItemBytes k off l) := by
  induction l with
  | nil => exact fun _ _ => rfl
  | cons b l ih => exact fun d off => Dev.BankOnly.trans (d := d.writeByte (d.itemDA k off) b) rfl (ih _ _)

theorem Dev.BankOnly.cleanse (d : Dev) (w : Nat) : Dev.BankOnly d (d.cleanse w) := by
  unfold Dev.cleanse
  split <;> rfl

/-- The uncorrectable words that a write of n bytes at off of item k covers in part. -/
def Dev.metInPart (d : Dev) (k : ItemKind) (off n : Nat) : List Nat :=
  (((wordsOf off n).filter fun w => !(decide (off ≤ 8 * w) && decide (8 * w + 8 ≤ off + n))).map fun w =>
    d.itemDA k (8 * w) / 8).filter d.isBad

/-- They are logged, each as a write's. -/
def Dev.logMet (d : Dev) (k : ItemKind) (ws : List Nat) : Dev := ws.foldl (fun d w => d.ueLog (itemWriter k) (8 * w) true) d

/-- Beside the logs of what it meets a write of item bytes changes the banks alone (R111). -/
theorem Dev.BankOnly.putItem (d : Dev) (k : ItemKind) (off : Nat) (l : List Byte) (hk : (d.item k).isSome = true) :
    Dev.BankOnly (d.logMet k (d.metInPart k off l.length)) (d.putItem k off l) := by
  have placed : (d.item k).isNone = false := by simpa using hk
  unfold Dev.putItem
  rw [placed, if_neg Bool.false_ne_true]
  exact (Dev.BankOnly.putItemBytes k l _ off).trans (.foldl _ _ (fun d w => .cleanse d _) _)

/-! ### The end of a curve derivation -/

/-- The first derivation leaves the queue of those in progress. -/
def Dev.takeJob (d : Dev) (rest : List ToneJob) : Dev :=
  let d := { d with tone := { d.tone with jobs := rest } }
  if rest.isEmpty then d.wr TONE.pg HDR.PG_STAT_STATE 0 else d

/-- A BYPASS derivation for image 0. -/
def bypassJob : ToneJob := ⟨0, 0, 0, false, 0, [], [], []⟩

/-- D3 is on, image 0 is COMPLETE and its derivation runs; the word of AUX that the end of its curve record covers in part reads
uncorrectable. -/
def recordPoisoned : State := ⟨[], { (Dev.reset.setDom 3 4).setImgState 0 2 with
  reeve := { Dev.reset.reeve with items := [⟨.aux, [0]⟩] }
  bank := { Dev.reset.bank with bad := [(curveBase 0 + 2056) / 8] }
  tone := { Dev.reset.tone with jobs := [bypassJob] } }⟩

/-- The same as the derivation ends. -/
def recordDue : Dev := recordPoisoned.dev.takeJob []

/-- A derived record is 2060 bytes long, so that its last four share a word with bytes that it leaves. -/
theorem recordDue_met : recordDue.metInPart .aux (curveBase 0) 2060 = [(curveBase 0 + 2056) / 8] := by decide +kernel

/-- The bytes of a curve record (R186). -/
def Curve.bytes (c : Curve) : List Byte := c.t.flatMap (leBytes 2) ++ leBytes 2 0 ++ leBytes 4 c.target ++ leBytes 4 c.stat.toNat

theorem Dev.putCurve_eq (d : Dev) (k : Nat) (c : Curve) :
    d.putCurve k c = (d.putItem .aux (curveBase k) c.bytes).putWord TONE.pg (0x080 + 4 * k) c.stat := rfl

/-- The record of BYPASS. -/
def bypassCurve : Curve := ⟨List.replicate 1025 0, 0, 0x80000000⟩

/-- As it is written, UE_LOG names the Couch as the writer that met the word. -/
theorem putCurve_meets :
    (recordDue.putCurve 0 bypassCurve).regs.word (rkey BANKS.pg 0x054) = BitVec.ofNat 32 (Own.COUCH + 32) := by
  have length : bypassCurve.bytes.length = 2060 := by decide +kernel
  have written := Dev.BankOnly.putItem recordDue .aux (curveBase 0) bypassCurve.bytes (by decide +kernel)
  rw [length, recordDue_met] at written
  rw [Dev.putCurve_eq, Dev.regs_word_putWord, if_neg (by decide), written.regs_eq]
  unfold Dev.logMet
  rw [List.foldl_cons, List.foldl_nil]
  exact ueLog_requester ..

/-- A plan's start writes TITHE.PG_STAT alone. -/
theorem startPlan_word (d : Dev) (j : ToneJob) (c : Curve) {q : Nat} (hq : q ≠ rkey TITHE.pg 0x008) :
    (d.startPlan j c).regs.word q = d.regs.word q := by
  unfold Dev.startPlan
  split
  · rfl
  · exact (Dev.regs_word_wr ..).trans (if_neg hq)

/-- The curve that a derivation has made when it ends on device d. -/
def Dev.derived (d : Dev) (j : ToneJob) : Curve × Option Rat :=
  deriveCurve j.vals j.used (d.mode.w * d.mode.h) j.hist (mget (fun _ => none) d.tone.psPrev j.slot)

/-- A derivation that ends for a live image leaves, beside TITHE.PG_STAT, the registers that the record's write leaves (R187). -/
theorem toneDeriveDone_word {s : State} {j : ToneJob} {rest : List ToneJob} {P : Dev → Prop} (hr : Ran .toneDeriveDone s P)
    (jobs : s.dev.tone.jobs = j :: rest) (on : s.dev.domOn 3 = true)
    (live : (s.dev.takeJob rest).toneLive j.img j.seq j.partl = true) :
    ∃ d, P (Dev.settle s.dev d) ∧ ∀ q, q ≠ rkey TITHE.pg 0x008 →
      d.regs.word q = ((s.dev.takeJob rest).putCurve j.img ((s.dev.takeJob rest).derived j).1).regs.word q := by
  have body : exec .toneDeriveDone s = execToneDeriveDone s := rfl
  unfold execToneDeriveDone at body
  refine ⟨_, hr.settled_body body, fun q hq => ?_⟩
  simp only [jobs, on, Bool.not_true, Bool.false_eq_true, if_false]
  unfold Dev.takeJob at live ⊢
  rw [if_neg (by simpa using live), startPlan_word _ _ _ hq]
  split <;> rfl

theorem untouched_ueLog : Untouched (rkey BANKS.pg 0x054) := ⟨by decide, fun _ => rkey_ne_off (by decide) (by decide) (by decide)⟩

/-- Refutes O32: its clauses on the end of a derivation for a live image have registers of the TONE page change alone. A curve record's
last four bytes share a word of AUX with bytes that it leaves, and where that word reads uncorrectable the narrow write meets it: UE_LOG
and a fault record say so (R110, R111). -/
theorem not_curvesPlansLadder : ¬ Obligations.CurvesPlansLadder := by
  unfold Obligations.CurvesPlansLadder
  intro h
  have on : recordPoisoned.dev.domOn 3 = true := by decide +kernel
  have live : recordDue.toneLive 0 0 false = true := by decide +kernel
  obtain ⟨-, -, -, ended, -⟩ := h recordPoisoned ⟨⟨0, 0, 0, [], [], []⟩, ⟨[], []⟩⟩ ⟨[], 0, false, none, 0, [], [], false, []⟩ 0 bypassJob []
    ⟨0, 0, 0, false, Curve.none, [], [], 0⟩ []
  obtain ⟨d, ⟨-, -, -, -, words⟩, written⟩ := toneDeriveDone_word (ended on rfl (by decide +kernel) (by decide) (by decide +kernel)) rfl on live
  have kept := words (rkey BANKS.pg 0x054) (by decide) untouched_ueLog.1 (.inr (by decide)) untouched_ueLog.2
  have before : recordPoisoned.dev.regs.word (rkey BANKS.pg 0x054) = 0 := by decide +kernel
  rw [settle_word _ _ untouched_ueLog (.inr (by decide)), before, written _ (by decide)] at kept
  exact absurd (putCurve_meets.symm.trans kept) (by decide)

/-! ### The stress of a pixel (R275, R276) -/

/-- A table of equal rates interpolates to that rate at any code. -/
theorem stressRate_flat {v : Regs} {p ch n : Nat} (code : Nat) (flat : ∀ e < 129,
    getBits (v.word (rkey AGING.pg (0x400 + 0x400 * p + 0x110 * ch + 4 * (e / 2)))) (16 * (e % 2)) 16 = n) :
    stressRate v p ch code = n := by
  have entry : min (code / 512) 127 + 1 < 129 := by omega
  unfold stressRate
  dsimp only
  rw [flat _ (by omega), flat _ entry, ← Int.mul_add, Int.sub_add_cancel]
  exact (Rat.mkRat_mul_right (d := 1) (by decide)).trans (Rat.mkRat_one n)

/-- An hour at rate 1.0 and KT 1.0 is 2^40 units of stress. -/
theorem stressInc_hour {v : Regs} {p ch code : Nat} (kt : Nat) (flat : stressRate v p ch code = (0x1000 : Nat)) :
    stressInc v p ch kt code (0, 65536 * 3600000000000, 0x1000) = 2 ^ 40 := by
  unfold stressInc
  rw [flat]
  dsimp only
  rw [Nat.zero_mul]
  decide +kernel

/-- The whole steps of R276, and one more where the hash says so. -/
theorem stressCode_mem (ch : Nat) (e : Rat) (rnd s : Nat) :
    let n := (stressStep (stressK ch) (stressMax ch) e s (stressMax ch)).2
    stressCode ch e rnd s ∈ [n, n + 1] := by
  unfold stressCode
  dsimp only
  split
  · exact .tail _ (.head _)
  · exact .head _

theorem stressStep_hour : (stressStep 128 2047 (2 ^ 40) 0 2047).2 = 41 ∧ (stressStep 64 1023 (2 ^ 40) 0 1023).2 = 20 := by
  decide +kernel

/-- Blue codes 20 and 21 are 5 in the word's top byte. -/
theorem stressWord_top : ∀ r ∈ [41, 42], ∀ g ∈ [41, 42], ∀ b ∈ [20, 21],
    (leBytes 4 (stressWord r g b)).getLast (List.cons_ne_nil _ _) = 5 := by
  decide

/-- Whatever the hashes, an hour takes a fresh pixel to those codes. -/
theorem stressWord_hour (x y z : Nat) :
    (leBytes 4 (stressWord (stressCode 0 (2 ^ 40) x 0) (stressCode 1 (2 ^ 40) y 0) (stressCode 2 (2 ^ 40) z 0))).getLast
      (List.cons_ne_nil _ _) = 5 := by
  obtain ⟨rg, b⟩ := stressStep_hour
  have red := stressCode_mem 0 (2 ^ 40) x 0
  have green := stressCode_mem 1 (2 ^ 40) y 0
  have blue := stressCode_mem 2 (2 ^ 40) z 0
  rw [show stressK 0 = 128 from rfl, show stressMax 0 = 2047 from rfl, rg] at red
  rw [show stressK 1 = 128 from rfl, show stressMax 1 = 2047 from rfl, rg] at green
  rw [show stressK 2 = 64 from rfl, show stressMax 2 = 1023 from rfl, b] at blue
  exact stressWord_top _ red _ green _ blue

/-! ### The last byte written -/

theorem putItemBytes_last (k : ItemKind) (l : List Byte) : ∀ (d : Dev) (off : Nat) (hl : l ≠ []),
    ∃ da, (d.putItemBytes k off l).byte da = l.getLast hl := by
  induction l with
  | nil => exact fun _ _ hl => absurd rfl hl
  | cons b l ih =>
    intro d off hl
    cases l with
    | nil => exact ⟨d.itemDA k off, (Dev.byte_putByte ..).trans (if_pos rfl)⟩
    | cons c l => exact ih _ _ (List.cons_ne_nil c l)

theorem Dev.cleanse_mem (d : Dev) (w : Nat) : (d.cleanse w).bank.mem = d.bank.mem := by
  unfold Dev.cleanse
  split <;> rfl

/-- Some byte of memory holds the last byte written to a placed item. -/
theorem putItem_last (d : Dev) (k : ItemKind) (off : Nat) (l : List Byte) (hk : (d.item k).isSome = true) (hl : l ≠ []) :
    ∃ da, (d.putItem k off l).byte da = l.getLast hl := by
  have placed : (d.item k).isNone = false := by simpa using hk
  unfold Dev.putItem
  rw [placed, if_neg Bool.false_ne_true]
  dsimp only
  generalize List.foldl _ d _ = e
  obtain ⟨da, written⟩ := putItemBytes_last k l e off hl
  refine ⟨da, Eq.trans (congrArg (mget memDefault · da) ?_) written⟩
  exact List.foldlRecOn (motive := fun c : Dev => c.bank.mem = (e.putItemBytes k off l).bank.mem) _ _ rfl
    fun c same w _ => (Dev.cleanse_mem c _).trans same

/-! ### What a stress update leaves placed -/

theorem Dev.Rq.reeve_eq {b d : Dev} (h : Dev.Rq b d) : d.reeve = b.reeve := by
  unfold Dev.Rq at h
  rw [h]

theorem Dev.Rq.bank_eq {b d : Dev} (h : Dev.Rq b d) : d.bank = b.bank := by
  unfold Dev.Rq at h
  rw [h]

theorem Dev.Rq.ueMark (d : Dev) (r da : Nat) (write : Bool) : Dev.Rq d (d.ueMark r da write) := by
  have named := (Dev.Rq.putWord d BANKS.pg 0x050 (BitVec.ofNat 32 (da % 2 ^ 30 + 2 ^ 31))).trans
    (.putWord _ BANKS.pg 0x054 (BitVec.ofNat 32 (r + b2n write * 32)))
  cases write
  · exact (named.trans (.count ..)).trans (Dev.raise_rest ..)
  · exact named.trans (Dev.raise_rest ..)

theorem ueLog_reeve (d : Dev) (r da : Nat) (write : Bool) : (d.ueLog r da write).reeve = d.reeve := by
  unfold Dev.ueLog
  dsimp only
  rw [(Dev.Noted.fault _ _).rest]
  exact (Dev.Rq.ueMark d r da write).reeve_eq

theorem putItem_reeve (d : Dev) (k : ItemKind) (off : Nat) (l : List Byte) : (d.putItem k off l).reeve = d.reeve := by
  by_cases hk : (d.item k).isSome = true
  · rw [(Dev.BankOnly.putItem d k off l hk).reeve_eq]
    exact List.foldlRecOn (motive := fun c : Dev => c.reeve = d.reeve) _ _ rfl fun c same w _ => (ueLog_reeve ..).trans same
  · unfold Dev.putItem
    rw [if_pos (by simpa using hk)]

/-- A line whose last pixel is fresh and has been lit for an hour writes its stress. -/
theorem stressLine_hour {d : Dev} {p : Nat} (y : Nat) (ss : List (Option Nat)) (c8 : List Nat) (placed : (d.item (.stress p)).isSome = true)
    (flat : ∀ ch < 3, ∀ e < 129,
      getBits (d.regs.word (rkey AGING.pg (0x400 + 0x400 * p + 0x110 * ch + 4 * (e / 2)))) (16 * (e % 2)) 16 = 0x1000) :
    ∃ da, (d.stressLine p y (ss ++ [some 0]) c8 (0, 65536 * 3600000000000, 0x1000)).2.byte da = 5 := by
  unfold Dev.stressLine
  dsimp only
  rw [List.zipIdx_append, List.foldl_append]
  generalize hacc : List.foldl _ (0, d) _ = acc
  have same : acc.2.reeve = d.reeve := by
    rw [← hacc]
    refine List.foldlRecOn (motive := fun c : Nat × Dev => c.2.reeve = d.reeve) _ _ rfl fun c same e _ => ?_
    split
    · exact (Dev.Rq.count ..).reeve_eq.trans same
    · exact (putItem_reeve ..).trans same
  have placed' : (acc.2.item (.stress p)).isSome = true := by
    unfold Dev.item at *
    rw [same]
    exact placed
  have inc (ch : Nat) (hc : ch < 3) (kt code : Nat) := stressInc_hour kt (stressRate_flat code (flat ch hc))
  have three {f : Nat → Nat} : ((List.range 3).map f).getD 0 0 = f 0 ∧ ((List.range 3).map f).getD 1 0 = f 1 ∧
    ((List.range 3).map f).getD 2 0 = f 2 := ⟨rfl, rfl, rfl⟩
  have fresh (ch : Nat) : stressField 0 ch = 0 := by unfold stressField; split <;> simp
  simp only [List.zipIdx_cons, List.zipIdx_nil, List.foldl_cons, List.foldl_nil, three, inc 0 (by decide), inc 1 (by decide),
    inc 2 (by decide), fresh]
  obtain ⟨da, written⟩ := putItem_last acc.2 (.stress p) _ (leBytes 4 _) placed' (List.cons_ne_nil _ _)
  exact ⟨da, written.trans (stressWord_hour ..)⟩

/-! ### A line without an uncorrectable word -/

/-- No word of bank memory reads uncorrectable, and none has just been made good (R110, R111, R142). -/
def Dev.sound (d : Dev) : Bool :=
  d.bank.bad.isEmpty && d.bank.fresh.isEmpty &&
    d.reeve.items.all fun it => it.banks.all fun b => !(d.bankState b == 8 || d.dom (8 + b / 8) == 8)

theorem isBad_sound {d : Dev} (h : d.sound = true) (w : Nat) : d.isBad w = false := by
  simp only [Dev.sound, Bool.and_eq_true, List.isEmpty_iff, List.all_eq_true] at h
  obtain ⟨⟨bad, -⟩, banks⟩ := h
  have kept : d.keptFailed (w / 2 ^ 21) = false := by
    rw [Dev.keptFailed, Bool.and_eq_false_iff]
    by_cases hi : (d.reeve.items.any fun it => it.banks.contains (w / 2 ^ 21)) = true
    · obtain ⟨it, hit, hb⟩ := List.any_eq_true.mp hi
      exact .inl (by simpa using banks it hit _ (List.contains_iff_mem.mp hb))
    · exact .inr (by simpa using hi)
  rw [Dev.isBad, bad, kept]
  rfl

/-- Cells that answer no error leave a sound device as it is. -/
theorem eccWords_sound {d : Dev} (h : d.sound = true) (ws : List Nat) : d.eccWords ws ⟨[], []⟩ = ([], d) := by
  have met : d.eccMeet (fun x => ws.contains (x / 8)) ⟨[], []⟩ = d := by
    simp only [Dev.sound, Bool.and_eq_true, List.isEmpty_iff] at h
    obtain ⟨⟨-, fresh⟩, -⟩ := h
    simp only [Dev.eccMeet, List.filter_nil, List.foldl_nil, fresh]
    rw [← fresh]
  unfold Dev.eccWords
  rw [met]
  dsimp only
  rw [List.filter_eq_nil_iff.mpr fun w _ => by simp [isBad_sound h]]

theorem itemBad_sound {d : Dev} (h : d.sound = true) (k : ItemKind) (off len : Nat) : d.itemBad k off len = false := by
  simp [Dev.itemBad, isBad_sound h]

/-- A stress map over zero memory reads 0 in every pixel. -/
theorem mapLine_zero {d : Dev} (h : d.sound = true) (zero : d.bank.mem = []) {p : Nat} (placed : (d.item (.stress p)).isSome = true) (y w : Nat) :
    d.mapLine (.stress p) y w = List.replicate w (some 0) := by
  have byte (da : Nat) : d.byte da = 0 := by simp [Dev.byte, zero, memDefault]
  have word (off : Nat) : d.itemNat (.stress p) off 4 = 0 := by
    simp [Dev.itemNat, Dev.itemBytes, byte, List.range_succ, ofLeBytes]
  rw [List.eq_replicate_iff]
  refine ⟨by simp [Dev.mapLine], fun b hb => ?_⟩
  simp only [Dev.mapLine, Dev.mapUsed, placed, itemBad_sound h, word, List.mem_map] at hb
  obtain ⟨-, -, rfl⟩ := hb
  rfl

theorem lineMaps_sound {d : Dev} (h : d.sound = true) (p y : Nat) :
    d.lineMaps p y ⟨[], []⟩ = (⟨d.mapLine (.demura p) y d.mode.w, d.mapLine (.stress p) y d.mode.w,
      (d.mapBad (.demura p) y d.mode.w).zipWith or (d.mapBad (.stress p) y d.mode.w)⟩, d) := by
  have good (k : ItemKind) (w : Nat) : ((d.mapBad k y w).filter id).length = 0 := by
    simp [Dev.mapBad, itemBad_sound h]
  have one (k : ItemKind) : (if !d.mapUsed k then ((0, d) : Nat × Dev) else (0, d)) = (0, d) := by split <;> rfl
  unfold Dev.lineMaps
  simp only [eccWords_sound h, List.foldl_nil, good, one, Nat.add_zero, if_true]

/-! ### From the line to the command -/

theorem byte_congr {b d : Dev} (h : d.bank = b.bank) (da : Nat) : d.byte da = b.byte da := by rw [Dev.byte, h]; rfl

/-- Port p's pass has an hour of emission still to count, its stress map is placed, and every rate of its table is 1.0. -/
structure Dev.HourDue (d : Dev) (p : Nat) : Prop where
  te : mget (fun _ => (0, 0, 0)) d.aging.te p = (0, 65536 * 3600000000000, 0x1000)
  placed : (d.item (.stress p)).isSome = true
  flat : ∀ ch < 3, ∀ e < 129,
    getBits (d.regs.word (rkey AGING.pg (0x400 + 0x400 * p + 0x110 * ch + 4 * (e / 2)))) (16 * (e % 2)) 16 = 0x1000

theorem lineStress_hour {d : Dev} {p y w : Nat} (hour : d.HourDue p) (hy : y ≠ 0) (hw : w ≠ 0) (c8 : List Nat) :
    ∃ da, (d.lineStress p y (List.replicate w (some 0)) c8).byte da = 5 := by
  obtain ⟨n, rfl⟩ := Nat.exists_eq_succ_of_ne_zero hw
  obtain ⟨da, counted⟩ := stressLine_hour y (List.replicate n (some 0)) c8 hour.placed hour.flat
  have placed : (d.item (.stress p)).isNone = false := by simpa using hour.placed
  refine ⟨da, Eq.trans (byte_congr ?_ da) counted⟩
  unfold Dev.lineStress
  rw [hour.te, placed, List.replicate_succ', if_neg (by decide), if_neg hy]
  dsimp only
  split
  · rfl
  · split
    · exact (Dev.Rq.count ..).bank_eq
    · exact (Dev.raise_rest ..).bank_eq.trans (Dev.Rq.count ..).bank_eq

theorem portLine_hour {d : Dev} {p y : Nat} (hour : d.HourDue p) (hs : d.sound = true) (zero : d.bank.mem = []) (sat : (d.calSt p).sat = true)
    (hy : y ≠ 0) (hw : d.mode.w ≠ 0) (px : List Nat) : ∃ da, (d.portLine p y (some px) false false ⟨[], []⟩).byte da = 5 := by
  unfold Dev.portLine
  rw [lineMaps_sound hs]
  simp only [mapLine_zero hs zero hour.placed, sat, Bool.not_true, Bool.and_false, Bool.false_eq_true, if_false]
  generalize Dev.lineCodes .. = out
  obtain ⟨da, counted⟩ := lineStress_hour hour hy hw out.c8
  refine ⟨da, Eq.trans (byte_congr ?_ da) counted⟩
  split <;> rfl

theorem fetchLine_hour {d : Dev} {p y : Nat} (hour : d.HourDue p) (hs : d.sound = true) (zero : d.bank.mem = [])
    (sat : (d.calSt p).sat = true) (hy : y ≠ 0) (hw : d.mode.w ≠ 0) (k : Nat) :
    ∃ da, (d.fetchLine [p] k y false ⟨[], []⟩).byte da = 5 := by
  unfold Dev.fetchLine
  simp only [eccWords_sound hs, List.isEmpty_nil, if_true, List.foldl_cons, List.foldl_nil]
  exact portLine_hour hour hs zero sat hy hw _

/-- With port p alone following, what the Calenders' end of a line past the pass's first does to the banks is what the shared fetch does;
a port whose emission is held off takes part while its pass has emission time to count (R21, R274). -/
theorem lineFetchDone_bank {s : State} {p y : Nat} {ecc : Ecc} {P : Dev → Prop} (hr : Ran (.lineFetchDone none ecc) s P)
    (run : s.dev.scan.run = true) (started : s.dev.scan.starting = false) (alone : ([0, 1].filter fun q => s.dev.portState q == 1) = [p])
    (ready : (s.dev.portR p).ready = y) (active : y < s.dev.mode.h) (shown : s.dev.scanImage < 8) (due : s.dev.fetchDue y 0 = true)
    (hy : y ≠ 0) (counts : mget (fun _ => (0, 0, 0)) s.dev.aging.te p ≠ (0, 0, 0)) :
    ∃ d, P (Dev.settle s.dev d) ∧ d.bank = (s.dev.fetchLine [p] s.dev.scanImage y false ecc).bank := by
  have body : exec (.lineFetchDone none ecc) s = execLineFetchDone none ecc s := rfl
  unfold execLineFetchDone at body
  refine ⟨_, hr.settled_body body, ?_⟩
  have lit : (!s.dev.heldOff p || mget (fun _ => (0, 0, 0)) s.dev.aging.te p != (0, 0, 0)) = true := by simp [counts]
  have goes : (decide (s.dev.mode.h ≤ y) || decide (8 ≤ s.dev.scanImage) || !s.dev.fetchDue y 0) = false := by
    simp [active, shown, due]
  simp only [run, started, alone, ready, hy, lit, Bool.not_true, Bool.or_false, Bool.false_eq_true, if_false, List.filter_cons, List.filter_nil,
    if_true, List.foldl_cons, List.foldl_nil]
  rw [if_neg (by rw [goes]; decide)]
  generalize s.dev.fetchLine [p] s.dev.scanImage y false ecc = e
  split <;> rfl

/-- Port A follows; a crack under POLICY DARK has cut its emission short within the pass, which still has an hour of self-refresh to
count (R274, R279, R347). Line 0 has been fetched, and a pixel of it was clipped. Image 0 and port A's stress map are placed, and no
stress stands in it. -/
def cutWithinPass : State := ⟨[], {
  (((Dev.reset.setPortState 0 1).wr (PANEL.pg 0) PANEL.CRK_STAT_LATCHED 1).wr (PANEL.pg 0) PANEL.CRK_CTL_POLICY 1).wr COUCH.pg
    COUCH.SHOWN_IMG 0 with
  scan := { Dev.reset.scan with run := true, ports := [(0, { PortR.reset with ready := 1 })] }
  reeve := { Dev.reset.reeve with items := [⟨.image 0 0, [0, 1, 2]⟩, ⟨.stress 0, [3, 4]⟩] }
  cal := [(0, { CalSt.reset with sat := true, img := 0 })]
  aging := { Dev.reset.aging with te := [(0, (0, 65536 * 3600000000000, 0x1000))] } }⟩

theorem cutWithinPass_hour : cutWithinPass.dev.HourDue 0 := ⟨rfl, by decide +kernel, by decide +kernel⟩

theorem settle_bank (d0 d : Dev) : (Dev.settle d0 d).bank = d.bank := by rw [(settle_rest d0 d).1]

/-- Refutes O29: its clause on a line whose emission is held off keeps the bank memory as it was. A line in which nothing is emitted
still takes the stress its pass has to count (R21, R274), and so where a crack has cut the emission short within the pass the line after
writes the stress of its pixels. -/
theorem not_linesRun : ¬ Obligations.LinesRun := by
  unfold Obligations.LinesRun
  intro h
  obtain ⟨-, -, -, -, -, heldOff, -⟩ := h cutWithinPass 0 1 0 [] ⟨[], []⟩
  have due : cutWithinPass.dev.fetchDue 1 0 = true := by decide +kernel
  have shown : cutWithinPass.dev.scanImage < 8 := by decide +kernel
  have active : 1 < cutWithinPass.dev.mode.h := by decide +kernel
  have alone : ([0, 1].filter fun q => cutWithinPass.dev.portState q == 1) = [0] := by decide +kernel
  have ran := heldOff rfl rfl (by decide +kernel) (by decide +kernel) (by decide +kernel) rfl active shown due
  obtain ⟨d, ⟨-, -, mem, -⟩, bank⟩ := lineFetchDone_bank (y := 1) ran rfl rfl alone rfl active shown due (by decide) (by decide)
  obtain ⟨da, counted⟩ := fetchLine_hour cutWithinPass_hour (by decide +kernel) rfl rfl Nat.one_ne_zero (by decide +kernel) cutWithinPass.dev.scanImage
  rw [settle_bank] at mem
  have fresh : d.byte da = 0 := congrArg (mget memDefault · da) mem
  exact absurd (fresh.symm.trans ((byte_congr bank da).trans counted)) (by decide)

end Sys2Proof.Machine
end

section
/-! PROOFS of the statements on power-on resets, the sensors with their SMBus, and the panel's power-on (02_package_signals). -/

namespace Sys2Proof.Machine

/-! ### The cause a power-on reset shows -/

/-- After reset, with CAUSE 8 due at the next power-on reset. AO_LOG.CAUSE has room for it (R99: four bits), and no reset of the spec
has that cause. -/
def causeEightDue : State := ⟨[], { Dev.reset with pwr := { Dev.reset.pwr with due := 8 } }⟩

/-- The power-on reset shows the cause that is due, whole. -/
theorem suppliesOn_shows_due :
    (causeEightDue.dev.suppliesOn ⟨true, false, true⟩).rd AOBB.pg AOBB.AO_LOG_CAUSE = 8 := by decide +kernel

theorem untouched_aoLog : Untouched (rkey AOBB.pg 0x1FC) :=
  ⟨by decide, fun _ => rkey_ne_off (by decide) (by decide) (by decide)⟩

/-- Refutes O21: its first clause has the reset show the cause that is due modulo 8, and AO_LOG.CAUSE is four bits wide (R99), so
that a cause of 8 shows as 8. R99 names no cause above 4. -/
theorem not_powerOnResets : ¬ Obligations.PowerOnResets := by
  unfold Obligations.PowerOnResets
  intro h
  obtain ⟨-, -, -, -, -, -, -, -, -, -, -, -, kept, -⟩ :=
    ((h causeEightDue ⟨true, false, true⟩ ⟨false, [], none⟩ 0 0 0 0 0).1 rfl (fun _ => rfl)).settled_body
      (f := fun d => d.suppliesOn ⟨true, false, true⟩) rfl
  obtain ⟨cause, -⟩ := kept (.inl rfl)
  rw [settle_rd _ _ AOBB.pg AOBB.AO_LOG_CAUSE 0 0 0 untouched_aoLog (.inr (by decide)), suppliesOn_shows_due] at cause
  exact absurd cause (by decide)

/-! ### WAKE_N in the settling of an SMBus start -/

/-- The SMBus master is enabled and idle, D1 runs, PERST_N is asserted, D2 is off with PF0's vote for it standing, and the failure of
the 32 kHz crystal does not show in EV_RAW yet. -/
def wakeDueOverSmbus : State := ⟨[],
  { ((((Dev.reset.wr SENSE.pg SENSE.SMB_CTL_EN 1).setDom 1 3).setDom 2 0).wr CLOCK.pg CLOCK.OSC_STAT_XT32_OK 0) with
    pwr := { Dev.reset.pwr with perst := true } }⟩

/-- As the start settles, the Moot wakes D2 and drives WAKE_N low (R87). -/
theorem smbGo_settles_wakeN :
    (Dev.settle wakeDueOverSmbus.dev (wakeDueOverSmbus.dev.smbGo filporAcc.who 0)).pwr.wakeN = true := by decide +kernel

theorem wakeDueOverSmbus_wakeN : wakeDueOverSmbus.dev.pwr.wakeN = false := rfl

theorem exec_smbXferGo {s : State} {a : Acc} (h : s.dev.awake a = true) (hm : s.dev.mayWrite a.who SENSE.pg = true) (x : Word) :
    exec (.smbXferGo a x) s = finish (fun d => d.smbGo a.who x) s := by
  have defined : regDefined SENSE.pg 0x084 = true := by decide +kernel
  show hostWrite _ _ _ _ = _
  rw [hostWrite_takes h]
  simp only [finish, Dev.guarded_right defined hm]

/-- Two power states that differ in the domains, FIRC and the SMBus OP alone drive WAKE_N alike. -/
theorem PowerSt.wakeN_eq {x y : PowerSt} {l : List (Nat × Dom)} {firc : Bool} {op : Nat}
    (h : { x with doms := l, fircStarting := firc } = { y with smbOp := op }) : x.wakeN = y.wakeN :=
  (congrArg PowerSt.wakeN h :)

/-- Refutes O27: its clause on the start of an SMBus transfer has the power state as it was but for the domains, FIRC and the OP of
the transfer. Where a standing condition does not show yet, the command settles it and the Moot acts on the holds; the wake of D2 under an
asserted PERST_N then drives WAKE_N low (R87), which is part of the power state. After every command the conditions stand settled, so
that only a state which no run reaches shows this. -/
theorem not_sensorsAndSMBus : ¬ Obligations.SensorsAndSMBus := by
  unfold Obligations.SensorsAndSMBus
  intro h
  have awake := awake_filporAcc wakeDueOverSmbus.dev
  obtain ⟨-, -, -, -, start, -⟩ := h wakeDueOverSmbus filporAcc ⟨0, 0, 0, 0, 0, 0, 0⟩ 0 0 0 .nack
  obtain ⟨-, -, power, -⟩ :=
    (start awake rfl (by decide +kernel) (by decide +kernel) (by decide +kernel)).settled_body (exec_smbXferGo awake rfl 0)
  exact absurd (smbGo_settles_wakeN.symm.trans ((PowerSt.wakeN_eq power).trans wakeDueOverSmbus_wakeN)) (by decide)

/-! ### A lit panel at the end of PRST_DELAY -/

theorem regAcc_congr {b d : Dev} (h : d.trim = b.trim) (p : Nat) : d.regAcc p = b.regAcc p := by rw [Dev.regAcc, h]; rfl

/-- A panel that leaves LIT drops what the regression has gathered of its port (R356). -/
theorem setPanelState_leaves_lit {d : Dev} {p st : Nat} (lit : d.panelState p = 7) (hst : st ≠ 7) :
    (d.setPanelState p st).regAcc p = RegAcc.zero := by
  have leaves : (d.panelState p == 7 && st != 7) = true := by simp [lit, hst]
  unfold Dev.setPanelState Dev.onlyIf
  rw [leaves, if_pos rfl]
  exact (mget_mset _ d.trim.acc p RegAcc.zero p).trans (if_pos rfl)

/-- A change of the panel's state writes PG_STAT and, on leaving LIT, the count that ACC_N shows. -/
theorem setPanelState_word (d : Dev) (p st : Nat) {q : Nat} (state : q ≠ rkey (PANEL.pg p) 0x008)
    (count : q ≠ TRIM.ACC_N.key TRIM.pg 0 0) : (d.setPanelState p st).regs.word q = d.regs.word q := by
  unfold Dev.setPanelState Dev.onlyIf
  rw [Dev.regs_word_wr, if_neg (by exact state)]
  split
  · exact (Dev.regs_word_wr ..).trans (if_neg count)
  · rfl

/-- The end of PRST_DELAY, PREADY still to come, goes through the change of the panel's state to RESET. -/
theorem prstDelayExpire_trim {s : State} {p : Port} {P : Dev → Prop} (hr : Ran (.prstDelayExpire p) s P)
    (wait : (s.dev.panelSt p.val).wait = .prst) (use : s.dev.on (PANEL.pg p.val) PANEL.PANEL_CFG_PREADY_USE = true)
    (low : (s.dev.panelSt p.val).pready = false) :
    ∃ d, P (Dev.settle s.dev d) ∧ d.trim = (s.dev.setPanelState p.val 3).trim := by
  have body : exec (.prstDelayExpire p) s = execPrstDelayExpire p s := rfl
  unfold execPrstDelayExpire at body
  refine ⟨_, hr.settled_body body, ?_⟩
  have used (x : PanelSt) : ((s.dev.setPanelState p.val 3).setPanel p.val x).on (PANEL.pg p.val) PANEL.PANEL_CFG_PREADY_USE = true := by
    refine Eq.trans (congrArg (· == 1) (Dev.rd_congr ?_)) use
    exact setPanelState_word _ _ _ (rkey_ne_off (by decide) (by decide) (by decide)) (rkey_ne_off (by decide) (by decide) (by decide))
  simp only [wait, low, if_true]
  rw [used]
  rfl

/-- Port A's panel is LIT while its sequencer waits for PRST_DELAY, and the regression has taken one pass. -/
def litBeforeReset : State := ⟨[],
  { (Dev.reset.wr (PANEL.pg 0) HDR.PG_STAT_STATE 7).setPanel 0 { PanelSt.reset with wait := .prst } with
    trim := { Dev.reset.trim with acc := [(0, ⟨1, 20, 20, 400, 400, 400⟩)] } }⟩

theorem Dev.Rest.trim_eq {b d : Dev} (h : Dev.Rest b d) : d.trim = b.trim := by rw [h.1]

/-- A frame over what settling follows holds of the Trim unit in the body itself. -/
theorem Dev.Only.body_trim {ks : List Nat} {evs : List (Nat × Nat)} {b d0 d : Dev} (h : Dev.Only ks evs b (Dev.settle d0 d)) :
    d.trim = b.trim := (settle_rest d0 d).trim_eq.symm.trans h.1.1.trim_eq

/-- Refutes O41: its clause on the end of PRST_DELAY names the sequencer's step alone and has the panels' part of the device and PG_STAT
change and nothing else. A panel that reads LIT leaves LIT with it, and then what the regression has gathered of its port is dropped (R356),
which is the Trim unit's. The sequence of R337 itself comes to this step from ANALOG only. -/
theorem not_panelPowersUp : ¬ Obligations.PanelPowersUp := by
  unfold Obligations.PanelPowersUp
  intro h
  obtain ⟨-, -, -, -, -, -, -, -, -, reset, -⟩ := h litBeforeReset filporAcc 0 0 0 0 0
  have use : litBeforeReset.dev.on (PANEL.pg (0 : Port).val) PANEL.PANEL_CFG_PREADY_USE = true := by decide +kernel
  obtain ⟨d, ⟨-, -, frame⟩, trim⟩ := prstDelayExpire_trim (reset rfl use rfl) rfl use rfl
  have dropped := setPanelState_leaves_lit (d := litBeforeReset.dev) (p := 0) (st := 3) (by decide +kernel) (by decide)
  have taken : litBeforeReset.dev.regAcc 0 ≠ RegAcc.zero := by decide +kernel
  exact taken ((regAcc_congr frame.body_trim 0).symm.trans ((regAcc_congr trim 0).trans dropped))

end Sys2Proof.Machine
end

section
/-! SUPPORT and PROOF of the statement on configuration requests, the MSI-X table and message sending (04_host_link, 21_events). -/

namespace Sys2Proof.Machine

/-! ### The link at work -/

theorem Dev.Rq.fns_eq {b d : Dev} (h : Dev.Rq b d) : d.host.fns = b.host.fns := by rw [h]

theorem Dev.Rq.cpl_eq {b d : Dev} (h : Dev.Rq b d) : d.host.cpl = b.host.cpl := by rw [h]

theorem Dev.Rq.lastMsg_eq {b d : Dev} (h : Dev.Rq b d) : d.host.lastMsg = b.host.lastMsg := by rw [h]

theorem Dev.Rq.todo_eq {b d : Dev} (h : Dev.Rq b d) : d.host.todo = b.host.todo := by rw [h]

theorem raiseKeys_subset_wakeKeys : ∀ k ∈ raiseKeys, k ∈ wakeKeys := by decide

/-- From b to d only registers and the host side change. -/
def Dev.HostSide (b d : Dev) : Prop := d = { b with regs := d.regs, host := d.host }

theorem Dev.HostSide.trans {b d e : Dev} (h1 : Dev.HostSide b d) (h2 : Dev.HostSide d e) : Dev.HostSide b e := by
  unfold Dev.HostSide at *
  rw [h1] at h2
  exact h2

theorem Dev.Rq.hostSide {b d : Dev} (h : Dev.Rq b d) : Dev.HostSide b d := by
  unfold Dev.HostSide
  rw [h]

/-- From b to d only the link is at work: no function's configuration and no completion changes, and of the registers only those of
events, EV_RAW of HOSTIF and the link state. -/
structure Dev.LinkWork (b d : Dev) : Prop where
  rest : Dev.HostSide b d
  fns : d.host.fns = b.host.fns
  cpl : d.host.cpl = b.host.cpl
  word : ∀ k, k ∉ raiseKeys → k ≠ linkKey → k ≠ rkey HOSTIF.pg 0x00C → (∀ p, k ≠ rkey p 0x014) → d.regs.word k = b.regs.word k

theorem Dev.LinkWork.refl (d : Dev) : Dev.LinkWork d d := ⟨rfl, rfl, rfl, fun _ _ _ _ _ => rfl⟩

theorem Dev.LinkWork.trans {b d e : Dev} (h1 : Dev.LinkWork b d) (h2 : Dev.LinkWork d e) : Dev.LinkWork b e := by
  exact ⟨h1.rest.trans h2.rest, h2.fns.trans h1.fns, h2.cpl.trans h1.cpl,
    fun k hr hl hc hp => (h2.word k hr hl hc hp).trans (h1.word k hr hl hc hp)⟩

/-- What changes requests and, of the registers, at most those that an event may write. -/
theorem Dev.LinkWork.ofRq {b d : Dev} (h : Dev.Rq b d)
    (word : ∀ k, k ∉ raiseKeys → k ≠ linkKey → (∀ p, k ≠ rkey p 0x014) → d.regs.word k = b.regs.word k) : Dev.LinkWork b d :=
  ⟨h.hostSide, h.fns_eq, h.cpl_eq, fun k hr hl _ hp => word k hr hl hp⟩

theorem Dev.LinkWork.leaveL1 (d : Dev) : Dev.LinkWork d d.leaveL1 :=
  .ofRq d.leaveL1_rest fun _ _ hl _ => d.leaveL1_word (.inr hl)

theorem Dev.LinkWork.raise (d : Dev) (pg b : Nat) : Dev.LinkWork d (d.raise pg b) :=
  .ofRq (d.raise_rest pg b) fun _ hr hl hp => (d.raise_word pg b hr (.inr hl)).trans (if_neg (hp pg))

/-- EV_RAW of HOSTIF is written. -/
theorem Dev.LinkWork.raw (d : Dev) (x : Word) : Dev.LinkWork d (d.putWord HOSTIF.pg 0x00C x) :=
  ⟨rfl, rfl, rfl, fun _ _ _ hc _ => (Dev.regs_word_putWord ..).trans (if_neg hc)⟩

theorem Dev.LinkWork.ptmCond (d : Dev) : Dev.LinkWork d d.ptmCond := by
  unfold Dev.ptmCond Dev.cond
  dsimp only
  split
  · exact .refl d
  · split
    · exact (Dev.LinkWork.raw d _).trans (.raise _ _ _)
    · exact .raw d _

/-! ### Standing requests are looked at again (R384) -/

/-- Some requests stand, and with one that is not held the link has left L1. -/
theorem Dev.reqs_leaveL1_rq (d : Dev) (l : List MsiReq) (c : Bool) :
    Dev.Rq d (({ d with host := { d.host with reqs := l } } : Dev).onlyIf c (·.leaveL1)) := by
  cases c
  · exact .reqs d l
  · exact (Dev.Rq.reqs d l).trans (Dev.leaveL1_rest _)

theorem Dev.reqs_leaveL1_word (d : Dev) (l : List MsiReq) (c : Bool) {k : Nat} (hl : d.OffLink k) :
    (({ d with host := { d.host with reqs := l } } : Dev).onlyIf c (·.leaveL1)).regs.word k = d.regs.word k := by
  cases c
  · rfl
  · exact Dev.leaveL1_word _ hl

theorem Dev.refreshReqs_rq (d : Dev) : Dev.Rq d d.refreshReqs := by
  unfold Dev.refreshReqs
  dsimp only
  split
  · exact d.reqs_leaveL1_rq _ _
  · exact (d.reqs_leaveL1_rq _ _).trans (.count ..)

/-- HELD_CNT may count, and the link may leave L1. -/
theorem Dev.refreshReqs_word (d : Dev) {k : Nat} (h : k ≠ heldKey) (hl : d.OffLink k) :
    d.refreshReqs.regs.word k = d.regs.word k := by
  unfold Dev.refreshReqs Dev.count
  dsimp only
  split
  · exact d.reqs_leaveL1_word _ _ hl
  · split
    · exact d.reqs_leaveL1_word _ _ hl
    · exact ((Dev.regs_word_wr ..).trans (if_neg h)).trans (d.reqs_leaveL1_word _ _ hl)

theorem Dev.LinkWork.refreshReqs (d : Dev) : Dev.LinkWork d d.refreshReqs :=
  .ofRq d.refreshReqs_rq fun _ hr hl _ => d.refreshReqs_word (fun e => hr (by simp [raiseKeys, e])) (.inr hl)

/-! ### Reads go out (R69, R74) -/

theorem Dev.LinkWork.issueOne (d : Dev) : Dev.LinkWork d d.issueOne := by
  unfold Dev.issueOne
  split
  · exact .refl d
  · exact ⟨rfl, rfl, rfl, fun _ _ _ _ _ => rfl⟩

theorem Dev.LinkWork.issue (n : Nat) : ∀ d : Dev, Dev.LinkWork d (d.issue n) := by
  induction n with
  | zero => exact .refl
  | succ n ih =>
    intro d
    unfold Dev.issue
    split
    · exact .refl d
    · exact (Dev.LinkWork.issueOne d).trans (ih _)

theorem Dev.LinkWork.exitL1 (d : Dev) : Dev.LinkWork d d.exitL1 := by
  unfold Dev.exitL1
  dsimp only
  split
  · exact ⟨rfl, rfl, rfl, fun _ _ hl _ _ => (Dev.regs_word_wr ..).trans (if_neg hl)⟩
  · exact ⟨rfl, rfl, rfl, fun _ _ _ _ _ => rfl⟩

theorem Dev.LinkWork.issueAll (d : Dev) : Dev.LinkWork d d.issueAll := by
  unfold Dev.issueAll
  dsimp only
  split
  · exact (Dev.LinkWork.issue _ d).trans (.exitL1 _)
  · exact .issue _ d

theorem Dev.LinkWork.ltr (d : Dev) : Dev.LinkWork d d.ltr := by
  unfold Dev.ltr Dev.setLtr
  split
  · exact .refl d
  · exact ⟨rfl, rfl, rfl, fun _ _ _ _ _ => rfl⟩

/-! ### A function that may issue no reads leaves the last completion alone (R69, R160, R161) -/

@[simp] theorem Dev.raise_cpl (d : Dev) (pg b : Nat) : (d.raise pg b).host.cpl = d.host.cpl := (d.raise_rest pg b).cpl_eq

@[simp] theorem Dev.count_cpl (d : Dev) (pg : Nat) (f : Fld) (n i j k : Nat) : (d.count pg f n i j k).host.cpl = d.host.cpl :=
  (Dev.Rq.count d pg f n i j k).cpl_eq

@[simp] theorem Dev.fetch_cpl (d : Dev) (w : ReadWork) : (d.fetch w).host.cpl = d.host.cpl :=
  ((Dev.LinkWork.issueAll _).trans (.ltr _)).cpl

@[simp] theorem Dev.endJob_cpl (d : Dev) (j : Job) : (d.endJob j).host.cpl = d.host.cpl := rfl

@[simp] theorem Dev.useNone_cpl (d : Dev) (m use : Nat) : (d.useNone m use).host.cpl = d.host.cpl := rfl

@[simp] theorem Dev.useStat_cpl (d : Dev) (m use gen : Nat) : (d.useStat m use gen).host.cpl = d.host.cpl := rfl

@[simp] theorem Dev.mouldState_cpl (d : Dev) (m st : Nat) : (d.mouldState m st).host.cpl = d.host.cpl := by
  unfold Dev.mouldState
  split <;> rfl

@[simp] theorem Dev.supersede_cpl (d : Dev) (m : Nat) (new : Option Held) : (d.supersede m new).host.cpl = d.host.cpl := by
  unfold Dev.supersede
  split <;> rfl

@[simp] theorem Dev.keepHeld_cpl (d : Dev) (m : Nat) : (d.keepHeld m).host.cpl = d.host.cpl := by
  unfold Dev.keepHeld
  split
  · split
    · exact Dev.supersede_cpl ..
    · rfl
  · rfl

@[simp] theorem Dev.fetchHeld_cpl (d : Dev) (m : Nat) (hv : Regs) : (d.fetchHeld m hv).host.cpl = d.host.cpl := by
  unfold Dev.fetchHeld
  split
  · rfl
  · exact Dev.fetch_cpl ..

@[simp] theorem Dev.leaveOut_cpl (d : Dev) (m : Nat) : (d.leaveOut m).host.cpl = d.host.cpl := by simp [Dev.leaveOut]

@[simp] theorem Dev.fallCount_cpl (d : Dev) (m : Nat) : (d.fallCount m).host.cpl = d.host.cpl := by simp [Dev.fallCount]

@[simp] theorem Dev.useHeld_cpl (d : Dev) (v : Regs) (m : Nat) : (d.useHeld v m).host.cpl = d.host.cpl := by
  unfold Dev.useHeld
  split
  · split <;> simp
  · simp

@[simp] theorem Dev.useNew_cpl (d : Dev) (v : Regs) (m : Nat) : (d.useNew v m).host.cpl = d.host.cpl := by
  unfold Dev.useNew
  dsimp only
  split <;> simp

@[simp] theorem Dev.fallback_cpl (d : Dev) (v : Regs) (m : Nat) : (d.fallback v m).host.cpl = d.host.cpl := by
  unfold Dev.fallback
  dsimp only
  split <;> simp

@[simp] theorem Dev.retest_cpl (d : Dev) (v : Regs) (m : Nat) : (d.retest v m).2.host.cpl = d.host.cpl := by
  unfold Dev.retest Dev.joinReady
  split
  · split <;> simp
  · rfl

@[simp] theorem Dev.fenceAnswered_cpl (d : Dev) (m : Nat) : (d.fenceAnswered m).host.cpl = d.host.cpl := by
  unfold Dev.fenceAnswered
  split
  · rfl
  · dsimp only
    split
    · rfl
    · split <;> simp

@[simp] theorem Dev.fallMid_cpl (d : Dev) (v : Regs) (m line : Nat) : (d.fallMid v m line).host.cpl = d.host.cpl := by
  unfold Dev.fallMid
  dsimp only
  split
  · simp
  · split
    · split <;> simp
    · simp

@[simp] theorem Dev.sourceLost_cpl (d : Dev) (v : Regs) (m line : Nat) : (d.sourceLost v m line).host.cpl = d.host.cpl := by
  unfold Dev.sourceLost
  dsimp only
  split
  · simp
  · split
    · split <;> simp
    · simp
  · simp
  · simp

@[simp] theorem Dev.couchShow_cpl (d : Dev) : d.couchShow.host.cpl = d.host.cpl := rfl

@[simp] theorem Dev.fenceFailed_cpl (d : Dev) (m line : Nat) : (d.readFailed (.fence m) line).host.cpl = d.host.cpl := by
  simp [Dev.readFailed]

@[simp] theorem Dev.layerEnded_cpl (d : Dev) (m line : Nat) : (d.readEnded (.layer m) line).host.cpl = d.host.cpl := by
  cases hp : d.couch.pass <;> simp [Dev.readEnded, Dev.readFailed, hp]

@[simp] theorem Dev.composeLine_cpl (d : Dev) : d.composeLine.2.host.cpl = d.host.cpl := by
  unfold Dev.composeLine
  split
  · dsimp only
    split
    · rfl
    · split <;> rfl
  · rfl

theorem Dev.masterOff_cpl (d : Dev) (f : Nat) : (d.masterOff f).host.cpl = d.host.cpl := by
  unfold Dev.masterOff
  dsimp only
  split
  · rfl
  · refine List.foldlRecOn (motive := fun c : Dev => c.host.cpl = d.host.cpl) _ _ d.composeLine_cpl fun c same j _ => ?_
    split <;> simp [same]

/-- With no read of function f still to be issued nothing ends. -/
theorem Dev.masterOff_idle {d : Dev} {f : Nat} (idle : d.host.todo.all (fun w => w.fn != f) = true) : d.masterOff f = d := by
  have none : (d.host.todo.filter fun w => w.fn == f) = [] := by
    rw [List.filter_eq_nil_iff]
    intro w hw
    simpa using List.all_eq_true.mp idle w hw
  unfold Dev.masterOff
  rw [none]
  simp

/-! ### What a command leaves once it has settled -/

theorem Dev.Rest.fns_eq {b d : Dev} (h : Dev.Rest b d) : d.host.fns = b.host.fns := by rw [h.1]

theorem Dev.Rest.cpl_eq {b d : Dev} (h : Dev.Rest b d) : d.host.cpl = b.host.cpl := by rw [h.1]

theorem Dev.Rest.lastMsg_eq {b d : Dev} (h : Dev.Rest b d) : d.host.lastMsg = b.host.lastMsg := by rw [h.1]

theorem settle_cpl (d0 d : Dev) : (Dev.settle d0 d).host.cpl = d.host.cpl := (settle_rest d0 d).cpl_eq

theorem Dev.fn_congr {b d : Dev} (h : d.host.fns = b.host.fns) (f : Nat) : d.fn f = b.fn f := by rw [Dev.fn, h]; rfl

theorem settle_fn (d0 d : Dev) (f : Nat) : (Dev.settle d0 d).fn f = d.fn f := Dev.fn_congr (settle_rest d0 d).fns_eq f

theorem Dev.leaveL1_fn (d : Dev) (f : Nat) : d.leaveL1.fn f = d.fn f := Dev.fn_congr d.leaveL1_rest.fns_eq f

/-- A body that leaves the standing registers as the device had them changes nothing by settling while the device is quiet. -/
theorem Dev.Only.settle {d0 b : Dev} (h : ∀ k ∈ standKeys, b.regs.word k = d0.regs.word k) : Dev.Only [] [] b (Dev.settle d0 b) := by
  refine ⟨.settle d0 b, fun quiet => ?_⟩
  have settled : d0.settled = true := (Dev.settled_congr h).symm.trans quiet.2
  rw [Dev.settle_same settled h]
  exact ⟨rfl, fun _ => rfl, fun _ _ _ _ => rfl, fun _ _ _ => by simp⟩

/-- What settles after a change of registers and the host side has changed these and the power state. -/
theorem Dev.HostSide.settled {b e d : Dev} (rest : Dev.HostSide b e) (h : Dev.Rest e d) :
    d = { b with regs := d.regs, pwr := d.pwr, host := d.host } := by
  obtain ⟨settled, -⟩ := h
  rw [rest] at settled
  exact settled.trans (by rw [settled])

/-- The frame of a body that changes the host side as it likes, and of the registers ks, HELD_CNT and, in L1, the link state. -/
theorem Dev.Changes.settle_host {ks : List Nat} {d0 b e : Dev} (rest : Dev.HostSide b e)
    (word : ∀ k, k ∉ ks → k ≠ heldKey → b.OffLink k → e.regs.word k = b.regs.word k) :
    Dev.Changes ks [] { b with host := (Dev.settle d0 e).host } (Dev.settle d0 e) := by
  obtain ⟨-, words, pends⟩ := Dev.Changes.settle d0 e
  have off : ∀ k, k ∉ ks → b.OffLink k → e.OffLink k := by
    intro k hk hl
    by_cases link : linkKey ∈ ks
    · exact .inr fun same => hk (same ▸ link)
    · exact hl.imp_left fun out => (Dev.inL1_congr (word linkKey link (by decide) (.inl out))).trans out
  refine ⟨⟨?_, fun _ => ⟨rfl, rfl, rfl⟩⟩, fun k hk hw hl hp => ?_, fun p i hk => ?_⟩
  · exact rest.settled (settle_rest d0 e)
  · have held : k ≠ heldKey := fun same => hw (same ▸ by decide)
    exact (words k (by simp) hw (off k hk hl) hp).trans (word k hk held hl)
  · have same : e.pend p i = b.pend p i :=
      congrArg (fun x : Word => bit x.toNat i) (word (rkey p 0x014) hk (pendKey_ne_held p) (.inr (pendKey_ne_link p)))
    rw [← show e.pend p i = Dev.pend { b with host := (Dev.settle d0 e).host } p i from same]
    exact pends p i (by simp)

/-! ### Configuration requests -/

/-- While it is unreachable the device does not complete a configuration request (R27, R73, R102). -/
theorem exec_configRequest_unanswered {s : State} (h : s.dev.pwr.testMode = true ∨ s.dev.pwr.perst = true ∨ s.dev.halted = true)
    (f : Fin 3) (r : CfgReg) (w : Option Nat) (us up : Nat) :
    exec (.configRequest f r w us up) s = finish (·.replyStatus 3) s := by
  have unreachable : (s.dev.pwr.testMode || s.dev.pwr.perst || s.dev.halted) = true := by
    rcases h with h | h | h <;> simp [h]
  show execConfigRequest f r w us up s = _
  simp only [execConfigRequest, finish, unreachable, if_true]

/-- A ready device completes a configuration read with the register's value (R64). -/
def Dev.cfgRead (d : Dev) (f : Nat) (r : CfgReg) : Dev := d.reply (leBytes 4 ((d.fn f).cfg f r))

/-- What a configuration write does to a ready device (R64, R69, R384). -/
def Dev.cfgSet (d : Dev) (f : Nat) (r : CfgReg) (n : Nat) : Dev :=
  ((((((d.setFn f ((d.fn f).cfgWrite r n)).reply []).refreshReqs).masterOff f).issueAll).ltr).ptmCond

/-- A configuration request that reaches the device is done, or answered CRS while the device is not ready. -/
theorem exec_configRequest_reached {s : State} (test : s.dev.pwr.testMode = false) (perst : s.dev.pwr.perst = false)
    (alive : s.dev.halted = false) (f : Fin 3) (r : CfgReg) (w : Option Nat) (us up : Nat) :
    exec (.configRequest f r w us up) s =
      finish (fun d =>
        if (d.leaveL1.cfgReady us up).1 then w.elim ((d.leaveL1.cfgReady us up).2.cfgRead f.val r) ((d.leaveL1.cfgReady us up).2.cfgSet f.val r)
        else (d.leaveL1.cfgReady us up).2.replyStatus 2) s := by
  show execConfigRequest f r w us up s = _
  simp only [execConfigRequest, finish, test, perst, alive, Bool.or_false, Bool.false_eq_true, if_false]
  cases (s.dev.leaveL1.cfgReady us up).1 <;> cases w <;> rfl

/-- By 40 ms after the reset reference and 20 ms after the release of PERST_N the device is ready (R102). -/
theorem Dev.cfgReady_ready (d : Dev) {us up : Nat} (reset : 40000 ≤ us) (released : 20000 ≤ up) : d.cfgReady us up = (true, d) := by
  simp [Dev.cfgReady, reset, released]

theorem exec_configRequest_ready {s : State} (test : s.dev.pwr.testMode = false) (perst : s.dev.pwr.perst = false)
    (alive : s.dev.halted = false) (f : Fin 3) (r : CfgReg) (w : Option Nat) {us up : Nat} (reset : 40000 ≤ us) (released : 20000 ≤ up) :
    exec (.configRequest f r w us up) s = finish (fun d => w.elim (d.leaveL1.cfgRead f.val r) (d.leaveL1.cfgSet f.val r)) s := by
  rw [exec_configRequest_reached test perst alive]
  simp only [Dev.cfgReady_ready _ reset released, if_true]

/-- A configuration write completes without data, whatever reads it ends. -/
theorem Dev.cfgSet_cpl (d : Dev) (f : Nat) (r : CfgReg) (n : Nat) : (d.cfgSet f r n).host.cpl = ⟨[], 0, false⟩ := by
  unfold Dev.cfgSet
  rw [((Dev.LinkWork.issueAll _).trans ((Dev.LinkWork.ltr _).trans (.ptmCond _))).cpl, Dev.masterOff_cpl, (Dev.LinkWork.refreshReqs _).cpl]
  rfl

/-- With none of the function's reads still to be issued, the rest of the write is the link's. -/
theorem Dev.cfgSet_linkWork {d : Dev} {f : Nat} (idle : d.host.todo.all (fun w => w.fn != f) = true) (r : CfgReg) (n : Nat) :
    Dev.LinkWork ((d.setFn f ((d.fn f).cfgWrite r n)).reply []) (d.cfgSet f r n) := by
  have still : ((d.setFn f ((d.fn f).cfgWrite r n)).reply []).refreshReqs.host.todo.all (fun w => w.fn != f) = true := by
    rw [(Dev.refreshReqs_rq _).todo_eq]
    exact idle
  unfold Dev.cfgSet
  rw [Dev.masterOff_idle still]
  exact (Dev.LinkWork.refreshReqs _).trans ((Dev.LinkWork.issueAll _).trans ((Dev.LinkWork.ltr _).trans (.ptmCond _)))

theorem Dev.cfgReady_host (d : Dev) (us up : Nat) : (d.cfgReady us up).2.host = d.host := by
  unfold Dev.cfgReady
  split <;> rfl

section
variable {s : State} (f : Fin 3) (r : CfgReg) {us up : Nat}

/-- A read completes with the register's value and changes nothing else. -/
theorem ran_configRead (test : s.dev.pwr.testMode = false) (perst : s.dev.pwr.perst = false) (alive : s.dev.halted = false)
    (reset : 40000 ≤ us) (released : 20000 ≤ up) :
    Ran (.configRequest f r none us up) s fun d =>
      d.host.cpl = ⟨leBytes 4 ((s.dev.fn f.val).cfg f.val r), 0, false⟩ ∧
      Dev.Only [] [] { s.dev.leaveL1 with host := { s.dev.leaveL1.host with cpl := d.host.cpl } } d := by
  refine ran_of (exec_configRequest_ready test perst alive f r none reset released) ?_
  rw [settle_cpl]
  refine ⟨?_, ?_⟩
  · rw [← Dev.leaveL1_fn]
    rfl
  · exact .settle (b := s.dev.leaveL1.cfgRead f.val r) fun k hk => s.dev.leaveL1_word (.inr (standKeys_not_pend k hk).2.1)

/-- A write changes that field of that function. -/
theorem ran_configWrite (n g : Nat) (test : s.dev.pwr.testMode = false) (perst : s.dev.pwr.perst = false) (alive : s.dev.halted = false)
    (reset : 40000 ≤ us) (released : 20000 ≤ up) (idle : s.dev.host.todo.all (fun w => w.fn != f.val) = true) :
    Ran (.configRequest f r (some n) us up) s fun d =>
      d.host.cpl = ⟨[], 0, false⟩ ∧
      d.fn f.val = (s.dev.fn f.val).cfgWrite r n ∧
      (g ≠ f.val → d.fn g = s.dev.fn g) ∧
      d = { s.dev with regs := d.regs, pwr := d.pwr, host := d.host } ∧
      Dev.WordsBut (fun k => k == rkey HOSTIF.pg 0x00C || k == rkey HOSTIF.pg 0x008) s.dev d := by
  have work : Dev.LinkWork _ (s.dev.leaveL1.cfgSet f.val r n) :=
    Dev.cfgSet_linkWork (by rw [s.dev.leaveL1_rest.todo_eq]; exact idle) r n
  have fn (h : Nat) : (Dev.settle s.dev (s.dev.leaveL1.cfgSet f.val r n)).fn h =
      if h = f.val then (s.dev.fn f.val).cfgWrite r n else s.dev.fn h := by
    rw [settle_fn, Dev.fn_congr work.fns]
    exact (Dev.fn_setFn ..).trans (by rw [Dev.leaveL1_fn, Dev.leaveL1_fn])
  refine ran_of (exec_configRequest_ready test perst alive f r (some n) reset released) ?_
  refine ⟨(settle_cpl _ _).trans (Dev.cfgSet_cpl ..), (fn _).trans (if_pos rfl), fun other => (fn g).trans (if_neg other), ?_, ?_⟩
  · exact (s.dev.leaveL1_rest.hostSide.trans (.trans (d := (s.dev.leaveL1.setFn _ _).reply []) rfl work.rest)).settled (settle_rest s.dev _)
  · intro k hk hw _ hp
    simp only [Bool.or_eq_false_iff, beq_eq_false_iff_ne] at hk
    obtain ⟨raw, link⟩ := hk
    have notRaise : k ∉ raiseKeys := fun hr => hw (raiseKeys_subset_wakeKeys k hr)
    calc _ = (s.dev.leaveL1.cfgSet f.val r n).regs.word k := settle_word _ _ ⟨hw, hp⟩ (.inr link)
      _ = s.dev.leaveL1.regs.word k := work.word k notRaise link raw hp
      _ = s.dev.regs.word k := s.dev.leaveL1_word (.inr link)

/-- The unreachable device answers with no completion. -/
theorem ran_configUnanswered (w : Option Nat) (h : s.dev.pwr.testMode = true ∨ s.dev.pwr.perst = true ∨ s.dev.halted = true) :
    Ran (.configRequest f r w us up) s fun d =>
      d.host.cpl = ⟨[], 3, false⟩ ∧
      Dev.Only [] [] { s.dev with host := { s.dev.host with cpl := d.host.cpl } } d := by
  refine ran_of (exec_configRequest_unanswered h f r w us up) ?_
  rw [settle_cpl]
  exact ⟨rfl, .settle (b := s.dev.replyStatus 3) fun _ _ => rfl⟩

/-- A request that reaches the device completes, early with CRS perhaps. -/
theorem ran_configEarly (w : Option Nat) (test : s.dev.pwr.testMode = false) (perst : s.dev.pwr.perst = false)
    (alive : s.dev.halted = false) :
    Ran (.configRequest f r w us up) s fun d => d.host.cpl.status = 0 ∨ d.host.cpl = ⟨[], 2, false⟩ := by
  refine ran_of (exec_configRequest_reached test perst alive f r w us up) ?_
  rw [settle_cpl]
  cases (s.dev.leaveL1.cfgReady us up).1 with
  | false => exact .inr rfl
  | true =>
    left
    cases w with
    | none => rfl
    | some n => exact congrArg Cpl.status (Dev.cfgSet_cpl _ f.val r n)

end

/-! ### The MSI-X table (R64, R384) -/

/-- What a write of the table or of its control does to the function's configuration. -/
def Fn.msixWrite (x : Fn) : MsixWrite → Fn
  | .addr v a => x.setEntry v.val { x.entry v.val with addr := a.toNat }
  | .data v a => x.setEntry v.val { x.entry v.val with data := a.toNat }
  | .mask v b => x.setEntry v.val { x.entry v.val with mask := b }
  | .enable b => x.enableMsix b
  | .fmask b => { x with msixFMask := b }
  | .read _ _ => x

theorem MsixWrite.isRead_or_writes (m : MsixWrite) : (∃ off len, m = .read off len) ∨ ∀ off len, m ≠ .read off len := by
  cases m with
  | read off len => exact .inl ⟨off, len, rfl⟩
  | addr u a | data u a | mask u b | enable b | fmask b => exact .inr fun _ _ same => nomatch same

theorem Dev.msixSet_eq (d : Dev) (f : Nat) (m : MsixWrite) : d.msixSet f m = (d.setFn f ((d.fn f).msixWrite m)).refreshReqs := by
  cases m <;> rfl

theorem Fn.entry_setEntry (x : Fn) (u : Nat) (e : MsixEntry) (v : Nat) : (x.setEntry u e).entry v = if v = u then e else x.entry v :=
  mget_mset ..

/-- A table write changes its entry alone. -/
theorem Fn.entry_msixWrite (x : Fn) (m : MsixWrite) (v : Fin 256) : (x.msixWrite m).entry v.val = entryAfter m v (x.entry v.val) := by
  cases m with
  | addr u a | data u a | mask u b =>
    refine (Fn.entry_setEntry ..).trans ?_
    by_cases same : u = v
    · subst same
      exact (if_pos rfl).trans (if_pos rfl).symm
    · exact (if_neg fun e => same (Fin.ext e.symm)).trans (if_neg same).symm
  | enable b | fmask b | read off len => rfl

theorem Dev.msixSet_fn (d : Dev) (f : Nat) (m : MsixWrite) (g : Nat) :
    (d.msixSet f m).fn g = if g = f then (d.fn f).msixWrite m else d.fn g := by
  rw [Dev.msixSet_eq, Dev.fn_congr (Dev.refreshReqs_rq _).fns_eq]
  exact Dev.fn_setFn ..

/-- The table lies on the host side; of the registers, HELD_CNT may count and the link may leave L1. -/
theorem Dev.msixSet_changes (d0 : Dev) (f : Nat) (m : MsixWrite) :
    Dev.Changes [] [] { d0 with host := (Dev.settle d0 (d0.msixSet f m)).host } (Dev.settle d0 (d0.msixSet f m)) := by
  rw [Dev.msixSet_eq]
  refine .settle_host (.trans (d := d0.setFn f _) rfl (Dev.refreshReqs_rq _).hostSide) fun k _ held off => ?_
  exact Dev.refreshReqs_word (d0.setFn f _) held off

theorem exec_msixTableWrite (f : Fin 3) (m : MsixWrite) (s : State) : exec (.msixTableWrite f m) s = execMsixTableWrite f m s := rfl

/-- The control lies in configuration space, which answers whatever the state of the function. -/
theorem exec_msixEnable (f : Fin 3) (b : Bool) (s : State) : exec (.msixTableWrite f (.enable b)) s = finish (·.msixSet f.val (.enable b)) s := by
  rw [exec_msixTableWrite, execMsixTableWrite]

theorem exec_msixRead {s : State} {f : Fin 3} (h : s.dev.takes (Req.ofFn f) = true) (off len : Nat) :
    exec (.msixTableWrite f (.read off len)) s =
      finish (fun d => d.reply ((List.range len).map fun i => d.bar4Byte f.val (off + i))) s := by
  simp only [exec_msixTableWrite, execMsixTableWrite, finish, Dev.hostDo_takes h]

/-- A write of the table, or of its control, that is performed now. -/
theorem exec_msixSet {s : State} {f : Fin 3} (h : s.dev.takes (Req.ofFn f) = true) {m : MsixWrite} (write : ∀ off len, m ≠ .read off len) :
    exec (.msixTableWrite f m) s = finish (·.msixSet f.val m) s := by
  cases m with
  | read off len => exact absurd rfl (write off len)
  | enable b | fmask b =>
    rw [exec_msixTableWrite, execMsixTableWrite]
  | addr u a | data u a | mask u b =>
    simp only [exec_msixTableWrite, execMsixTableWrite, finish, Dev.hostDo_takes h]

section
variable {s : State} {f : Fin 3}

/-- The read of BAR4 answers the table and the PBA, and changes nothing else. -/
theorem ran_msixRead (h : s.dev.takes (Req.ofFn f) = true) (off len : Nat) :
    Ran (.msixTableWrite f (.read off len)) s fun d =>
      d.host.cpl = ⟨(List.range len).map fun i => s.dev.bar4Byte f.val (off + i), 0, false⟩ ∧
      Dev.Only [] [] { s.dev with host := { s.dev.host with cpl := d.host.cpl } } d := by
  refine ran_of (exec_msixRead h off len) ?_
  rw [settle_cpl]
  exact ⟨rfl, .settle (b := s.dev.reply _) fun _ _ => rfl⟩

/-- An access to the table, a read as well, changes at most the entry it names, and no other function. -/
theorem ran_msixWrite (h : s.dev.takes (Req.ofFn f) = true) (m : MsixWrite) (v : Fin 256) (g : Nat) :
    Ran (.msixTableWrite f m) s fun d =>
      (d.fn f.val).entry v.val = entryAfter m v ((s.dev.fn f.val).entry v.val) ∧
      (g ≠ f.val → d.fn g = s.dev.fn g) ∧
      Dev.Changes [] [] { s.dev with host := d.host } d := by
  rcases MsixWrite.isRead_or_writes m with ⟨off, len, rfl⟩ | write
  · refine ran_of (exec_msixRead h off len) ⟨?_, fun _ => settle_fn .., ?_⟩
    · rw [settle_fn]
      rfl
    · exact .settle_host rfl fun _ _ _ _ => rfl
  · refine ran_of (exec_msixSet h write) ⟨?_, fun other => ?_, Dev.msixSet_changes ..⟩
    · rw [settle_fn, Dev.msixSet_fn, if_pos rfl, Fn.entry_msixWrite]
    · rw [settle_fn, Dev.msixSet_fn, if_neg other]

theorem ran_msixEnable (f : Fin 3) (s : State) :
    Ran (.msixTableWrite f (.enable true)) s fun d =>
      (d.fn f.val).msixEn = true ∧ Dev.Changes [] [] { s.dev with host := d.host } d := by
  refine ran_of (exec_msixEnable f true s) ⟨?_, Dev.msixSet_changes ..⟩
  rw [settle_fn, Dev.msixSet_fn, if_pos rfl]
  rfl

end

/-! ### A message goes out (R384, R385) -/

/-- The standing request of vector v of function f becomes the last message. -/
def Dev.msixGone (d : Dev) (f v : Nat) : Dev :=
  { d with host := { d.host with
    reqs := d.host.reqs.filter fun r => !(r.f == f && r.v == v)
    lastMsg := some ⟨f, v, ((d.fn f).entry v).addr, ((d.fn f).entry v).data⟩ } }

theorem exec_msixSend {s : State} {f : Fin 3} {v : Fin 256}
    (stands : s.dev.host.reqs.any (fun r => r.f == f.val && r.v == v.val && !r.held) = true) (free : s.dev.holding f.val v.val = false) :
    exec (.msixSend f v) s = finish (fun d => (d.leaveL1.msixGone f.val v.val).count CRIER.pg CRIER.MSG_CNT_COUNT) s := by
  show execMsixSend f v s = _
  simp only [execMsixSend, finish, stands, free, Bool.not_false, Bool.and_true, if_true]
  rfl

/-- A counter of a page that is not frozen saturates. -/
theorem Dev.rd_count {d : Dev} {pg : Nat} {c : Fld} {i j k : Nat} (running : d.frozen pg = false) (fits : c.lo + j * c.bstr + c.w ≤ 32) (n : Nat) :
    (d.count pg c n i j k).rd pg c i j k = satU c.w (d.rd pg c i j k + n) := by
  have within : satU c.w (d.rd pg c i j k + n) < 2 ^ c.w :=
    Nat.lt_of_le_of_lt (Nat.min_le_right ..) (Nat.sub_lt (Nat.two_pow_pos _) Nat.one_pos)
  rw [Dev.count, if_neg (by simp [running]), Dev.rd_wr_same _ _ _ _ _ _ _ fits, Nat.mod_eq_of_lt within]

/-- A counter's register alone is written. -/
theorem Dev.count_word (d : Dev) (pg : Nat) (c : Fld) (n i j k : Nat) {q : Nat} (h : q ≠ c.key pg i k) :
    (d.count pg c n i j k).regs.word q = d.regs.word q := by
  unfold Dev.count
  split
  · rfl
  · exact (Dev.regs_word_wr ..).trans (if_neg h)

theorem untouched_msgCnt : Untouched (CRIER.MSG_CNT_COUNT.key CRIER.pg 0 0) :=
  ⟨by decide, fun _ => rkey_ne_off (by decide) (by decide) (by decide)⟩

theorem ran_msixSend {s : State} {f : Fin 3} {v : Fin 256}
    (stands : s.dev.host.reqs.any (fun r => r.f == f.val && r.v == v.val && !r.held) = true) (free : s.dev.holding f.val v.val = false) :
    Ran (.msixSend f v) s fun d =>
      d.host.lastMsg = some ⟨f.val, v.val, ((s.dev.fn f.val).entry v.val).addr, ((s.dev.fn f.val).entry v.val).data⟩ ∧
      (s.dev.frozen CRIER.pg = false → d.rd CRIER.pg CRIER.MSG_CNT_COUNT = satU CRIER.MSG_CNT_COUNT.w (s.dev.rd CRIER.pg
        CRIER.MSG_CNT_COUNT + 1)) ∧
      Dev.Changes [CRIER.MSG_CNT_COUNT.key CRIER.pg 0 0, rkey HOSTIF.pg 0x008] [] { s.dev with host := d.host } d := by
  have word {k : Nat} (hl : k ≠ linkKey) : (s.dev.leaveL1.msixGone f.val v.val).regs.word k = s.dev.regs.word k :=
    s.dev.leaveL1_word (.inr hl)
  refine ran_of (exec_msixSend stands free) ⟨?_, fun running => ?_, ?_⟩
  · rw [(settle_rest _ _).lastMsg_eq, (Dev.Rq.count ..).lastMsg_eq, ← Dev.leaveL1_fn]
    rfl
  · have unfrozen : (s.dev.leaveL1.msixGone f.val v.val).frozen CRIER.pg = false :=
      (congrArg (· == 1) (Dev.rd_congr (word (by decide)))).trans running
    rw [settle_rd _ _ _ _ _ _ _ untouched_msgCnt (.inr (by decide)), Dev.rd_count unfrozen (by decide), Dev.rd_congr (word (by decide))]
  · refine .settle_host ?_ fun k hk _ _ => ?_
    · exact s.dev.leaveL1_rest.hostSide.trans (.trans (d := s.dev.leaveL1.msixGone _ _) rfl (Dev.Rq.count ..).hostSide)
    · simp only [List.mem_cons, List.not_mem_nil, or_false, not_or] at hk
      obtain ⟨count, link⟩ := hk
      exact (Dev.count_word _ _ _ _ _ _ _ count).trans (word link)

/-- Settles O12: each clause is the command's own lemma above. -/
theorem configAndMessages : Obligations.ConfigAndMessages := by
  unfold Obligations.ConfigAndMessages
  intro s f r n us up g off len w m v
  exact ⟨ran_configRead f r, ran_configWrite f r n g, ran_configUnanswered f r w, fun test perst alive _ => ran_configEarly f r w test perst alive,
    fun h => ran_msixWrite h m v g, ran_msixEnable f s, fun h => ran_msixRead h off len, ran_msixSend⟩

end Sys2Proof.Machine
end
